-- ==== Sys2Proof/Word.lean ====
section
/-! DEFINITION. The word types of the device (R142, R64) and nothing else: a byte, a 64-bit double-word, a 128-bit vector. -/

namespace Sys2Proof

/-- One byte of memory. -/
abbrev Byte := BitVec 8

/-- A 64-bit scalar register, address or control register. -/
abbrev Word := BitVec 64

/-- A 128-bit vector register or channel entry (R142). -/
abbrev Vec := BitVec 128

end Sys2Proof
end

