-- ==== Sys2Proof/Config.lean ====
section
/-! DEFINITION. What is fixed for one device or left open by the spec: constants with no body, so that no proof can see a value.
Cryptographic functions are the standards R436 names; the spec gives their names and not their steps. -/

namespace Sys2Proof.Config

/-- A byte string of a length that the spec gives: it is cut, or filled with zeros. -/
def ofLength (n : Nat) (b : List Byte) : List Byte := (b ++ List.replicate n 0).take n

/-- SHA3-512 (FIPS 202), R436: a digest of 64 bytes. PRESUMED: the function is named by the spec and not written out (log 6). -/
opaque sha3Bytes : List Byte → List Byte
def sha3_512 (b : List Byte) : List Byte := ofLength 64 (sha3Bytes b)

/-- Verification of a pure ML-DSA-87 signature with an empty context string: public key, message, signature (R436). -/
opaque mldsaVerify : List Byte → List Byte → List Byte → Bool

/-- The public key ML-DSA-87 derives from a 32-byte seed (R437, R438): 2,592 bytes (R436). -/
opaque mldsaKeyBytes : List Byte → List Byte
def mldsaPublic (seed : List Byte) : List Byte := ofLength 2592 (mldsaKeyBytes seed)

/-- An ML-DSA-87 signature by the key of a 32-byte seed over a message (R436, R438): 4,627 bytes (R436). -/
opaque mldsaSignature : List Byte → List Byte → List Byte
def mldsaSign (seed message : List Byte) : List Byte := ofLength 4627 (mldsaSignature seed message)

/-- The vendor root digest held in ROM (R435). -/
opaque vendorRoot : List Byte

/-- The verifying key that the monitor holds for a KEYID (R108); none when it holds no such key. -/
opaque monitorKey : List Byte → Option (List Byte)

/-- The public key the monitor checks the configuration blob against (R361, R435). -/
opaque blobKey : List Byte

/-- The fabric device number a configuration blob sets (R361, R408): the spec gives the blob's contents no layout. -/
opaque blobFdev : List Byte → Nat

/-- The 256-bit secret the ROM reconstructs from the SRAM's power-up state and the helper data; none when it cannot be corrected (R437). -/
opaque pufSecret : List Byte → Option (List Byte)

/-- FREE VALUE: what a read of a slot spill area returns (R122: "Any value it reads there is unspecified"); the first argument is the
state's counter of free values, the second the byte's offset. -/
opaque spillByte : Nat → Nat → Byte

/-- FREE VALUE: a byte of SHA3-512 of the image the monitor has booted for a partition (R439): the image itself is software's, and the model does
not hold it. The first argument is the state's counter of free values. -/
opaque imageDigest : Nat → Nat → Byte

/-- FREE VALUE: the syndrome a machine-check record carries (R432 gives the field and no code), by the counter of free values. -/
opaque syndrome : Nat → Word

/-- FREE VALUE: the PA field of the record of a lost Gauntlet entry (R432 names "the key entry" and gives entries no address), by the entry's index. -/
opaque keyEntryAddress : Nat → Nat

/-- FREE VALUE: SEV of that record (R429 and R432 give none), by the counter of free values. -/
opaque keyErrorSev : Nat → Nat

/-- FREE VALUE: the bit of a region's FILTER set that a line hashes to (R274 gives no function). -/
opaque filterHash : Nat → BitVec 10

/-- FREE VALUE: how many devices of the load-store domain are enough for a fabric-tier launch (R365, check 6, gives no number). -/
opaque fabricDevices : Nat

end Sys2Proof.Config
end

