-- ==== Sys2Proof/Syntax.lean ====
section
/-! DEFINITION. The syntax of one step of the device: one constructor of `Instr` per row of the opcode table. An instruction row
carries the decoded fields of its words (`Enc`); a row that is an event of a unit carries which unit, and what the outside supplies. -/

namespace Sys2Proof

/-- An operand specifier, decoded (R70): a register of the field's class, a channel, a stream, or no operand. -/
inductive Opnd where
  | reg (n : Fin 32)
  | chan (n : Fin 8)
  | strm (n : Fin 4)
  | none
  deriving DecidableEq, Repr

/-- A guard (R65): the predicate, and whether it is negated. -/
structure Guard where
  neg : Bool
  p : Fin 8
  deriving DecidableEq, Repr

/-- The extension word (R59): none in the 64-bit form, IMM32 in the 96-bit form, 64 bits in the 128-bit form. -/
inductive Ext where
  | none
  | imm32 (v : BitVec 32)
  | imm64 (v : BitVec 64)
  deriving DecidableEq, Repr

/-- The decoded fields every instruction shares (R64): scheduling, hint, type, variant, operands, guards, the live mask word when SP is
set (R75), and the extension word. The opcode is the constructor of `Instr`. -/
structure Enc where
  yield : Bool
  wait : BitVec 4
  hint : BitVec 2
  typ : BitVec 4
  var : BitVec 4
  e : Opnd
  c : Opnd
  b : Opnd
  a : Opnd
  d : Opnd
  gb : Guard
  ga : Guard
  live : Option (BitVec 64)
  ext : Ext
  deriving DecidableEq, Repr

/-- One step of the device: an instruction of the slot that issues, or an event of a unit. -/
inductive Instr where
  /-- Event MONITOR_START (R435): After HBM stack 0 trains, the first verified monitor slot is copied to the monitor reserve with the hand-off block written, and it runs at level M; otherwise the device stays in RECOVERY. -/
  | monitorStart (stack0Trained : Bool) (absentStacks : List Nat)
  /-- Event ATTEST (R439): A mailbox ATTEST request with a nonce returns an attestation report signed with the alias key, or NOTREADY or NOID. -/
  | attest (nonce : List Byte)
  /-- Event RECOVER (R441): A mailbox RECOVER request in RECOVERY writes monitor slot B and resets the device; outside RECOVERY it answers DENIED. -/
  | recover (image : List Byte)
  /-- Event TELEMETRY_UPDATE (R442): Every 2^21 cycles the management controller rewrites the telemetry block and writes a SOURCE 10 record when a count crosses a multiple of 1,024. -/
  | telemetryUpdate (temps dieMw stackMw : List Nat)
  /-- Event THROTTLE_UPDATE (R443): Each interval the controller chooses throttle level n from power and temperature, pacing issue to 8 − n of every 8 cycles. -/
  | throttleUpdate (need : Nat) (brake : Bool)
  /-- Event THERMAL_TRIP (R443): A die reaching 115 °C drives THERMTRIP and takes the fatal path. -/
  | thermalTrip (die : Nat)
  /-- Event FATAL_ERROR (R433): A fatal error stops issue on every core and engine, writes one SEV 3 record, drives FAULT and leaves only stage S1 functions running. -/
  | fatalError (source die unit : Nat)
  /-- Event LINK_FLIT_ERROR (R429): A CRC error on a die-to-die or scale-up flit is retried at link level, or the link is taken down when uncorrectable. -/
  | linkFlitError (link : Nat) (uncorrectable : Bool)
  /-- Event LINK_DOWN (R413): A failed link removes its bandwidth and its traffic moves to the remaining links with per-sender order kept. -/
  | linkDown (link : Nat)
  /-- Event VF_RESET (R344): A function-level reset of a virtual function resets its partition, re-enables it and posts VFRESET to M. -/
  | vfReset (vf : Nat)
  /-- Event PARTITION_ENABLE (R344): A write of PCTL.EN = 1 checks clusters, control cores, ranges and keys, clears cores taken from another partition, and enables the partition or records ERR. -/
  | partitionEnable (part : Nat)
  /-- Event PARTITION_DISABLE (R344): A write of PCTL.EN = 0 ends every launch of the partition with PARTITION, empties its queues, frees its region slots and frees its control-core slots. -/
  | partitionDisable (part : Nat)
  /-- Event OUTSVC_SET (R346): Setting a bit of OUTSVC takes a cluster out of service, removes it from its partition and ends launches using it with SERVICE. -/
  | outsvcSet (die : Nat) (bits : Word)
  /-- Event REGISTER_WRITE (R341): A write to a privileged control register without behaviour of its own sets its fields under R7. -/
  | registerWrite (pslot num : Nat) (value : Word)
  /-- Event TRAP_TAKEN (R339): A fault, mcall or scall on a control core traps to its target level, writing XEPC, XCAUSE and XVAL and jumping to XVEC. -/
  | trapTaken (pslot code : Nat) (value : Word)
  /-- Event INTERRUPT_TAKEN (R340): A pending interrupt is taken as a trap by a control-core slot of its partition before its next instruction when the level and IE bits permit. -/
  | interruptTaken (pslot : Nat)
  /-- Event OBJECT_LOAD (R109): The loader checks a ZOF file in order and either refuses it with a status or makes it visible whole at one instant. -/
  | objectLoad (part die objId base : Nat) (file : List Byte)
  /-- Event OBJECT_UNLOAD (R110): A request to unload an object is refused with BUSY while a launch of it is queued or unfinished, and otherwise removes it. -/
  | objectUnload (part objId : Nat)
  /-- Event LAUNCH_TAKE (R363): On a reported TAIL write, the Ringmaster reads the next command once, increments HEAD and assigns a LAUNCH identifier, or sets ERR and STOPPED for a bad index. -/
  | launchTake (die queue : Nat)
  /-- Event LAUNCH_WAITING (R365): A launch reaching the head of its queue enters WAITING and its command is checked, refusing it with a cause on the first failed check. -/
  | launchWaiting (lid : Nat)
  /-- Event DEPENDENCE_MET (R370): When the AFTER object, read or re-read on a reported write, reaches its count, the launch enters PLACING or is SKIPPED with DEPFAIL; an unreadable object ends it. -/
  | dependenceMet (lid : Nat)
  /-- Event PLACE_INSTANCE (R366): The Ringmaster places one group instance, choosing its unit by rotation or by ADDR, and sends a launch-start message to each of its cores. -/
  | placeInstance (lid : Nat)
  /-- Event PLACEMENT_FALLBACK (R368): A core-tier instance whose chosen core has had no FREE slot for 2,048 cycles goes to another core of the same cluster. -/
  | placementFallback (core : Nat)
  /-- Event LAUNCH_DONE (R25): A launch enters DONE in the cycle in which its five counts are all zero. -/
  | launchDone (lid : Nat)
  /-- Event LAUNCH_ENDED (R26): When every count of an ending launch is zero its slots enter FREE and it enters ENDED. -/
  | launchEnded (lid : Nat)
  /-- Event LAUNCH_POST (R371): The Ringmaster writes the completion record when the ring has room, credits CREDIT, posts a notification, frees the identifier and tags, and lets the queue advance. -/
  | launchPost (lid : Nat)
  /-- Event QUEUE_STOP_REQUEST (R373): A reported write of STOP makes the Ringmaster stop taking commands and placing instances of the queue within 64 cycles. -/
  | queueStopRequest (die queue : Nat)
  /-- Event QUEUE_STOPPED (R373): STOPPED is set once every launch of the queue past QUEUED has posted, is waiting or is suspended. -/
  | queueStopped (die queue : Nat)
  /-- Event INBOX_TAKE (R15): A FREE slot takes the first startable inbox message in priority order and starts an act with the registers of R10. -/
  | inboxTake (pslot : Nat)
  /-- Event PACKET_ARRIVAL (R20): An arriving packet enters its bound channel, starts a handler act, parks in the tag parking buffer, or is refused for retry. -/
  | packetArrival (index : Nat)
  /-- Event PARKED_PACKET_DELIVER (R20): A parked packet moves to its tag's channel in arrival order once a binding exists and the channel has room. -/
  | parkedPacketDeliver (core index : Nat)
  /-- Event PACKET_RETRY (R20): A sender's network interface retries a refused packet after 64 cycles or more. -/
  | packetRetry (index : Nat)
  /-- Event SLOT_URGENT (R17): A slot ready for 16 consecutive cycles without issuing becomes urgent and takes priority for issue and its resource. -/
  | slotUrgent (pslot : Nat)
  /-- Event ACT_WATCHDOG (R34): When a slot's act watchdog count reaches the partition limit the act faults with WATCHDOG. -/
  | actWatchdog (pslot : Nat)
  /-- Event REMOTE_REQUEST (R138): An rget or rput request in the target core's remote-access buffer is performed at an instruction boundary of the target act and answered. -/
  | remoteRequest (core : Nat)
  /-- Event REMOTE_TIMEOUT (R138): An rget or rput whose target slot does not return to ACTIVE within RTO.TIMEOUT gives status TIMEOUT. -/
  | remoteTimeout (pslot : Nat)
  /-- Event HOLD_EXPIRY (R179): A line hold ends when its c cycles from the grant have passed. -/
  | holdExpiry (pslot : Nat)
  /-- Event STORE_PERFORM (R172): A buffered store, posted atomic or sub-byte store is performed at its home, a sub-byte store as one masked read-modify-write. -/
  | storePerform (pslot index : Nat)
  /-- Event MATRIX_OWNER_RELEASE (R247): The matrix unit's owner is released when its launch has no live act on the core and the queue is empty, or when the launch ends. -/
  | matrixOwnerRelease (core : Nat)
  /-- Event COPY_COMMAND (R444): A copy command entry is started and checked, raising COPY on a command error, or completing at once with a zero credit for length 0. -/
  | copyCommand (core : Nat)
  /-- Event COPY_BEAT (R183): The copy engine performs one 64-byte-aligned beat, writing its bytes, setting granules full and crediting its object when performed. -/
  | copyBeat (core : Nat)
  /-- Event QFENCE_JOIN_COMPLETE (R187): A join entry completes when every entry ahead of it in every joined queue has completed, releasing the entries behind it. -/
  | qfenceJoinComplete (join : Nat)
  /-- Event MMA (R254): Accumulates KSTEPS operand steps into a tile by the fixed sum order, with residue checks and an optional drain. -/
  | mma (core : Nat) (mismatch : List Nat)
  /-- Event MMAZ (R254): Sets a tile to +0 and then accumulates as MMA. -/
  | mmaz (core : Nat) (mismatch : List Nat)
  /-- Event STORE (R256): Writes M × N tile elements converted to OFMT to own scratchpad in LAYOUT, in beats that set granules full and credit OBJ. -/
  | store (core : Nat)
  /-- Event DRAIN (R257): Dispatches one row-handler act per tile row, or gives NOHANDLER when RHND is 0xFFFF. -/
  | drain (core : Nat)
  /-- Event DRAIN_COMPLETE (R257): A drain entry completes when every dispatched row-handler act has ended, each row cleared unless KEEP. -/
  | drainComplete (core : Nat)
  /-- Event ZERO (R252): Sets every tile named in TMASK to +0. -/
  | zero (core : Nat)
  /-- Event MV (R269): A stack dot MV command computes N fixed-order dot products of B rows in the stack with the activation vector and writes the results in beats. -/
  | mv (cluster : Nat) (mismatch : List Nat)
  /-- Event CONFIG (R300): Reads and checks a table descriptor and copies it into a Juggler context, or refuses with BADCMD or BADDESC. -/
  | config (core : Nat)
  /-- Event CLEAR (R300): Empties a Juggler context. -/
  | clear (core : Nat)
  /-- Event RUN (R303): Checks and runs a symbol string through the composition tree, writing prefix states, segment results and the mask, crediting OBJ and retaining status and report. -/
  | run (core : Nat)
  /-- Event ALLREDUCE (R416): A participant's ALLREDUCE command arrives at the decision point; when all ranks have arrived the result is written to every participant's DST. -/
  | allreduce (die : Nat)
  /-- Event REDUCE (R417): A participant's REDUCE command arrives; when all ranks have arrived the result is written to ROOT's DST. -/
  | reduce (die : Nat)
  /-- Event BCAST (R417): A participant's BCAST command arrives; when all ranks have arrived ROOT's SRC bits are copied to the participants. -/
  | bcast (die : Nat)
  /-- Event COLLECTIVE_TIMEOUT (R415): If not all ranks arrive within 2^TOEXP cycles of the first, every arrived participant receives TIMEOUT. -/
  | collectiveTimeout (die index : Nat)
  /-- Event FORMULA_ACT_START (R228): The Carousel starts a formula act of a wave's closure once its pending buffer is free, opening its region with the wave's order key. -/
  | formulaActStart (table wave cell : Nat)
  /-- Event WAVE_PUBLISH (R226): When every formula region of a wave has committed, earlier waves are done and no pinned version would be discarded, the wave publishes all its versions at one instant. -/
  | wavePublish (table : Nat)
  /-- Event WAVE_FAIL (R227): A wave whose formula act faults or whose launch ends releases its pending buffers, sets FAILED and advances COMMITTED in wave order. -/
  | waveFail (table wave : Nat)
  /-- Event EDIT_TAKE_EFFECT (R233): A queued cbind or cunbind takes effect after the last wave containing the cell publishes or fails, and starts a wave. -/
  | editTakeEffect (table : Nat)
  /-- Event VIEW_WATCHDOG (R236): When a publication has waited on pins for VWLIM cycles, each pinning view is revoked and its act faults with VIEW-TIMEOUT. -/
  | viewWatchdog (table : Nat)
  /-- Event REGION_COMMIT (R283): A region in ENDING with no earlier live region of its domain reaches its commit point, making all its versions committed at once. -/
  | regionCommit (rslot : Nat)
  /-- Event ACT_PARK (R381): An act parks at a safe point, withdrawing a blocked instruction, releasing holds and performing its stores; the slot enters PARKED. -/
  | actPark (pslot : Nat)
  /-- Event QUIESCE (R382): An instance reaches its quiesce point once engines have stopped or completed its work and recorded re-issuable copies and matrix state. -/
  | quiesce (ginst : Nat)
  /-- Event INSTANCE_RESUME (R390): When every core part and counted act area of an instance is restored, the whole instance resumes together and recorded entries start. -/
  | instanceResume (ginst : Nat)
  /-- Event UINT_PENDING_DELIVER (R372): A held user-level interrupt moves to q7 in order once q7 is bound .in with room. -/
  | uintPendingDeliver (pslot : Nat)
  /-- Event DIR_READ (R404): A read request from a die reaches the home slice directory, which probes as needed and supplies data. -/
  | dirRead (die pa : Nat)
  /-- Event DIR_WRITE (R404): A write or atomic request reaches the home slice directory, which invalidates other holders and grants the line. -/
  | dirWrite (die pa : Nat)
  /-- Event DIR_WRITEBACK (R404): A write-back from a die is written at the home and updates the directory. -/
  | dirWriteback (die pa : Nat)
  /-- Event DIR_PROBE (R405): A probe is checked at a die against its copies of the line's partition and answered, absent after 6 cycles when none is found. -/
  | dirProbe (die pa : Nat)
  /-- Event FABRIC_TIMEOUT (R412): A fabric access with no answer within 2^22 cycles raises POISON and a machine check naming the aperture. -/
  | fabricTimeout (pslot aperture : Nat)
  /-- Event FABRIC_ACCESS (R411): The holding device accepts or refuses with PROTECTION a fabric access from another device and partition. -/
  | fabricAccess (fdev part rpart pa kind key : Nat) (ke : Bool) (bytes : List Byte)
  /-- Event PORT_LANDING (R424): A port lands an arriving transport message into its flow's ring under the flow's policy and may start a handler act. -/
  | portLanding (port index mode : Nat) (tagOk : Bool) (payload : List Byte)
  /-- Event PORT_TRANSMIT (R427): On a TXTAIL advance the port reads descriptors and payloads, encrypts them and sends them to PEER, or counts DENY. -/
  | portTransmit (part flow port : Nat)
  /-- Event PORT_TX_COMPLETE (R427): The port advances TXHEAD when a message is acknowledged, sent or abandoned, raising TXERR on abandonment. -/
  | portTxComplete (part flow : Nat) (abandoned : Bool)
  /-- `nop` (R112): Advances the program counter. -/
  | nop (e : Enc)
  /-- `li` (R112): Loads an immediate into a register. -/
  | li (e : Enc)
  /-- `add` (R113): Typed integer add, wrapping or saturating. -/
  | add (e : Enc)
  /-- `sub` (R113): Typed integer subtract, wrapping or saturating. -/
  | sub (e : Enc)
  /-- `mul` (R113): Typed integer multiply, wrapping or saturating. -/
  | mul (e : Enc)
  /-- `mulh` (R113): High half of a typed integer product. -/
  | mulh (e : Enc)
  /-- `div` (R113): Typed integer divide, raising DZ on division by zero. -/
  | div (e : Enc)
  /-- `rem` (R113): Typed integer remainder with the sign of the dividend. -/
  | rem (e : Enc)
  /-- `and` (R114): Bitwise and, optionally with the complemented operand. -/
  | and (e : Enc)
  /-- `or` (R114): Bitwise or, optionally with the complemented operand. -/
  | or (e : Enc)
  /-- `xor` (R114): Bitwise exclusive or, optionally with the complemented operand. -/
  | xor (e : Enc)
  /-- `shl` (R114): Shift left by the low 6 bits of the operand. -/
  | shl (e : Enc)
  /-- `shr` (R114): Logical shift right. -/
  | shr (e : Enc)
  /-- `sra` (R114): Arithmetic shift right. -/
  | sra (e : Enc)
  /-- `cmp` (R115): Compares two typed values into a predicate. -/
  | cmp (e : Enc)
  /-- `sel` (R116): Selects one of two registers by a predicate. -/
  | sel (e : Enc)
  /-- `lea` (R117): Computes a scaled address without accessing memory. -/
  | lea (e : Enc)
  /-- `bit` (R118): Extracts, inserts or counts bits. -/
  | bit (e : Enc)
  /-- `br` (R119): PC-relative branch, unconditional or on a register zero test. -/
  | br (e : Enc)
  /-- `loop` (R119): Decrements a counter and branches while it stays non-zero. -/
  | loop (e : Enc)
  /-- `jmp` (R119): Jumps to a register or a PC-relative target. -/
  | jmp (e : Enc)
  /-- `call` (R121): Pushes a frame record, moves the register window and jumps. -/
  | call (e : Enc)
  /-- `ret` (R121): Pops a frame record and returns to its link. -/
  | ret (e : Enc)
  /-- `endact` (R13): Ends the act, closing its open state, and frees the slot. -/
  | endact (e : Enc)
  /-- `yield` (R124): Makes the slot ineligible in the next cycle unless no other slot is eligible. -/
  | yield (e : Enc)
  /-- `wait` (R124): Is not ready for a given number of cycles. -/
  | wait (e : Enc)
  /-- `wait.rep` (R124): Is not ready while the outstanding engine replies exceed a count. -/
  | waitRep (e : Enc)
  /-- `trap` (R124): Faults with cause TRAP carrying a code, ending the launch. -/
  | trap (e : Enc)
  /-- `trap.brk` (R124): Halts the slot and posts a debug event without ending the launch. -/
  | trapBrk (e : Enc)
  /-- `crd` (R123): Reads an unprivileged control register. -/
  | crd (e : Enc)
  /-- `cwr` (R123): Writes, sets or clears an unprivileged control register. -/
  | cwr (e : Enc)
  /-- `tagal` (R126): Allocates the lowest free route tag and returns its route word. -/
  | tagal (e : Enc)
  /-- `tagal.free` (R126): Frees a tag, removing its bindings and discarding its parked packets. -/
  | tagalFree (e : Enc)
  /-- `qbind.in` (R127): Binds a channel to receive packets for a tag. -/
  | qbindIn (e : Enc)
  /-- `qbind.out` (R127): Binds a channel to send packets on a route. -/
  | qbindOut (e : Enc)
  /-- `qbind.hnd` (R127): Binds a tag to a handler whose acts its packets start. -/
  | qbindHnd (e : Enc)
  /-- `qbind.un` (R127): Unbinds a channel. -/
  | qbindUn (e : Enc)
  /-- `qput` (R128): Appends an entry to a channel. -/
  | qput (e : Enc)
  /-- `qget` (R128): Removes the head entry of a channel. -/
  | qget (e : Enc)
  /-- `qpeek` (R128): Reads the head entry of a channel without removing it. -/
  | qpeek (e : Enc)
  /-- `qstat` (R128): Reports a channel's binding and count. -/
  | qstat (e : Enc)
  /-- `sset` (R130): Loads a stream register from a descriptor. -/
  | sset (e : Enc)
  /-- `sadv` (R132): Advances a stream by a number of vectors. -/
  | sadv (e : Enc)
  /-- `sadv.rst` (R132): Resets a stream's indices to 0. -/
  | sadvRst (e : Enc)
  /-- `send` (R134): Checks a message header and sends the message to an engine. -/
  | send (e : Enc)
  /-- `sendc` (R136): Sends a code-bearing message that starts an act on a core. -/
  | sendc (e : Enc)
  /-- `rget` (R138): Requests a register or channel head of another slot. -/
  | rget (e : Enc)
  /-- `rput` (R138): Requests a write of a register or channel of another slot. -/
  | rput (e : Enc)
  /-- `vadd` (R146): Lane-wise add. -/
  | vadd (e : Enc)
  /-- `vsub` (R146): Lane-wise subtract. -/
  | vsub (e : Enc)
  /-- `vmul` (R146): Lane-wise multiply. -/
  | vmul (e : Enc)
  /-- `vmulh` (R146): Lane-wise high half of products. -/
  | vmulh (e : Enc)
  /-- `vfma` (R147): Lane-wise fused multiply-add. -/
  | vfma (e : Enc)
  /-- `vfms` (R147): Lane-wise fused multiply-subtract. -/
  | vfms (e : Enc)
  /-- `vmin` (R147): Lane-wise minimum. -/
  | vmin (e : Enc)
  /-- `vmax` (R147): Lane-wise maximum. -/
  | vmax (e : Enc)
  /-- `vabs` (R146): Lane-wise absolute value. -/
  | vabs (e : Enc)
  /-- `vneg` (R146): Lane-wise negation. -/
  | vneg (e : Enc)
  /-- `vand` (R149): 128-bit and. -/
  | vand (e : Enc)
  /-- `vor` (R149): 128-bit or. -/
  | vor (e : Enc)
  /-- `vxor` (R149): 128-bit exclusive or. -/
  | vxor (e : Enc)
  /-- `vshl` (R150): Lane-wise shift left. -/
  | vshl (e : Enc)
  /-- `vshr` (R150): Lane-wise logical shift right. -/
  | vshr (e : Enc)
  /-- `vsra` (R150): Lane-wise arithmetic shift right. -/
  | vsra (e : Enc)
  /-- `vcmp` (R148): Lane-wise compare into all-ones or zero lanes. -/
  | vcmp (e : Enc)
  /-- `vsel` (R149): Lane-wise select. -/
  | vsel (e : Enc)
  /-- `vdot` (R151): Fixed-order dot product of wide operands into lane 0. -/
  | vdot (e : Enc)
  /-- `vavg` (R146): Lane-wise average. -/
  | vavg (e : Enc)
  /-- `vclz` (R146): Lane-wise leading zero count. -/
  | vclz (e : Enc)
  /-- `vpopc` (R146): Lane-wise population count. -/
  | vpopc (e : Enc)
  /-- `vrcp` (R152): Correctly rounded reciprocal per f32 lane. -/
  | vrcp (e : Enc)
  /-- `vrsq` (R152): Correctly rounded reciprocal square root per f32 lane. -/
  | vrsq (e : Enc)
  /-- `vexp2` (R152): Correctly rounded 2^x per f32 lane. -/
  | vexp2 (e : Enc)
  /-- `vlog2` (R152): Correctly rounded log2 per f32 lane. -/
  | vlog2 (e : Enc)
  /-- `vmov` (R154): Copies a vector or replicates an immediate. -/
  | vmov (e : Enc)
  /-- `vbcast` (R154): Broadcasts a scalar or lane to every lane. -/
  | vbcast (e : Enc)
  /-- `vperm` (R154): Byte permutation of two vectors. -/
  | vperm (e : Enc)
  /-- `vshuf` (R154): Lane shuffle of two vectors by a control word. -/
  | vshuf (e : Enc)
  /-- `vins` (R154): Inserts a scalar into a lane. -/
  | vins (e : Enc)
  /-- `vext` (R154): Extracts a lane into a scalar. -/
  | vext (e : Enc)
  /-- `vcvt` (R156): Converts lanes between formats. -/
  | vcvt (e : Enc)
  /-- `vpack` (R157): Narrows and packs lanes, including LB block encoding. -/
  | vpack (e : Enc)
  /-- `vunpk` (R158): Widens one part of the lanes, including LB block decoding. -/
  | vunpk (e : Enc)
  /-- `vscan` (R159): Segmented inclusive or exclusive scan along the lanes. -/
  | vscan (e : Enc)
  /-- `vred` (R160): Pairwise tree reduction of lanes into a scalar. -/
  | vred (e : Enc)
  /-- `vmask` (R154): Builds lane masks from bits or a count. -/
  | vmask (e : Enc)
  /-- `vxfer` (R154): Transfers lane top bits or any/all tests to a scalar or predicate. -/
  | vxfer (e : Enc)
  /-- `draw.solo` (R164): Samples one admitted token from the act's own masses. -/
  | drawSolo (e : Enc)
  /-- `draw.clus` (R165): Samples one token across the eight cores of the cluster through the draw tree. -/
  | drawClus (e : Enc)
  /-- `vrng` (R162): Writes counter-based generator words or uniforms. -/
  | vrng (e : Enc)
  /-- `vrot` (R154): Rotates bits within lanes or lanes within the vector. -/
  | vrot (e : Enc)
  /-- `ld` (R171): Loads a typed element, optionally as an acquire. -/
  | ld (e : Enc)
  /-- `st` (R171): Stores a typed element, optionally as a release or sub-byte store. -/
  | st (e : Enc)
  /-- `sts` (R171): Stores a 16-byte vector. -/
  | sts (e : Enc)
  /-- `lds` (R171): Loads a 16-byte vector. -/
  | lds (e : Enc)
  /-- `ldfe` (R175): Waits for a full granule and reads it, optionally emptying it. -/
  | ldfe (e : Enc)
  /-- `stfe` (R175): Waits for an empty granule, writes it and sets it full. -/
  | stfe (e : Enc)
  /-- `setfe.empty` (R175): Sets a range of granules empty. -/
  | setfeEmpty (e : Enc)
  /-- `setfe.full` (R175): Sets a range of granules full. -/
  | setfeFull (e : Enc)
  /-- `amo` (R177): Performs an atomic operation at the home of an address. -/
  | amo (e : Enc)
  /-- `cas` (R177): Performs an atomic compare-and-swap at the home. -/
  | cas (e : Enc)
  /-- `hold` (R179): Waits for an exclusive grant of a line and holds it for a bounded time. -/
  | hold (e : Enc)
  /-- `rel` (R179): Releases a held line. -/
  | rel (e : Enc)
  /-- `fence` (R180): Waits until earlier accesses are performed at a scope. -/
  | fence (e : Enc)
  /-- `bara` (R181): Counts an arrival at a split-phase barrier and returns a token. -/
  | bara (e : Enc)
  /-- `barw` (R181): Waits until a barrier phase completes. -/
  | barw (e : Enc)
  /-- `copy` (R182): Sends a copy command to the cluster copy engine. -/
  | copy (e : Enc)
  /-- `cbarm.set` (R185): Arms a byte-counting barrier with a new expected count. -/
  | cbarmSet (e : Enc)
  /-- `cbarm.add` (R185): Adds to a byte-counting barrier's expected count. -/
  | cbarmAdd (e : Enc)
  /-- `cbwait` (R186): Waits until an armed barrier's count is met and reports overrun. -/
  | cbwait (e : Enc)
  /-- `qfence` (R187): Places join entries in the named engine queues, optionally waiting for them. -/
  | qfence (e : Enc)
  /-- `chunk` (R188): Takes the next self-scheduled chunk from a counter word at its home. -/
  | chunk (e : Enc)
  /-- `pref` (R189): Prefetches a line without changing values or ordering. -/
  | pref (e : Enc)
  /-- `tcfg.set` (R251): Waits for the matrix pipeline to empty, checks and writes TCFG and zeroes the tiles. -/
  | tcfgSet (e : Enc)
  /-- `tcfg.get` (R266): Reads TCFG. -/
  | tcfgGet (e : Enc)
  /-- `mxq` (R262): Sends a matrix command to the core's matrix queue and returns its ticket. -/
  | mxq (e : Enc)
  /-- `mxwait` (R263): Waits for a matrix ticket and returns its status word. -/
  | mxwait (e : Enc)
  /-- `trow` (R264): Waits for earlier matrix entries and reads a tile row into four vectors. -/
  | trow (e : Enc)
  /-- `tzero` (R265): Places a ZERO entry and returns its ticket. -/
  | tzero (e : Enc)
  /-- `sdq` (R262): Sends a stack dot command to the cluster's stack dot queue. -/
  | sdq (e : Enc)
  /-- `cst.go` (R240): Stores bytes into an input cell's pending buffer and starts a wave. -/
  | cstGo (e : Enc)
  /-- `cst.stage` (R240): Stages bytes into a cell's pending buffer without starting a wave. -/
  | cstStage (e : Enc)
  /-- `cld.v` (R241): Reads 16 bytes of one cell version into a vector. -/
  | cldV (e : Enc)
  /-- `cld.cp` (R241): Copies bytes of one cell version to memory and returns its wave number. -/
  | cldCp (e : Enc)
  /-- `cbind` (R242): Binds a formula to a cell, at once or queued, with a status. -/
  | cbind (e : Enc)
  /-- `cunbind` (R233): Removes a cell's formula, at once or queued, with a status. -/
  | cunbind (e : Enc)
  /-- `cview` (R234): Opens a view pinning the table's current generation. -/
  | cview (e : Enc)
  /-- `cclose` (R244): Closes the act's view. -/
  | cclose (e : Enc)
  /-- `cfence` (R237): Waits for the newest wave reaching a cell and reports its outcome. -/
  | cfence (e : Enc)
  /-- `cstat` (R245): Reports a cell's or table's version, rank or wave state. -/
  | cstat (e : Enc)
  /-- `rbeg` (R288): Opens a Trapeze region with a key, re-opens one in RESTART, or reports LATE. -/
  | rbeg (e : Enc)
  /-- `rend` (R290): Asks the region to commit and waits for its commit point. -/
  | rend (e : Enc)
  /-- `rabort.exit` (R291): Aborts the act's region and continues outside it. -/
  | rabortExit (e : Enc)
  /-- `rabort.rst` (R291): Aborts the act's region and restarts it at its rbeg. -/
  | rabortRst (e : Enc)
  /-- `rstat` (R292): Reports a region status word. -/
  | rstat (e : Enc)
  /-- `rwait` (R293): Waits until a named region closes and reports its outcome. -/
  | rwait (e : Enc)
  /-- `rkey` (R294): Reports the own key, FRONTIER key or lowest live key. -/
  | rkey (e : Enc)
  /-- `jcfg.set` (R314): Sends a CONFIG to the core's Juggler queue and returns its ticket. -/
  | jcfgSet (e : Enc)
  /-- `jcfg.clr` (R314): Sends a CLEAR to the core's Juggler queue and returns its ticket. -/
  | jcfgClr (e : Enc)
  /-- `jq` (R314): Sends a RUN to the core's Juggler queue and returns its ticket. -/
  | jq (e : Enc)
  /-- `jwait` (R315): Waits for a Juggler ticket and returns its status word. -/
  | jwait (e : Enc)
  /-- `jstat.rep` (R316): Returns the report word of a retained ticket. -/
  | jstatRep (e : Enc)
  /-- `jstat.q` (R316): Returns the queue word of the core's Juggler queue. -/
  | jstatQ (e : Enc)
  /-- `pcrd` (R356): Reads a privileged control register. -/
  | pcrd (e : Enc)
  /-- `pcwr` (R356): Writes, sets or clears a privileged control register. -/
  | pcwr (e : Enc)
  /-- `eret` (R356): Returns from a trap to the saved level and address. -/
  | eret (e : Enc)
  /-- `mcall` (R339): Traps to the monitor. -/
  | mcall (e : Enc)
  /-- `scall` (R339): Traps to the scheduler level. -/
  | scall (e : Enc)
  /-- `tlbi.va` (R356): Removes every translation of one page of the partition. -/
  | tlbiVa (e : Enc)
  /-- `tlbi.part` (R356): Removes every translation of a partition. -/
  | tlbiPart (e : Enc)
  /-- `tlbi.dev` (R356): Removes every translation of the device. -/
  | tlbiDev (e : Enc)
  /-- `xsave` (R383): Writes a parked slot's context, and the core part for the last one, to a save area and frees the slot. -/
  | xsave (e : Enc)
  /-- `xrest` (R388): Checks a save area and restores its core part and act context into a FREE slot. -/
  | xrest (e : Enc)
  /-- `qexp.full` (R374): Exports a stopped launch queue as a full image. -/
  | qexpFull (e : Enc)
  /-- `qexp.dirty` (R374): Exports what changed in a queue since the last export. -/
  | qexpDirty (e : Enc)
  /-- `qimp` (R375): Checks and imports a queue image, creating, restoring or deleting the queue. -/
  | qimp (e : Enc)
  /-- `keyld` (R353): Loads a key record into a Gauntlet entry and waits until every copy holds it. -/
  | keyld (e : Enc)
  /-- `keyclr` (R356): Empties a Gauntlet entry. -/
  | keyclr (e : Enc)
  /-- `uipost` (R372): Posts a user-level interrupt to a slot. -/
  | uipost (e : Enc)
  /-- `wdset.act` (R357): Sets the partition's act watchdog limit. -/
  | wdsetAct (e : Enc)
  /-- `wdset.view` (R357): Sets the partition's default view watchdog limit. -/
  | wdsetView (e : Enc)
  /-- `cflush.wb` (R356): Writes a line back to HBM from every cache. -/
  | cflushWb (e : Enc)
  /-- `cflush.wbi` (R356): Writes a line back to HBM and invalidates it. -/
  | cflushWbi (e : Enc)
  /-- `cflush.part` (R356): Writes back and invalidates every line of a partition. -/
  | cflushPart (e : Enc)
  /-- `halt.park` (R356): Requests that a slot's act, and its instance, park at the next safe point. -/
  | haltPark (e : Enc)
  /-- `halt.stop` (R356): Puts an ACTIVE slot into HALTED without ending its launch. -/
  | haltStop (e : Enc)
  /-- `halt.rel` (R356): Releases a slot halted by halt.stop or trap.brk. -/
  | haltRel (e : Enc)
  /-- `halt.start` (R359): Starts a FREE control-core slot from a start record. -/
  | haltStart (e : Enc)
  /-- `idle` (R356): Waits until an interrupt is pending for the slot's partition. -/
  | idle (e : Enc)
  /-- Event SCRUB (R432): A scrub of memory finds a poisoned line and writes a machine-check record with SEV 1 and PART 0xFF. -/
  | scrub (pa : Nat)
  /-- Event DEVICE_RESET (R434): Device reset starts stage S0: the boot ROM on control core 0 of die 0 reconstructs the PUF secret and verifies the monitor slots; S1 follows within 25 ms. -/
  | deviceReset
  /-- Event HEALTH (R441): A mailbox HEALTH request returns the stage, recovery and fatal flags, throttle level and die temperatures. -/
  | health
  /-- Event TELEM (R441): A mailbox TELEM request returns the telemetry block. -/
  | telem
  /-- Event POWER_BRAKE (R443): Assertion of the board's power-brake input raises the throttle level to 7 within 10 µs. -/
  | powerBrake
  deriving DecidableEq, Repr

/-- The fields of an instruction row; none for an event of a unit. -/
def Instr.enc? : Instr → Option Enc
  | .deviceReset => none
  | .monitorStart _ _ => none
  | .health => none
  | .telem => none
  | .attest _ => none
  | .recover _ => none
  | .telemetryUpdate _ _ _ => none
  | .throttleUpdate _ _ => none
  | .powerBrake => none
  | .thermalTrip _ => none
  | .fatalError _ _ _ => none
  | .linkFlitError _ _ => none
  | .linkDown _ => none
  | .vfReset _ => none
  | .partitionEnable _ => none
  | .partitionDisable _ => none
  | .outsvcSet _ _ => none
  | .registerWrite _ _ _ => none
  | .trapTaken _ _ _ => none
  | .interruptTaken _ => none
  | .objectLoad _ _ _ _ _ => none
  | .objectUnload _ _ => none
  | .launchTake _ _ => none
  | .launchWaiting _ => none
  | .dependenceMet _ => none
  | .placeInstance _ => none
  | .placementFallback _ => none
  | .launchDone _ => none
  | .launchEnded _ => none
  | .launchPost _ => none
  | .queueStopRequest _ _ => none
  | .queueStopped _ _ => none
  | .inboxTake _ => none
  | .packetArrival _ => none
  | .parkedPacketDeliver _ _ => none
  | .packetRetry _ => none
  | .slotUrgent _ => none
  | .actWatchdog _ => none
  | .remoteRequest _ => none
  | .remoteTimeout _ => none
  | .holdExpiry _ => none
  | .storePerform _ _ => none
  | .matrixOwnerRelease _ => none
  | .copyCommand _ => none
  | .copyBeat _ => none
  | .qfenceJoinComplete _ => none
  | .mma _ _ => none
  | .mmaz _ _ => none
  | .store _ => none
  | .drain _ => none
  | .drainComplete _ => none
  | .zero _ => none
  | .mv _ _ => none
  | .config _ => none
  | .clear _ => none
  | .run _ => none
  | .allreduce _ => none
  | .reduce _ => none
  | .bcast _ => none
  | .collectiveTimeout _ _ => none
  | .formulaActStart _ _ _ => none
  | .wavePublish _ => none
  | .waveFail _ _ => none
  | .editTakeEffect _ => none
  | .viewWatchdog _ => none
  | .regionCommit _ => none
  | .actPark _ => none
  | .quiesce _ => none
  | .instanceResume _ => none
  | .uintPendingDeliver _ => none
  | .dirRead _ _ => none
  | .dirWrite _ _ => none
  | .dirWriteback _ _ => none
  | .dirProbe _ _ => none
  | .fabricTimeout _ _ => none
  | .fabricAccess _ _ _ _ _ _ _ _ => none
  | .portLanding _ _ _ _ _ => none
  | .portTransmit _ _ _ => none
  | .portTxComplete _ _ _ => none
  | .nop e => some e
  | .li e => some e
  | .add e => some e
  | .sub e => some e
  | .mul e => some e
  | .mulh e => some e
  | .div e => some e
  | .rem e => some e
  | .and e => some e
  | .or e => some e
  | .xor e => some e
  | .shl e => some e
  | .shr e => some e
  | .sra e => some e
  | .cmp e => some e
  | .sel e => some e
  | .lea e => some e
  | .bit e => some e
  | .br e => some e
  | .loop e => some e
  | .jmp e => some e
  | .call e => some e
  | .ret e => some e
  | .endact e => some e
  | .yield e => some e
  | .wait e => some e
  | .waitRep e => some e
  | .trap e => some e
  | .trapBrk e => some e
  | .crd e => some e
  | .cwr e => some e
  | .tagal e => some e
  | .tagalFree e => some e
  | .qbindIn e => some e
  | .qbindOut e => some e
  | .qbindHnd e => some e
  | .qbindUn e => some e
  | .qput e => some e
  | .qget e => some e
  | .qpeek e => some e
  | .qstat e => some e
  | .sset e => some e
  | .sadv e => some e
  | .sadvRst e => some e
  | .send e => some e
  | .sendc e => some e
  | .rget e => some e
  | .rput e => some e
  | .vadd e => some e
  | .vsub e => some e
  | .vmul e => some e
  | .vmulh e => some e
  | .vfma e => some e
  | .vfms e => some e
  | .vmin e => some e
  | .vmax e => some e
  | .vabs e => some e
  | .vneg e => some e
  | .vand e => some e
  | .vor e => some e
  | .vxor e => some e
  | .vshl e => some e
  | .vshr e => some e
  | .vsra e => some e
  | .vcmp e => some e
  | .vsel e => some e
  | .vdot e => some e
  | .vavg e => some e
  | .vclz e => some e
  | .vpopc e => some e
  | .vrcp e => some e
  | .vrsq e => some e
  | .vexp2 e => some e
  | .vlog2 e => some e
  | .vmov e => some e
  | .vbcast e => some e
  | .vperm e => some e
  | .vshuf e => some e
  | .vins e => some e
  | .vext e => some e
  | .vcvt e => some e
  | .vpack e => some e
  | .vunpk e => some e
  | .vscan e => some e
  | .vred e => some e
  | .vmask e => some e
  | .vxfer e => some e
  | .drawSolo e => some e
  | .drawClus e => some e
  | .vrng e => some e
  | .vrot e => some e
  | .ld e => some e
  | .st e => some e
  | .sts e => some e
  | .lds e => some e
  | .ldfe e => some e
  | .stfe e => some e
  | .setfeEmpty e => some e
  | .setfeFull e => some e
  | .amo e => some e
  | .cas e => some e
  | .hold e => some e
  | .rel e => some e
  | .fence e => some e
  | .bara e => some e
  | .barw e => some e
  | .copy e => some e
  | .cbarmSet e => some e
  | .cbarmAdd e => some e
  | .cbwait e => some e
  | .qfence e => some e
  | .chunk e => some e
  | .pref e => some e
  | .tcfgSet e => some e
  | .tcfgGet e => some e
  | .mxq e => some e
  | .mxwait e => some e
  | .trow e => some e
  | .tzero e => some e
  | .sdq e => some e
  | .cstGo e => some e
  | .cstStage e => some e
  | .cldV e => some e
  | .cldCp e => some e
  | .cbind e => some e
  | .cunbind e => some e
  | .cview e => some e
  | .cclose e => some e
  | .cfence e => some e
  | .cstat e => some e
  | .rbeg e => some e
  | .rend e => some e
  | .rabortExit e => some e
  | .rabortRst e => some e
  | .rstat e => some e
  | .rwait e => some e
  | .rkey e => some e
  | .jcfgSet e => some e
  | .jcfgClr e => some e
  | .jq e => some e
  | .jwait e => some e
  | .jstatRep e => some e
  | .jstatQ e => some e
  | .pcrd e => some e
  | .pcwr e => some e
  | .eret e => some e
  | .mcall e => some e
  | .scall e => some e
  | .tlbiVa e => some e
  | .tlbiPart e => some e
  | .tlbiDev e => some e
  | .xsave e => some e
  | .xrest e => some e
  | .qexpFull e => some e
  | .qexpDirty e => some e
  | .qimp e => some e
  | .keyld e => some e
  | .keyclr e => some e
  | .uipost e => some e
  | .wdsetAct e => some e
  | .wdsetView e => some e
  | .cflushWb e => some e
  | .cflushWbi e => some e
  | .cflushPart e => some e
  | .haltPark e => some e
  | .haltStop e => some e
  | .haltRel e => some e
  | .haltStart e => some e
  | .idle e => some e
  | .scrub _ => none

end Sys2Proof
end

