-- ==== Sys2Proof/WellFormed.lean ====
section
/-! DEFINITION. Which field values each opcode accepts: the field tables of the instruction chapters (R111 to R354) as data, and the
decode checks 5 to 8 of R81 over them. A step is well formed when its checks hold. -/

namespace Sys2Proof

/-- The kind of thing an operand field names (R70, R71): scalar, vector or predicate registers, or only channels or only streams. -/
inductive Kind where
  | x | v | p | q | s
  deriving DecidableEq, Repr

/-- The class of one operand field: its kind, whether a channel, a stream, or no operand may stand in it, and of what number a register
must be a multiple. -/
structure Cls where
  kind : Kind
  chan : Bool := false
  strm : Bool := false
  opt : Bool := false
  mult : Nat := 1
  deriving DecidableEq, Repr

/-- The rule of one opcode under given VAR, TYP and extension: accepted lengths (R74), whether HINT may be set (R68), whether VAR, TYP
and the extension word are accepted (R67, R38, R73), and the class of each field; none for a field that must hold 63. -/
structure Rule where
  f64 : Bool := true
  f96 : Bool := false
  f128 : Bool := false
  hint : Bool := false
  ok : Bool := true
  d : Option Cls := none
  a : Option Cls := none
  b : Option Cls := none
  c : Option Cls := none
  e : Option Cls := none

namespace Cls
def x : Option Cls := some { kind := .x }
def xq : Option Cls := some { kind := .x, chan := true }
def xo : Option Cls := some { kind := .x, opt := true }
def xqo : Option Cls := some { kind := .x, chan := true, opt := true }
def v : Option Cls := some { kind := .v, chan := true, strm := true }
def vq : Option Cls := some { kind := .v, chan := true }
def vr : Option Cls := some { kind := .v }
def v4 : Option Cls := some { kind := .v, mult := 4 }
def p : Option Cls := some { kind := .p }
def po : Option Cls := some { kind := .p, opt := true }
def q : Option Cls := some { kind := .q, chan := true }
def s : Option Cls := some { kind := .s, strm := true }
end Cls

/-- Whether one operand is legal for its field (R70, R71). -/
def operandOk (c : Option Cls) (o : Opnd) : Bool :=
  match c, o with
  | none, .none => true
  | none, _ => false
  | some k, .none => k.opt
  | some k, .chan _ => k.chan
  | some k, .strm _ => k.strm
  | some k, .reg n =>
    match k.kind with
    | .x => true
    | .v => n.val % k.mult == 0
    | .p => decide (n.val < 8)
    | .q => false
    | .s => false

namespace Enc

def isImm32 (i : Enc) : Bool := match i.ext with | .imm32 _ => true | _ => false
def isImm64 (i : Enc) : Bool := match i.ext with | .imm64 _ => true | _ => false

/-- IMM32 as a number; zero in the other forms. -/
def imm32 (i : Enc) : Nat := match i.ext with | .imm32 v => v.toNat | _ => 0
/-- The 64-bit extension word as a number; zero in the other forms. -/
def imm64 (i : Enc) : Nat := match i.ext with | .imm64 v => v.toNat | _ => 0

def t (i : Enc) : Nat := i.typ.toNat
def v (i : Enc) : Nat := i.var.toNat

/-- A field "x/imm" (R111): the class `c` in the 64-bit form, and 63 in the 96-bit form. -/
def orImm (i : Enc) (c : Option Cls) : Option Cls := if i.isImm32 then none else c

end Enc

/-- TYP codes of the sets INT, FLT and W of R142. -/
def typInt (t : Nat) : Bool := decide (t < 8)
def typFlt (t : Nat) : Bool := t == 0xB || t == 0xC || t == 0xD
def typW (t : Nat) : Bool := typInt t || typFlt t || t == 0x9 || t == 0xA

/-- Bits per element of a format code (R37). Scale planes are not counted. -/
def fmtWidth (f : Nat) : Nat :=
  match f with
  | 0x00 => 8 | 0x01 => 16 | 0x02 => 32 | 0x03 => 64 | 0x04 => 8 | 0x05 => 16 | 0x06 => 32 | 0x07 => 64
  | 0x08 => 4 | 0x09 => 8 | 0x0A => 8 | 0x0B => 16 | 0x0C => 16 | 0x0D => 32
  | 0x10 => 2 | 0x11 => 4 | 0x12 => 8 | 0x13 => 4 | _ => 0

/-- The destination and source formats of `vcvt`, `vpack` and `vunpk` (R155): from IMM32 in the 96-bit form, with TYP zero and the reserved
bits zero; implied by TYP in the 64-bit form; none where the form names no pair. -/
def convPair (opc : Nat) (i : Enc) : Option (Nat × Nat) :=
  match i.ext with
  | .imm32 w =>
    let n := w.toNat
    if i.t != 0 || n / 0x2000 != 0 || (n / 0x20) % 8 != 0 then none else some (n % 0x20, (n / 0x100) % 0x20)
  | .imm64 _ => none
  | .none =>
    let t := i.t
    match opc with
    | 0xA6 => if t == 0xD then some (t, 0x2) else if typInt t || t == 0x9 || t == 0xA || t == 0xB || t == 0xC then some (t, 0xD) else none
    | 0xA7 =>
      if t == 0x9 || t == 0xA || t == 0xB || t == 0xC then some (t, 0xD)
      else if t == 0x0 || t == 0x1 then some (t, 0x2) else if t == 0x4 || t == 0x5 then some (t, 0x6)
      else if t == 0x8 then some (t, 0x0) else none
    | 0xA8 =>
      if t == 0xD then some (t, 0xB)
      else if t == 0x1 || t == 0x2 || t == 0x3 || t == 0x5 || t == 0x6 || t == 0x7 then some (t, t - 1)
      else if t == 0x0 then some (t, 0x8) else none
    | _ => none

/-- The ratio of a packing or unpacking pair that R157 or R158 accepts; zero for a pair that is not accepted. -/
def packRatio (wide narrow : Nat) : Nat :=
  if narrow == 0x10 || narrow == 0x11 || narrow == 0x12 then (if wide == 0xD then 4 else 0)
  else if narrow == 0x8 then (if wide == 0x0 then 2 else if wide == 0x1 then 4 else if wide == 0x2 then 8 else 0)
  else if typW narrow && typW wide then
    (if fmtWidth wide == 2 * fmtWidth narrow then 2 else if fmtWidth wide == 4 * fmtWidth narrow then 4 else 0)
  else 0

def isLb (f : Nat) : Bool := f == 0x10 || f == 0x11 || f == 0x12

/-- The vectors one wide operand of `vdot` takes (R151). -/
def dotVectors (t : Nat) : Nat := if t == 0xD then 4 else if t == 0xB || t == 0xC then 2 else 1

/-- An opcode that takes the 64-bit form only and no element type. -/
def plainRule (i : Enc) (vars : Nat) (d a b c e : Option Cls) : Rule :=
  { ok := decide (i.v < vars) && i.t == 0, d := d, a := a, b := b, c := c, e := e }

/-- The acquire and release variants of R170: 0b1000 to 0b1100. -/
def scopedVar (v : Nat) : Bool := decide (8 ≤ v) && decide (v ≤ 12)

/-- Class 0 (R112 to R118). -/
def ruleScalar (opc : Nat) (i : Enc) : Option Rule :=
  let v := i.v; let t := i.t
  match opc with
  | 0x00 => some { f96 := true, f128 := true, ok := v == 0 && t == 0 }
  | 0x01 => some { f64 := false, f96 := true, f128 := true, ok := v == 0 && t == 0, d := Cls.x }
  | 0x02 | 0x03 | 0x04 => some { f96 := true, ok := decide (v < 2) && typInt t, d := Cls.x, a := Cls.xq, b := i.orImm Cls.xq }
  | 0x05 | 0x06 | 0x07 => some { ok := v == 0 && typInt t, d := Cls.x, a := Cls.xq, b := Cls.xq }
  | 0x08 | 0x09 | 0x0A => some { f96 := true, ok := decide (v < 2) && t == 0, d := Cls.x, a := Cls.xq, b := i.orImm Cls.xq }
  | 0x0B | 0x0C | 0x0D => some { f96 := true, ok := v == 0 && t == 0, d := Cls.x, a := Cls.xq, b := i.orImm Cls.xq }
  | 0x0E => some { f96 := true, ok := decide (v < 8) && typInt t, d := Cls.p, a := Cls.xq, b := i.orImm Cls.xq }
  | 0x0F => some { ok := v == 0 && t == 0, d := Cls.x, a := Cls.xq, b := Cls.xq, c := Cls.p }
  | 0x10 => some { f96 := true, ok := decide (v < 5) && t == 0, d := Cls.x, a := Cls.xo, b := i.orImm Cls.x }
  | 0x11 => some { f96 := true, ok := decide (v < 6) && t == 0, d := Cls.x, a := Cls.xq,
                   b := if decide (v < 3) then i.orImm Cls.x else none, c := if v == 2 then Cls.x else none }
  | _ => none

/-- Class 1 (R119 to R124) and class 2 (R126 to R138). The extension word of `call` has its reserved bits zero and FRAMEG at most 6
(R121); IMM32 of `crd`, `cwr`, `qbind`, `rget` and `rput` is a structured field (log 7). -/
def ruleControl (opc : Nat) (i : Enc) : Option Rule :=
  let v := i.v; let t := i.t
  match opc with
  | 0x20 => some { f64 := false, f96 := true, ok := decide (v < 3) && t == 0, a := if v == 0 then none else Cls.x }
  | 0x21 => some { f128 := true, ok := v == 0 && t == 0, a := if i.isImm64 then none else Cls.x }
  | 0x22 => some { f64 := false, f128 := true, ok := v == 0 && t == 0 && i.imm64 / 2^36 == 0 && i.imm64 / 2^32 % 8 != 7,
                   a := if i.imm64 / 2^35 % 2 == 1 then Cls.x else none }
  | 0x23 => some (plainRule i 1 none none none none none)
  | 0x24 => some { f64 := false, f96 := true, ok := v == 0 && t == 0, d := Cls.x }
  | 0x25 | 0x26 => some (plainRule i 1 none none none none none)
  | 0x27 => some (plainRule i 2 none Cls.xq none none none)
  | 0x28 => some { f64 := false, f96 := true, ok := decide (v < 2) && t == 0 }
  | 0x29 => some { f64 := false, f96 := true, ok := v == 0 && t == 0 && decide (i.imm32 < 6), d := Cls.x }
  | 0x2A => some { f64 := false, f96 := true, ok := decide (v < 3) && t == 0 && decide (i.imm32 < 6), a := Cls.xq }
  | 0x40 => some { f64 := false, f96 := true, ok := decide (v < 4) && t == 0 && i.imm32 / 2^16 == 0 && (v != 3 || i.imm32 == 0),
                   d := if v == 2 then none else Cls.q, a := if v == 3 then none else Cls.xo, b := if v == 2 then Cls.x else none }
  | 0x41 => some (plainRule i 2 Cls.q (if v == 0 then Cls.xq else Cls.vq) none none none)
  | 0x42 | 0x43 => some (plainRule i 2 (if v == 0 then Cls.x else Cls.vr) Cls.q none none none)
  | 0x44 => some (plainRule i 1 Cls.x Cls.q none none none)
  | 0x45 => some (plainRule i 1 Cls.s Cls.x none none none)
  | 0x46 => some { f96 := true, ok := decide (v < 2) && t == 0, d := Cls.s, a := if v == 0 then i.orImm Cls.x else none }
  | 0x47 | 0x48 => some (plainRule i 1 none Cls.v4 none none none)
  | 0x49 => some { f64 := false, f96 := true, ok := v == 0 && t == 0 && decide (1 ≤ i.imm32) && decide (i.imm32 < 40),
                   d := Cls.x, a := Cls.x, c := Cls.p }
  | 0x4A => some { f64 := false, f96 := true, ok := v == 0 && t == 0 && decide (1 ≤ i.imm32) && decide (i.imm32 < 40),
                   d := Cls.p, a := Cls.x, c := Cls.x }
  | 0x4B => some (plainRule i 2 (if v == 0 then Cls.x else none) (if v == 0 then none else Cls.x) none none none)
  | _ => none

/-- Class 3 (R170 to R189). -/
def ruleMemory (opc : Nat) (i : Enc) : Option Rule :=
  let v := i.v; let t := i.t
  match opc with
  | 0x60 => some { f96 := true, hint := true,
                   ok := decide (t < 0xE) && (v == 0 || (v == 1 && (t == 0 || t == 4)) || (scopedVar v && t != 8)),
                   d := Cls.xq, a := Cls.x, b := i.orImm Cls.x }
  | 0x61 => some { f96 := true, hint := true,
                   ok := decide (t < 0xE) && (v == 0 || (v == 1 && (t == 0 || t == 4)) || (scopedVar v && t != 8)),
                   a := Cls.x, b := i.orImm Cls.x, c := Cls.xq }
  | 0x62 => some { f96 := true, hint := true, ok := t == 0 && (v == 0 || scopedVar v), a := Cls.x, b := i.orImm Cls.x, c := Cls.v }
  | 0x63 => some { f96 := true, ok := t == 0 && decide (v < 2), d := Cls.vq, a := Cls.x, b := i.orImm Cls.x }
  | 0x64 => some { f96 := true, ok := t == 0 && v == 0, a := Cls.x, b := i.orImm Cls.x, c := Cls.v }
  | 0x65 => some (plainRule i 2 none Cls.x Cls.x none none)
  | 0x66 => some { ok := decide (v % 8 < 7) && (t == 2 || t == 3 || t == 6 || t == 7 || (t == 0xD && (v % 8 == 0 || decide (4 ≤ v % 8)))),
                   d := Cls.xo, a := Cls.x, b := Cls.xq }
  | 0x67 => some { ok := decide (v < 2) && (t == 2 || t == 3 || t == 6 || t == 7), d := Cls.x, a := Cls.x, b := Cls.xq, c := Cls.xq }
  | 0x68 => some { f96 := true, ok := v == 0 && t == 0, a := Cls.x, b := i.orImm Cls.x }
  | 0x69 => some (plainRule i 1 none Cls.x none none none)
  | 0x6A => some (plainRule i 5 none none none none none)
  | 0x6B => some (plainRule i 5 Cls.x Cls.x none none none)
  | 0x6C => some (plainRule i 1 none Cls.x none none none)
  | 0x6D => some { plainRule i 1 none Cls.x Cls.x Cls.x Cls.xo with hint := true }
  | 0x6E => some { f96 := true, ok := decide (v < 2) && t == 0, a := Cls.x, b := i.orImm Cls.x, c := Cls.xo }
  | 0x6F => some (plainRule i 1 Cls.po Cls.x none none none)
  | 0x70 => some { f64 := false, f96 := true, ok := decide (v < 2) && t == 0 && i.imm32 / 16 == 0 }
  | 0x71 => some (plainRule i 1 Cls.x Cls.x none none none)
  | 0x72 => some { f96 := true, hint := true, ok := decide (v < 2) && t == 0, a := Cls.x, b := i.orImm Cls.x }
  | 0x73 => some { f96 := true, hint := true, ok := t == 0 && (v == 0 || scopedVar v), d := Cls.vq, a := Cls.x, b := i.orImm Cls.x }
  | _ => none

/-- Class 4 (R145, R151). -/
def ruleLanes (opc : Nat) (i : Enc) : Option Rule :=
  let v := i.v; let t := i.t
  let nf := typInt t || typFlt t
  let sat := v == 0 || (v == 1 && typInt t)
  match opc with
  | 0x80 | 0x81 | 0x82 => some { ok := nf && sat, d := Cls.v, a := Cls.v, b := Cls.v }
  | 0x83 => some { ok := typInt t && v == 0, d := Cls.v, a := Cls.v, b := Cls.v }
  | 0x84 | 0x85 => some { ok := nf && v == 0, d := Cls.v, a := Cls.v, b := Cls.v, c := Cls.v }
  | 0x86 | 0x87 => some { ok := nf && v == 0, d := Cls.v, a := Cls.v, b := Cls.v }
  | 0x88 | 0x89 => some { ok := nf && sat, d := Cls.v, a := Cls.v }
  | 0x8A | 0x8B | 0x8C => some { ok := t == 0 && decide (v < 2), d := Cls.v, a := Cls.v, b := Cls.v }
  | 0x8D | 0x8E | 0x8F => some { f96 := true, ok := typInt t && v == 0, d := Cls.v, a := Cls.v, b := i.orImm Cls.v }
  | 0x90 => some { ok := (nf && decide (v < 6)) || (typFlt t && v == 6), d := Cls.v, a := Cls.v, b := Cls.v }
  | 0x91 => some { ok := typW t && v == 0, d := Cls.v, a := Cls.v, b := Cls.v, c := Cls.v }
  | 0x92 =>
    let w : Option Cls := some { kind := .v, chan := true, strm := true, mult := dotVectors t }
    some { ok := v == 0 && (t == 0 || t == 8 || t == 9 || t == 0xA || typFlt t), d := Cls.v, a := w, b := w, c := Cls.v }
  | 0x93 => some { ok := typInt t && decide (v < 2), d := Cls.v, a := Cls.v, b := Cls.v }
  | 0x94 | 0x95 => some { ok := typInt t && v == 0, d := Cls.v, a := Cls.v }
  | 0x96 | 0x97 | 0x98 | 0x99 => some { ok := t == 0xD && v == 0, d := Cls.v, a := Cls.v }
  | _ => none

/-- Class 5 (R153 to R162). -/
def ruleMove (opc : Nat) (i : Enc) : Option Rule :=
  let v := i.v; let t := i.t
  let nf := typInt t || typFlt t
  match opc with
  | 0xA0 => some { f96 := true, f128 := true, ok := v == 0 && t == 0, d := Cls.v, a := if i.isImm32 || i.isImm64 then none else Cls.v }
  | 0xA1 => some { ok := decide (v < 2) && typW t, d := Cls.v, a := if v == 0 then Cls.xq else Cls.v, b := if v == 0 then none else Cls.xq }
  | 0xA2 => some (plainRule i 1 Cls.v Cls.v Cls.v Cls.v none)
  | 0xA3 => some { f96 := true, ok := v == 0 && (t == 1 || t == 2 || t == 3 || t == 5 || t == 6 || t == 7 || typFlt t),
                   d := Cls.v, a := Cls.v, b := Cls.v, c := i.orImm Cls.xq }
  | 0xA4 => some { f96 := true, ok := v == 0 && typW t, d := Cls.vr, a := Cls.xq, b := i.orImm Cls.xq }
  | 0xA5 => some { f96 := true, ok := v == 0 && typW t, d := Cls.x, a := Cls.v, b := i.orImm Cls.xq }
  | 0xA6 =>
    let ok := match convPair opc i with
      | some (dst, src) => typW dst && typW src && decide (v < 2) && (v == 0 || !typFlt dst)
      | none => false
    some { f96 := true, ok := ok, d := Cls.v, a := Cls.v }
  | 0xA7 =>
    match convPair opc i with
    | some (dst, src) =>
      let r := packRatio src dst
      some { f96 := true, ok := (r == 2 || r == 4) && decide (v < 2) && (v == 0 || !(typFlt dst || isLb dst)),
             d := if isLb dst then some { kind := .v, mult := 2 } else Cls.v, a := Cls.v, b := Cls.v,
             c := if r == 4 then Cls.v else none, e := if r == 4 then Cls.v else none }
    | none => some { f96 := true, ok := false }
  | 0xA8 =>
    match convPair opc i with
    | some (dst, src) =>
      let r := packRatio dst src
      some { f96 := true, ok := decide (v < r), d := Cls.v, a := Cls.v, b := if isLb src then Cls.v else none }
    | none => some { f96 := true, ok := false }
  | 0xA9 => some { ok := decide (v < 8) && nf && (v % 4 != 3 || typInt t), d := Cls.v, a := Cls.v, b := Cls.v }
  | 0xAA => some { ok := decide (v < 6) && nf && (decide (v < 3) || typInt t), d := Cls.x, a := Cls.v }
  | 0xAB => some { ok := decide (v < 2) && typW t, d := Cls.v, a := Cls.xq }
  | 0xAC => some { ok := decide (v < 3) && typW t, d := if v == 0 then Cls.x else Cls.p, a := Cls.v }
  | 0xAD => some (plainRule i 2 Cls.x Cls.xq Cls.xq Cls.xq Cls.xq)
  | 0xAE => some (plainRule i 2 Cls.v Cls.xq Cls.xq Cls.xq none)
  | 0xAF => some { f96 := true, ok := (v == 0 && typInt t) || (v == 1 && typW t), d := Cls.v, a := Cls.v, b := i.orImm Cls.xq }
  | _ => none

/-- Class 6 (R239, R261). -/
def ruleCell (opc : Nat) (i : Enc) : Option Rule :=
  let v := i.v
  match opc with
  | 0xC0 => some (plainRule i 2 Cls.x (if v == 0 then Cls.xq else none) none none none)
  | 0xC1 => some (plainRule i 1 Cls.xo Cls.v4 none none none)
  | 0xC2 => some (plainRule i 1 Cls.xo Cls.xqo none none none)
  | 0xC3 => some (plainRule i 1 Cls.v4 Cls.xq none none none)
  | 0xC4 => some (plainRule i 1 Cls.xo Cls.xq none none none)
  | 0xC5 => some (plainRule i 1 none Cls.v4 none none none)
  | 0xC6 => some (plainRule i 2 Cls.xo Cls.xq Cls.xq Cls.xq Cls.xq)
  | 0xC7 => some (plainRule i 2 (if v == 0 then Cls.v else Cls.xo) Cls.xq Cls.xq (if v == 0 then none else Cls.xq) (if v == 0 then none else Cls.xq))
  | 0xC8 => some (plainRule i 1 Cls.x Cls.xq Cls.xq none none)
  | 0xC9 | 0xCA => some (plainRule i 1 Cls.x Cls.xq none none none)
  | 0xCB => some (plainRule i 1 none none none none none)
  | 0xCC => some (plainRule i 1 Cls.xo Cls.xq none none none)
  | 0xCD => some (plainRule i 4 Cls.x Cls.xq none none none)
  | _ => none

/-- Class 7 (R287, R312, R354). -/
def ruleSystem (opc : Nat) (i : Enc) : Option Rule :=
  let v := i.v; let t := i.t
  match opc with
  | 0xE0 => some { f128 := true, ok := v == 0 && t == 0, d := Cls.xo, a := if i.isImm64 then none else Cls.xq }
  | 0xE1 => some (plainRule i 1 Cls.xo none none none none)
  | 0xE2 => some (plainRule i 2 none none none none none)
  | 0xE3 => some (plainRule i 1 Cls.x Cls.xqo none none none)
  | 0xE4 => some (plainRule i 1 Cls.xo Cls.xq none none none)
  | 0xE5 => some (plainRule i 3 Cls.x none none none none)
  | 0xE6 => some (plainRule i 2 Cls.xo (if v == 0 then Cls.xq else none) Cls.xq none none)
  | 0xE7 => some (plainRule i 1 Cls.xo Cls.v4 none none none)
  | 0xE8 => some (plainRule i 1 Cls.xo Cls.xqo none none none)
  | 0xE9 => some (plainRule i 2 Cls.x (if v == 0 then Cls.xq else none) none none none)
  | 0xEA => some { f64 := false, f96 := true, ok := v == 0 && t == 0 && i.imm32 / 2^12 == 0, d := Cls.x }
  | 0xEB => some { f64 := false, f96 := true, ok := decide (v < 3) && t == 0 && i.imm32 / 2^12 == 0, a := Cls.xq }
  | 0xEC => some (plainRule i 1 none none none none none)
  | 0xED | 0xEE => some { f64 := false, f96 := true, ok := v == 0 && t == 0 }
  | 0xEF => some (plainRule i 3 none (if v == 0 then Cls.xq else none) (if v == 1 then Cls.xq else none) none none)
  | 0xF0 | 0xF1 => some (plainRule i 1 Cls.xo Cls.xq Cls.xq none none)
  | 0xF2 => some (plainRule i 2 Cls.x Cls.xq Cls.xq none none)
  | 0xF3 => some (plainRule i 1 Cls.x Cls.xq Cls.xq none none)
  | 0xF4 => some { f64 := false, f96 := true, ok := v == 0 && t == 0 && i.imm32 / 2^13 == 0, d := Cls.x, a := Cls.xq }
  | 0xF5 => some { f64 := false, f96 := true, ok := v == 0 && t == 0 && i.imm32 / 2^13 == 0, d := Cls.x }
  | 0xF6 => some (plainRule i 1 Cls.xo Cls.xq Cls.xq none none)
  | 0xF7 => some { f96 := true, ok := decide (v < 2) && t == 0, a := i.orImm Cls.xq }
  | 0xF8 => some (plainRule i 3 none (if decide (v < 2) then Cls.xq else none) (if v == 2 then Cls.xq else none) none none)
  | 0xF9 => some (plainRule i 4 Cls.xo Cls.xq (if v == 3 then Cls.xq else none) none none)
  | 0xFA => some (plainRule i 1 none none none none none)
  | _ => none

/-- The rule of an opcode; none for a reserved opcode (R78). -/
def ruleOf (opc : Nat) (i : Enc) : Option Rule :=
  if opc < 0x20 then ruleScalar opc i
  else if opc < 0x60 then ruleControl opc i
  else if opc < 0x80 then ruleMemory opc i
  else if opc < 0xA0 then ruleLanes opc i
  else if opc < 0xC0 then ruleMove opc i
  else if opc < 0xE0 then ruleCell opc i
  else ruleSystem opc i

namespace Rule

/-- Check 5 of R81: the opcode accepts the length. -/
def lengthOk (r : Rule) (i : Enc) : Bool :=
  match i.ext with
  | .none => r.f64
  | .imm32 _ => r.f96
  | .imm64 _ => r.f128

/-- Check 7 of R81, without the reserved opcode: VAR, TYP, HINT and the extension word. -/
def fieldsOk (r : Rule) (i : Enc) : Bool := r.ok && (r.hint || i.hint == 0)

/-- One stream named both as source and destination is illegal (R72). A field of kind `s` names the register itself and stores nothing. -/
def streamsOk (r : Rule) (i : Enc) : Bool :=
  match i.d with
  | .strm n =>
    (match r.d with | some k => k.kind == .s | none => false)
      || !(i.a == .strm n || i.b == .strm n || i.c == .strm n || i.e == .strm n)
  | _ => true

/-- Check 8 of R81. -/
def operandsOk (r : Rule) (i : Enc) : Bool :=
  operandOk r.d i.d && operandOk r.a i.a && operandOk r.b i.b && operandOk r.c i.c && operandOk r.e i.e && r.streamsOk i

end Rule

/-- Check 6 of R81 (R75): SP is not set on `endact` or `eret`, and the mask word's bits [1:0] are zero. -/
def safePointOk (opc : Nat) (i : Enc) : Bool :=
  match i.live with
  | none => true
  | some m => opc != 0x25 && opc != 0xEC && m.extractLsb' 0 2 == 0

/-- Whether an opcode with its fields passes the checks of R81 that depend on the words alone. -/
def encOk (opc : Nat) (i : Enc) : Bool :=
  match ruleOf opc i with
  | none => false
  | some r => r.lengthOk i && safePointOk opc i && r.fieldsOk i && r.operandsOk i

end Sys2Proof
end

