-- ==== Sys2Proof/Decode.lean ====
section
/-! DEFINITION. Decoding and encoding of instruction words (R59 to R81). The decoder is total on any bytes and rejects by the fault cause
R81 names; the checks that depend on the slot (privilege, features) are made when the instruction issues. -/

namespace Sys2Proof

/-- The fault causes decoding raises (R376). -/
inductive DecodeCause where
  | illegalInstruction
  | illegalOperand
  | fetchBoundary
  deriving DecidableEq, Repr

/-- `n` bytes of a number, least significant first (R59: little-endian). -/
def leBytes : Nat → Nat → List Byte
  | 0, _ => []
  | n + 1, v => BitVec.ofNat 8 v :: leBytes n (v / 256)

/-- The number whose bytes are listed least significant first. -/
def ofLe : List Byte → Nat
  | [] => 0
  | b :: r => b.toNat + 256 * ofLe r

/-- The first `n` bytes of a list read as a number; missing bytes read as zero. -/
def ofLeN (n : Nat) (l : List Byte) : Nat := ofLe (l.take n)

/-- A six-bit operand specifier (R70); none for the reserved values 44 to 62. -/
def opndOf (n : Nat) : Option Opnd :=
  if h : n < 32 then some (.reg ⟨n, h⟩)
  else if h : n - 32 < 8 then some (.chan ⟨n - 32, h⟩)
  else if h : n - 40 < 4 then some (.strm ⟨n - 40, h⟩)
  else if n = 63 then some .none
  else none

/-- The specifier of an operand (R70). -/
def opndCode : Opnd → Nat
  | .reg n => n.val
  | .chan n => 32 + n.val
  | .strm n => 40 + n.val
  | .none => 63

/-- A guard from its four bits: bit 3 negates, bits [2:0] name the predicate (R64). -/
def guardOf (n : Nat) : Guard := { neg := n / 8 % 2 == 1, p := ⟨n % 8, Nat.mod_lt _ (by decide)⟩ }

def guardCode (g : Guard) : Nat := g.p.val + 8 * g.neg.toNat

/-- LEN of each form (R60). -/
def lenCode : Ext → Nat
  | .none => 1
  | .imm32 _ => 2
  | .imm64 _ => 3

/-- Bytes of an instruction of this form, without its mask word (R59). -/
def extBytes : Ext → Nat
  | .none => 8
  | .imm32 _ => 12
  | .imm64 _ => 16

/-- The constructor an opcode and its VAR select (R78); none for a reserved opcode or a VAR without a row. -/
def instrOf (opc : Nat) (i : Enc) : Option Instr :=
  match opc with
  | 0x00 => some (.nop i)
  | 0x01 => some (.li i)
  | 0x02 => some (.add i)
  | 0x03 => some (.sub i)
  | 0x04 => some (.mul i)
  | 0x05 => some (.mulh i)
  | 0x06 => some (.div i)
  | 0x07 => some (.rem i)
  | 0x08 => some (.and i)
  | 0x09 => some (.or i)
  | 0x0A => some (.xor i)
  | 0x0B => some (.shl i)
  | 0x0C => some (.shr i)
  | 0x0D => some (.sra i)
  | 0x0E => some (.cmp i)
  | 0x0F => some (.sel i)
  | 0x10 => some (.lea i)
  | 0x11 => some (.bit i)
  | 0x20 => some (.br i)
  | 0x21 => some (.jmp i)
  | 0x22 => some (.call i)
  | 0x23 => some (.ret i)
  | 0x24 => some (.loop i)
  | 0x25 => some (.endact i)
  | 0x26 => some (.yield i)
  | 0x27 => match i.v with | 0 => some (.wait i) | 1 => some (.waitRep i) | _ => none
  | 0x28 => match i.v with | 0 => some (.trap i) | 1 => some (.trapBrk i) | _ => none
  | 0x29 => some (.crd i)
  | 0x2A => some (.cwr i)
  | 0x40 => match i.v with | 0 => some (.qbindIn i) | 1 => some (.qbindOut i) | 2 => some (.qbindHnd i) | 3 => some (.qbindUn i) | _ => none
  | 0x41 => some (.qput i)
  | 0x42 => some (.qget i)
  | 0x43 => some (.qpeek i)
  | 0x44 => some (.qstat i)
  | 0x45 => some (.sset i)
  | 0x46 => match i.v with | 0 => some (.sadv i) | 1 => some (.sadvRst i) | _ => none
  | 0x47 => some (.send i)
  | 0x48 => some (.sendc i)
  | 0x49 => some (.rget i)
  | 0x4A => some (.rput i)
  | 0x4B => match i.v with | 0 => some (.tagal i) | 1 => some (.tagalFree i) | _ => none
  | 0x60 => some (.ld i)
  | 0x61 => some (.st i)
  | 0x62 => some (.sts i)
  | 0x63 => some (.ldfe i)
  | 0x64 => some (.stfe i)
  | 0x65 => match i.v with | 0 => some (.setfeEmpty i) | 1 => some (.setfeFull i) | _ => none
  | 0x66 => some (.amo i)
  | 0x67 => some (.cas i)
  | 0x68 => some (.hold i)
  | 0x69 => some (.rel i)
  | 0x6A => some (.fence i)
  | 0x6B => some (.bara i)
  | 0x6C => some (.barw i)
  | 0x6D => some (.copy i)
  | 0x6E => match i.v with | 0 => some (.cbarmSet i) | 1 => some (.cbarmAdd i) | _ => none
  | 0x6F => some (.cbwait i)
  | 0x70 => some (.qfence i)
  | 0x71 => some (.chunk i)
  | 0x72 => some (.pref i)
  | 0x73 => some (.lds i)
  | 0x80 => some (.vadd i)
  | 0x81 => some (.vsub i)
  | 0x82 => some (.vmul i)
  | 0x83 => some (.vmulh i)
  | 0x84 => some (.vfma i)
  | 0x85 => some (.vfms i)
  | 0x86 => some (.vmin i)
  | 0x87 => some (.vmax i)
  | 0x88 => some (.vabs i)
  | 0x89 => some (.vneg i)
  | 0x8A => some (.vand i)
  | 0x8B => some (.vor i)
  | 0x8C => some (.vxor i)
  | 0x8D => some (.vshl i)
  | 0x8E => some (.vshr i)
  | 0x8F => some (.vsra i)
  | 0x90 => some (.vcmp i)
  | 0x91 => some (.vsel i)
  | 0x92 => some (.vdot i)
  | 0x93 => some (.vavg i)
  | 0x94 => some (.vclz i)
  | 0x95 => some (.vpopc i)
  | 0x96 => some (.vrcp i)
  | 0x97 => some (.vrsq i)
  | 0x98 => some (.vexp2 i)
  | 0x99 => some (.vlog2 i)
  | 0xA0 => some (.vmov i)
  | 0xA1 => some (.vbcast i)
  | 0xA2 => some (.vperm i)
  | 0xA3 => some (.vshuf i)
  | 0xA4 => some (.vins i)
  | 0xA5 => some (.vext i)
  | 0xA6 => some (.vcvt i)
  | 0xA7 => some (.vpack i)
  | 0xA8 => some (.vunpk i)
  | 0xA9 => some (.vscan i)
  | 0xAA => some (.vred i)
  | 0xAB => some (.vmask i)
  | 0xAC => some (.vxfer i)
  | 0xAD => match i.v with | 0 => some (.drawSolo i) | 1 => some (.drawClus i) | _ => none
  | 0xAE => some (.vrng i)
  | 0xAF => some (.vrot i)
  | 0xC0 => match i.v with | 0 => some (.tcfgSet i) | 1 => some (.tcfgGet i) | _ => none
  | 0xC1 => some (.mxq i)
  | 0xC2 => some (.mxwait i)
  | 0xC3 => some (.trow i)
  | 0xC4 => some (.tzero i)
  | 0xC5 => some (.sdq i)
  | 0xC6 => match i.v with | 0 => some (.cstGo i) | 1 => some (.cstStage i) | _ => none
  | 0xC7 => match i.v with | 0 => some (.cldV i) | 1 => some (.cldCp i) | _ => none
  | 0xC8 => some (.cbind i)
  | 0xC9 => some (.cunbind i)
  | 0xCA => some (.cview i)
  | 0xCB => some (.cclose i)
  | 0xCC => some (.cfence i)
  | 0xCD => some (.cstat i)
  | 0xE0 => some (.rbeg i)
  | 0xE1 => some (.rend i)
  | 0xE2 => match i.v with | 0 => some (.rabortExit i) | 1 => some (.rabortRst i) | _ => none
  | 0xE3 => some (.rstat i)
  | 0xE4 => some (.rwait i)
  | 0xE5 => some (.rkey i)
  | 0xE6 => match i.v with | 0 => some (.jcfgSet i) | 1 => some (.jcfgClr i) | _ => none
  | 0xE7 => some (.jq i)
  | 0xE8 => some (.jwait i)
  | 0xE9 => match i.v with | 0 => some (.jstatRep i) | 1 => some (.jstatQ i) | _ => none
  | 0xEA => some (.pcrd i)
  | 0xEB => some (.pcwr i)
  | 0xEC => some (.eret i)
  | 0xED => some (.mcall i)
  | 0xEE => some (.scall i)
  | 0xEF => match i.v with | 0 => some (.tlbiVa i) | 1 => some (.tlbiPart i) | 2 => some (.tlbiDev i) | _ => none
  | 0xF0 => some (.xsave i)
  | 0xF1 => some (.xrest i)
  | 0xF2 => match i.v with | 0 => some (.qexpFull i) | 1 => some (.qexpDirty i) | _ => none
  | 0xF3 => some (.qimp i)
  | 0xF4 => some (.keyld i)
  | 0xF5 => some (.keyclr i)
  | 0xF6 => some (.uipost i)
  | 0xF7 => match i.v with | 0 => some (.wdsetAct i) | 1 => some (.wdsetView i) | _ => none
  | 0xF8 => match i.v with | 0 => some (.cflushWb i) | 1 => some (.cflushWbi i) | 2 => some (.cflushPart i) | _ => none
  | 0xF9 => match i.v with | 0 => some (.haltPark i) | 1 => some (.haltStop i) | 2 => some (.haltRel i) | 3 => some (.haltStart i) | _ => none
  | 0xFA => some (.idle i)
  | _ => none

/-- The opcode and the fields of an instruction row (R78); none for an event of a unit. -/
def opcodeOf : Instr → Option (Nat × Enc)
  | .nop i => some (0x00, i)
  | .li i => some (0x01, i)
  | .add i => some (0x02, i)
  | .sub i => some (0x03, i)
  | .mul i => some (0x04, i)
  | .mulh i => some (0x05, i)
  | .div i => some (0x06, i)
  | .rem i => some (0x07, i)
  | .and i => some (0x08, i)
  | .or i => some (0x09, i)
  | .xor i => some (0x0A, i)
  | .shl i => some (0x0B, i)
  | .shr i => some (0x0C, i)
  | .sra i => some (0x0D, i)
  | .cmp i => some (0x0E, i)
  | .sel i => some (0x0F, i)
  | .lea i => some (0x10, i)
  | .bit i => some (0x11, i)
  | .br i => some (0x20, i)
  | .jmp i => some (0x21, i)
  | .call i => some (0x22, i)
  | .ret i => some (0x23, i)
  | .loop i => some (0x24, i)
  | .endact i => some (0x25, i)
  | .yield i => some (0x26, i)
  | .wait i => some (0x27, i)
  | .waitRep i => some (0x27, i)
  | .trap i => some (0x28, i)
  | .trapBrk i => some (0x28, i)
  | .crd i => some (0x29, i)
  | .cwr i => some (0x2A, i)
  | .qbindIn i => some (0x40, i)
  | .qbindOut i => some (0x40, i)
  | .qbindHnd i => some (0x40, i)
  | .qbindUn i => some (0x40, i)
  | .qput i => some (0x41, i)
  | .qget i => some (0x42, i)
  | .qpeek i => some (0x43, i)
  | .qstat i => some (0x44, i)
  | .sset i => some (0x45, i)
  | .sadv i => some (0x46, i)
  | .sadvRst i => some (0x46, i)
  | .send i => some (0x47, i)
  | .sendc i => some (0x48, i)
  | .rget i => some (0x49, i)
  | .rput i => some (0x4A, i)
  | .tagal i => some (0x4B, i)
  | .tagalFree i => some (0x4B, i)
  | .ld i => some (0x60, i)
  | .st i => some (0x61, i)
  | .sts i => some (0x62, i)
  | .ldfe i => some (0x63, i)
  | .stfe i => some (0x64, i)
  | .setfeEmpty i => some (0x65, i)
  | .setfeFull i => some (0x65, i)
  | .amo i => some (0x66, i)
  | .cas i => some (0x67, i)
  | .hold i => some (0x68, i)
  | .rel i => some (0x69, i)
  | .fence i => some (0x6A, i)
  | .bara i => some (0x6B, i)
  | .barw i => some (0x6C, i)
  | .copy i => some (0x6D, i)
  | .cbarmSet i => some (0x6E, i)
  | .cbarmAdd i => some (0x6E, i)
  | .cbwait i => some (0x6F, i)
  | .qfence i => some (0x70, i)
  | .chunk i => some (0x71, i)
  | .pref i => some (0x72, i)
  | .lds i => some (0x73, i)
  | .vadd i => some (0x80, i)
  | .vsub i => some (0x81, i)
  | .vmul i => some (0x82, i)
  | .vmulh i => some (0x83, i)
  | .vfma i => some (0x84, i)
  | .vfms i => some (0x85, i)
  | .vmin i => some (0x86, i)
  | .vmax i => some (0x87, i)
  | .vabs i => some (0x88, i)
  | .vneg i => some (0x89, i)
  | .vand i => some (0x8A, i)
  | .vor i => some (0x8B, i)
  | .vxor i => some (0x8C, i)
  | .vshl i => some (0x8D, i)
  | .vshr i => some (0x8E, i)
  | .vsra i => some (0x8F, i)
  | .vcmp i => some (0x90, i)
  | .vsel i => some (0x91, i)
  | .vdot i => some (0x92, i)
  | .vavg i => some (0x93, i)
  | .vclz i => some (0x94, i)
  | .vpopc i => some (0x95, i)
  | .vrcp i => some (0x96, i)
  | .vrsq i => some (0x97, i)
  | .vexp2 i => some (0x98, i)
  | .vlog2 i => some (0x99, i)
  | .vmov i => some (0xA0, i)
  | .vbcast i => some (0xA1, i)
  | .vperm i => some (0xA2, i)
  | .vshuf i => some (0xA3, i)
  | .vins i => some (0xA4, i)
  | .vext i => some (0xA5, i)
  | .vcvt i => some (0xA6, i)
  | .vpack i => some (0xA7, i)
  | .vunpk i => some (0xA8, i)
  | .vscan i => some (0xA9, i)
  | .vred i => some (0xAA, i)
  | .vmask i => some (0xAB, i)
  | .vxfer i => some (0xAC, i)
  | .drawSolo i => some (0xAD, i)
  | .drawClus i => some (0xAD, i)
  | .vrng i => some (0xAE, i)
  | .vrot i => some (0xAF, i)
  | .tcfgSet i => some (0xC0, i)
  | .tcfgGet i => some (0xC0, i)
  | .mxq i => some (0xC1, i)
  | .mxwait i => some (0xC2, i)
  | .trow i => some (0xC3, i)
  | .tzero i => some (0xC4, i)
  | .sdq i => some (0xC5, i)
  | .cstGo i => some (0xC6, i)
  | .cstStage i => some (0xC6, i)
  | .cldV i => some (0xC7, i)
  | .cldCp i => some (0xC7, i)
  | .cbind i => some (0xC8, i)
  | .cunbind i => some (0xC9, i)
  | .cview i => some (0xCA, i)
  | .cclose i => some (0xCB, i)
  | .cfence i => some (0xCC, i)
  | .cstat i => some (0xCD, i)
  | .rbeg i => some (0xE0, i)
  | .rend i => some (0xE1, i)
  | .rabortExit i => some (0xE2, i)
  | .rabortRst i => some (0xE2, i)
  | .rstat i => some (0xE3, i)
  | .rwait i => some (0xE4, i)
  | .rkey i => some (0xE5, i)
  | .jcfgSet i => some (0xE6, i)
  | .jcfgClr i => some (0xE6, i)
  | .jq i => some (0xE7, i)
  | .jwait i => some (0xE8, i)
  | .jstatRep i => some (0xE9, i)
  | .jstatQ i => some (0xE9, i)
  | .pcrd i => some (0xEA, i)
  | .pcwr i => some (0xEB, i)
  | .eret i => some (0xEC, i)
  | .mcall i => some (0xED, i)
  | .scall i => some (0xEE, i)
  | .tlbiVa i => some (0xEF, i)
  | .tlbiPart i => some (0xEF, i)
  | .tlbiDev i => some (0xEF, i)
  | .xsave i => some (0xF0, i)
  | .xrest i => some (0xF1, i)
  | .qexpFull i => some (0xF2, i)
  | .qexpDirty i => some (0xF2, i)
  | .qimp i => some (0xF3, i)
  | .keyld i => some (0xF4, i)
  | .keyclr i => some (0xF5, i)
  | .uipost i => some (0xF6, i)
  | .wdsetAct i => some (0xF7, i)
  | .wdsetView i => some (0xF7, i)
  | .cflushWb i => some (0xF8, i)
  | .cflushWbi i => some (0xF8, i)
  | .cflushPart i => some (0xF8, i)
  | .haltPark i => some (0xF9, i)
  | .haltStop i => some (0xF9, i)
  | .haltRel i => some (0xF9, i)
  | .haltStart i => some (0xF9, i)
  | .idle i => some (0xFA, i)
  | _ => none

/-- Whether a step is well formed: an instruction row passes the checks of R81 that depend on its words, and its VAR is the one its row
names; an event of a unit always is. -/
def Instr.wf (i : Instr) : Bool :=
  match opcodeOf i with
  | none => true
  | some (opc, e) => encOk opc e && instrOf opc e == some i

/-- A row that has words. -/
def Instr.isInstruction (i : Instr) : Bool := (opcodeOf i).isSome

/-- The base word (R64), built field by field from bit 63 down. -/
def encodeBase (opc : Nat) (i : Enc) : Nat :=
  let n := i.yield.toNat
  let n := n * 16 + i.wait.toNat
  let n := n * 4 + i.hint.toNat
  let n := n * 16 + i.typ.toNat
  let n := n * 16 + i.var.toNat
  let n := n * 64 + opndCode i.e
  let n := n * 64 + opndCode i.c
  let n := n * 64 + opndCode i.b
  let n := n * 64 + opndCode i.a
  let n := n * 64 + opndCode i.d
  let n := n * 16 + guardCode i.gb
  let n := n * 16 + guardCode i.ga
  let n := n * 256 + opc
  let n := n * 2 + i.live.isSome.toNat
  n * 4 + lenCode i.ext

def encodeExt : Ext → List Byte
  | .none => []
  | .imm32 v => leBytes 4 v.toNat
  | .imm64 v => leBytes 8 v.toNat

def encodeLive : Option (BitVec 64) → List Byte
  | none => []
  | some m => leBytes 8 m.toNat

/-- The bytes of an instruction, with its live mask word when SP is set (R59, R75); none for an event of a unit. -/
def encode (i : Instr) : Option (List Byte) :=
  match opcodeOf i with
  | none => none
  | some (opc, e) => some (leBytes 8 (encodeBase opc e) ++ encodeExt e.ext ++ encodeLive e.live)

/-- The words of an instruction split into fields, before any check on their values: the opcode, the fields (a reserved operand specifier
stands as "no operand" and sets `badOperand`), and the bytes it takes with its mask word. -/
structure Raw where
  opc : Nat
  enc : Enc
  badOperand : Bool
  size : Nat
  deriving DecidableEq, Repr

/-- An instruction that fails a check: the check's place in R81 and its cause. -/
structure DecodeError where
  check : Nat
  cause : DecodeCause
  deriving DecidableEq, Repr

/-- The fields of the base word, peeled from bit 0 up (R64). -/
def splitBase (w : Nat) (ext : Ext) (live : Option (BitVec 64)) : Raw :=
  let w := w / 8
  let opc := w % 256; let w := w / 256
  let ga := w % 16; let w := w / 16
  let gb := w % 16; let w := w / 16
  let d := opndOf (w % 64); let w := w / 64
  let a := opndOf (w % 64); let w := w / 64
  let b := opndOf (w % 64); let w := w / 64
  let c := opndOf (w % 64); let w := w / 64
  let e := opndOf (w % 64); let w := w / 64
  let var := w % 16; let w := w / 16
  let typ := w % 16; let w := w / 16
  let hint := w % 4; let w := w / 4
  let wait := w % 16; let w := w / 16
  let get (o : Option Opnd) : Opnd := match o with | some x => x | none => .none
  { opc := opc
    badOperand := !(d.isSome && a.isSome && b.isSome && c.isSome && e.isSome)
    size := extBytes ext + (if live.isSome then 8 else 0)
    enc := { yield := w % 2 == 1, wait := BitVec.ofNat 4 wait, hint := BitVec.ofNat 2 hint, typ := BitVec.ofNat 4 typ
             var := BitVec.ofNat 4 var, e := get e, c := get c, b := get b, a := get a, d := get d
             gb := guardOf gb, ga := guardOf ga, live := live, ext := ext } }

/-- Checks 1 and 2 of R81 on the bytes that start at offset `off` of a fetch block. `payload` gives the offset within a `sendc` payload for
code that runs from one (R137): there an instruction, its mask word not counted, starts below byte 40 and ends at or before byte 39. DESIGN CHOICE (log 128). -/
def rawOf (off : Nat) (payload : Option Nat) (bytes : List Byte) : Except DecodeError Raw :=
  let w := ofLeN 8 bytes
  let len := w % 4
  let sp := w / 4 % 2 == 1
  let startBad := match payload with | some p => decide (40 ≤ p) | none => false
  if len == 0 || startBad then .error ⟨1, .illegalInstruction⟩
  else
    let rest := bytes.drop 8
    let ext : Ext :=
      if len == 1 then .none
      else if len == 2 then .imm32 (BitVec.ofNat 32 (ofLeN 4 rest))
      else .imm64 (BitVec.ofNat 64 (ofLeN 8 rest))
    let n := extBytes ext
    let live : Option (BitVec 64) := if sp then some (BitVec.ofNat 64 (ofLeN 8 (bytes.drop n))) else none
    let total := n + (if sp then 8 else 0)
    let pastPayload := match payload with | some p => decide (40 < p + n) | none => false
    if 32 < off % 32 + total || pastPayload then .error ⟨2, .fetchBoundary⟩
    else .ok (splitBase w ext live)

/-- Checks 1 to 3 of R81. -/
def decodeRaw (off : Nat) (payload : Option Nat) (bytes : List Byte) : Except DecodeError Raw :=
  match rawOf off payload bytes with
  | .error e => .error e
  | .ok r => if (ruleOf r.opc r.enc).isNone then .error ⟨3, .illegalInstruction⟩ else .ok r

/-- Whether an opcode may not run from a `sendc` payload (R137): `call`, `ret`, `jmp` and `sendc`. -/
def payloadBanned (opc : Nat) : Bool := opc == 0x22 || opc == 0x23 || opc == 0x21 || opc == 0x48

/-- Checks 5 to 8 of R81. -/
def decodeChecks (fromPayload : Bool) (r : Raw) : Except DecodeError Instr :=
  match ruleOf r.opc r.enc with
  | none => .error ⟨3, .illegalInstruction⟩
  | some rule =>
    if !rule.lengthOk r.enc then .error ⟨5, .illegalInstruction⟩
    else if !safePointOk r.opc r.enc || (fromPayload && (r.enc.live.isSome || payloadBanned r.opc)) then .error ⟨6, .illegalInstruction⟩
    else if !rule.fieldsOk r.enc then .error ⟨7, .illegalInstruction⟩
    else if r.badOperand || !rule.operandsOk r.enc then .error ⟨8, .illegalOperand⟩
    else match instrOf r.opc r.enc with
      | some i => .ok i
      | none => .error ⟨7, .illegalInstruction⟩

/-- The whole decoder for code in memory at an address whose fetch-block offset is `off`: the instruction and the bytes it takes. -/
def decode (off : Nat) (bytes : List Byte) : Except DecodeError (Instr × Nat) :=
  match decodeRaw off none bytes with
  | .error e => .error e
  | .ok r =>
    match decodeChecks false r with
    | .error e => .error e
    | .ok i => .ok (i, r.size)

/-- The next sequential instruction address (R63), from the bytes an instruction takes with its mask word. -/
def nextPc (pc : Nat) (size : Nat) : Nat :=
  let n := pc + size
  (if n % 32 = 28 then n + 4 else n) % 2^64

/-- Whether an address may start an instruction (R61). -/
def pcAligned (pc : Nat) : Bool := pc % 4 == 0 && pc % 32 != 28

/-- Opcodes 0xEA to 0xFA are privileged (R78). -/
def privilegedOpc (opc : Nat) : Bool := decide (0xEA ≤ opc) && decide (opc ≤ 0xFA)

/-- Whether a level permits an opcode (R79, R339, R354); `none` is a compute core, which has no level. -/
def permitsOpc (level : Option Nat) (opc var : Nat) : Bool :=
  if !privilegedOpc opc then true
  else match level with
  | none => false
  | some l =>
    if opc == 0xFA then true
    else if opc == 0xEE then decide (l ≤ 1)
    else if (opc == 0xEF || opc == 0xF8) && var == 2 then l == 2
    else decide (1 ≤ l)

/-- The feature an unprivileged opcode belongs to, as a bit number of R80; privileged opcodes belong to none. -/
def featureOf (opc : Nat) : Option Nat :=
  if opc < 0x80 then some 0
  else if opc == 0xAD || opc == 0xAE then some 2
  else if opc < 0xC0 then some 1
  else if opc ≤ 0xC4 then some 3
  else if opc == 0xC5 then some 4
  else if opc ≤ 0xDF then some 5
  else if opc ≤ 0xE5 then some 6
  else if opc ≤ 0xE9 then some 7
  else none

/-- The decoder on a table word: `nbits` bits of `w` with bit 0 the first byte's least significant, every later bit zero, at offset 0 of a
fetch block. -/
def decodeTableWord (nbits w : Nat) : Option Instr :=
  match decode 0 (leBytes 32 (w % 2 ^ nbits)) with
  | .ok (i, _) => some i
  | .error _ => none

end Sys2Proof
end

