-- ==== Sys2Proof/Machine/Sparse.lean ====
section
/-! DEFINITION. Sparse data by number: a list of numbered entries, rising, with a default for a number that is not listed; and the byte
memory, which is the same with no listed byte equal to what an unlisted address reads as. -/

namespace Sys2Proof.Machine

/-- Entries by number, in rising order. -/
abbrev KV (α : Type) := List (Nat × α)

namespace KV

/-- The entry of `k`, or none. -/
def find? {α : Type} : KV α → Nat → Option α
  | [], _ => none
  | (j, v) :: r, k => if j = k then some v else find? r k

/-- The entry of `k`, or the default `d`. -/
def get {α : Type} (d : α) (m : KV α) (k : Nat) : α := (find? m k).getD d

/-- The entries without those of `k`. -/
def erase {α : Type} : KV α → Nat → KV α
  | [], _ => []
  | (j, v) :: r, k => if j = k then erase r k else (j, v) :: erase r k

/-- The entry put before the first one with a higher number. -/
def insert {α : Type} (k : Nat) (v : α) : KV α → KV α
  | [] => [(k, v)]
  | (j, w) :: r => if k < j then (k, v) :: (j, w) :: r else (j, w) :: insert k v r

/-- The entries with `v` at `k`. -/
def set {α : Type} (m : KV α) (k : Nat) (v : α) : KV α := insert k v (erase m k)

/-- Change the entry of `k`, taking the default where none is listed. -/
def modify {α : Type} (d : α) (m : KV α) (k : Nat) (f : α → α) : KV α := set m k (f (get d m k))

/-- The numbers listed. -/
def keys {α : Type} (m : KV α) : List Nat := m.map Prod.fst

end KV

/-- Byte memory: (address, byte) pairs in canonical form. -/
abbrev Memory := List Host.Cell

namespace Memory

/-- What an unlisted address reads as (log 5: DESIGN CHOICE; the spec gives HBM no contents before it is written, and scratchpad "or zero", R11). -/
def unlisted : Byte := 0

/-- The byte at an address. -/
def read (m : Memory) (a : Nat) : Byte := KV.get unlisted m a

/-- Memory with one byte replaced. Writing what an unlisted address reads as removes the entry. -/
def write (m : Memory) (a : Nat) (b : Byte) : Memory :=
  if b = unlisted then KV.erase m a else KV.set m a b

/-- `n` bytes from an address up. -/
def readN (m : Memory) (a : Nat) : Nat → List Byte
  | 0 => []
  | n + 1 => read m a :: readN m (a + 1) n

/-- Bytes written from an address up, in ascending order. -/
def writeN (m : Memory) (a : Nat) : List Byte → Memory
  | [] => m
  | b :: r => writeN (write m a b) (a + 1) r

/-- Strictly rising addresses above a bound, and no listed byte equal to the unlisted value. -/
def wfFrom (lo : Nat) : Memory → Bool
  | [] => true
  | (a, b) :: r => decide (lo ≤ a) && decide (b ≠ unlisted) && wfFrom (a + 1) r

/-- The canonical form. -/
def wf (m : Memory) : Bool := wfFrom 0 m

end Memory

end Sys2Proof.Machine
end

