-- ==== Sys2Proof/Machine/Flags.lean ====
section
/-! DEFINITION. The six sticky flags, the rounding modes, and the fields of FCS (R50 to R53). -/

namespace Sys2Proof.Machine

/-- Flags in the order of FCS bits [9:4] (R51): bit 5 SA, 4 NV, 3 DZ, 2 OF, 1 UF, 0 NX. -/
abbrev Fl := BitVec 6

namespace Fl
def none : Fl := 0
def sa : Fl := 0x20
def nv : Fl := 0x10
def dz : Fl := 0x08
def ovf : Fl := 0x04
def uf : Fl := 0x02
def nx : Fl := 0x01
/-- A flag raised only when a condition holds. -/
def when (c : Bool) (f : Fl) : Fl := if c then f else 0
end Fl

/-- The rounding modes (R50), in the order of FCS.RM (R51). -/
inductive Rm where
  | rne | rtz | rup | rdn
  deriving DecidableEq, Repr

def rmOf (n : Nat) : Rm := match n % 4 with | 0 => .rne | 1 => .rtz | 2 => .rup | _ => .rdn

namespace Fcs

/-- The writable bits of FCS (R51): flags [9:4] and RM [1:0]. -/
def mask : Word := 0x3F3

/-- The rounding mode held in an FCS value. -/
def rm (f : Word) : Rm := rmOf (f.toNat % 4)

/-- The flags held in an FCS value. -/
def flags (f : Word) : Fl := f.extractLsb' 4 6

/-- FCS with flags ORed in (R52). -/
def raise (f : Word) (l : Fl) : Word := f ||| ((l.setWidth 64) <<< 4)

end Fcs

/-- Where a value with fractional part `rem` of `2^sh` goes: whether the magnitude is rounded up (R50). -/
def roundsUp (rm : Rm) (neg : Bool) (quo rem sh : Nat) : Bool :=
  match rm with
  | .rne => decide (2 ^ sh < 2 * rem) || (decide (2 * rem = 2 ^ sh) && rem != 0 && quo % 2 == 1)
  | .rtz => false
  | .rup => !neg && rem != 0
  | .rdn => neg && rem != 0

/-- The magnitude `m * 2^e` as a whole number of units `2^q`, rounded, and whether it was inexact. -/
def roundTo (rm : Rm) (neg : Bool) (m : Nat) (e q : Int) : Nat × Bool :=
  if q ≤ e then (m * 2 ^ (e - q).toNat, false)
  else
    let sh := (q - e).toNat
    let quo := m / 2 ^ sh
    let rem := m % 2 ^ sh
    ((if roundsUp rm neg quo rem sh then quo + 1 else quo), rem != 0)

end Sys2Proof.Machine
end

