-- ==== Sys2Proof/Machine/Formats.lean ====
section
/-! DEFINITION. Number formats and arithmetic (R37 to R58): exact values, decoding and encoding of every format, conversions, the
special functions, Lartan blocks, the fixed sum order, and the trimmed product. Bit patterns are natural numbers here. -/

namespace Sys2Proof.Machine

/-- An exact extended real (R58 `decode`): a NaN, signalling or quiet; an infinity; or (-1)^neg * m * 2^e. -/
inductive FVal where
  | nan (sig : Bool)
  | inf (neg : Bool)
  | fin (neg : Bool) (m : Nat) (e : Int)
  deriving DecidableEq, Repr

/-! ### Integers -/

/-- The signed integer formats 0x00 to 0x03 (R113: sg), and s4. -/
def fmtSigned (t : Nat) : Bool := decide (t < 4) || t == 8

/-- The low `n` bits of a number read as two's complement or unsigned (R113: val). -/
def valN (sg : Bool) (n : Nat) (v : Nat) : Int :=
  let u := v % 2 ^ n
  if sg && decide (2 ^ (n - 1) ≤ u) && n != 0 then (u : Int) - (2 ^ n : Nat) else u

/-- An integer modulo 2^n, as bits. -/
def wrapN (n : Nat) (i : Int) : Nat := (i % ((2 ^ n : Nat) : Int)).toNat

/-- The least and the largest value of an integer format (R37). -/
def intMin (sg : Bool) (n : Nat) : Int := if sg then -((2 ^ (n - 1) : Nat) : Int) else 0
def intMax (sg : Bool) (n : Nat) : Int := if sg then ((2 ^ (n - 1) : Nat) : Int) - 1 else ((2 ^ n : Nat) : Int) - 1

/-- `sat_int` (R44): the clamped value, and SA when it clamps. -/
def satInt (sg : Bool) (n : Nat) (i : Int) : Int × Fl :=
  if i < intMin sg n then (intMin sg n, Fl.sa)
  else if intMax sg n < i then (intMax sg n, Fl.sa)
  else (i, Fl.none)

/-- Bits of `n`-bit field sign-extended or zero-extended to 64 bits (R58). -/
def extend (sg : Bool) (n : Nat) (v : Nat) : Word := BitVec.ofInt 64 (valN sg n v)

/-! ### Floating-point layouts (R39) -/

/-- Exponent bits, mantissa bits and bias of a floating-point format; none for other formats. -/
def fltLayout (f : Nat) : Option (Nat × Nat × Nat) :=
  match f with
  | 0x09 => some (4, 3, 7)
  | 0x0A => some (5, 2, 15)
  | 0x0B => some (5, 10, 15)
  | 0x0C => some (8, 7, 127)
  | 0x0D => some (8, 23, 127)
  | _ => none

def isFlt (f : Nat) : Bool := (fltLayout f).isSome
def isFp8 (f : Nat) : Bool := f == 0x09 || f == 0x0A

/-- The canonical NaN (R39). -/
def canonNan (f : Nat) : Nat :=
  match f with
  | 0x09 => 0x7F | 0x0A => 0x7E | 0x0B => 0x7E00 | 0x0C => 0x7FC0 | _ => 0x7FC00000

/-- The largest finite magnitude's pattern (R37, R39). -/
def maxFinite (f : Nat) : Nat :=
  match f with
  | 0x09 => 0x7E | 0x0A => 0x7B | 0x0B => 0x7BFF | 0x0C => 0x7F7F | _ => 0x7F7FFFFF

/-- The exact value of a floating-point pattern (R39). -/
def decodeFlt (f : Nat) (b : Nat) : FVal :=
  match fltLayout f with
  | none => .nan false
  | some (eb, mb, bias) =>
    let man := b % 2 ^ mb
    let ex := b / 2 ^ mb % 2 ^ eb
    let neg := b / 2 ^ (mb + eb) % 2 == 1
    if f == 0x09 && ex == 15 && man == 7 then .nan false
    else if f != 0x09 && ex == 2 ^ eb - 1 then
      if man == 0 then .inf neg else .nan (man < 2 ^ (mb - 1))
    else if ex == 0 then .fin neg man (1 - (bias : Int) - mb)
    else .fin neg (2 ^ mb + man) ((ex : Int) - bias - mb)

/-- The sign bit put on a pattern. -/
def withSign (f : Nat) (neg : Bool) (b : Nat) : Nat := if neg then b + 2 ^ (fmtWidth f - 1) else b

/-- The infinity of a format that has one. -/
def infOf (f : Nat) : Nat := maxFinite f + 1

/-- Encoding a finite value other than zero: round to the destination precision, then decide overflow (R42); UF when the value rounded with
unbounded exponents is below the least normal value and the result is inexact (R40). -/
def encodeFin (f : Nat) (rm : Rm) (sat : Bool) (neg : Bool) (m : Nat) (e : Int) : Nat × Fl :=
  match fltLayout f with
  | none => (0, Fl.none)
  | some (_, mb, bias) =>
    let emin : Int := 1 - (bias : Int) - mb
    let q' : Int := (Nat.log2 m : Int) + e - mb
    let q : Int := if q' < emin then emin else q'
    let (n, inexact) := roundTo rm neg m e q
    let pat := (q - emin).toNat * 2 ^ mb + n
    if maxFinite f < pat then
      if isFp8 f && sat then (withSign f neg (maxFinite f), Fl.sa ||| Fl.nx)
      else if f == 0x09 then (canonNan f, Fl.ovf ||| Fl.nx)
      else
        let toward := match rm with | .rne => false | .rtz => true | .rup => neg | .rdn => !neg
        (withSign f neg (if toward then maxFinite f else infOf f), Fl.ovf ||| Fl.nx)
    else
      let (n', _) := roundTo rm neg m e q'
      let tiny := decide (q' < emin) && decide (n' < 2 ^ (mb + (emin - q').toNat))
      (withSign f neg pat, Fl.when inexact Fl.nx ||| Fl.when (inexact && tiny) Fl.uf)

/-- `encode` into a floating-point format (R42, R58). A NaN gives the canonical NaN, raising NV when it was signalling (R41). -/
def encodeFlt (f : Nat) (rm : Rm) (sat : Bool) (v : FVal) : Nat × Fl :=
  match v with
  | .nan sig => (canonNan f, Fl.when sig Fl.nv)
  | .inf neg =>
    if isFp8 f && sat then (withSign f neg (maxFinite f), Fl.sa)
    else if f == 0x09 then (canonNan f, Fl.nv)
    else (withSign f neg (infOf f), Fl.none)
  | .fin neg m e => if m = 0 then (withSign f neg 0, Fl.none) else encodeFin f rm sat neg m e

/-! ### Exact arithmetic -/

def FVal.isNan : FVal → Bool | .nan _ => true | _ => false
def FVal.isSnan : FVal → Bool | .nan s => s | _ => false
def FVal.isInf : FVal → Bool | .inf _ => true | _ => false
def FVal.isZero : FVal → Bool | .fin _ m _ => m == 0 | _ => false
def FVal.neg : FVal → FVal | .nan s => .nan s | .inf n => .inf (!n) | .fin n m e => .fin (!n) m e

/-- The signed magnitude at exponent `q`, which is not above the value's. -/
def FVal.units (q : Int) : FVal → Int
  | .fin neg m e => let u : Int := ((m * 2 ^ (e - q).toNat : Nat) : Int); if neg then -u else u
  | _ => 0

def FVal.exp : FVal → Int | .fin _ _ e => e | _ => 0

/-- A signed number of units 2^q, with the sign of a zero given. -/
def FVal.ofUnits (zeroNeg : Bool) (q : Int) (u : Int) : FVal :=
  if u = 0 then .fin zeroNeg 0 q else .fin (decide (u < 0)) u.natAbs q

/-- The exact sum (R50): NaN in NaN out, the flag NV for a signalling operand or for the sum of opposite infinities (R41). -/
def addExact (rm : Rm) (a b : FVal) : FVal × Fl :=
  match a, b with
  | .nan s, y => (.nan false, Fl.when (s || y.isSnan) Fl.nv)
  | x, .nan s => (.nan false, Fl.when (s || x.isSnan) Fl.nv)
  | .inf m, .inf n => if m = n then (.inf m, Fl.none) else (.nan false, Fl.nv)
  | .inf m, .fin _ _ _ => (.inf m, Fl.none)
  | .fin _ _ _, .inf n => (.inf n, Fl.none)
  | .fin n1 m1 e1, .fin n2 m2 e2 =>
    if m1 = 0 ∧ m2 = 0 ∧ n1 = n2 then (.fin n1 0 0, Fl.none)
    else
      let q := if e1 ≤ e2 then e1 else e2
      (FVal.ofUnits (rm == .rdn) q ((FVal.fin n1 m1 e1).units q + (FVal.fin n2 m2 e2).units q), Fl.none)

/-- The exact product: NV for 0 times an infinity or a signalling operand (R41). -/
def mulExact (a b : FVal) : FVal × Fl :=
  match a, b with
  | .nan s, y => (.nan false, Fl.when (s || y.isSnan) Fl.nv)
  | x, .nan s => (.nan false, Fl.when (s || x.isSnan) Fl.nv)
  | .inf m, .inf n => (.inf (m != n), Fl.none)
  | .inf m, .fin n k _ => if k = 0 then (.nan false, Fl.nv) else (.inf (m != n), Fl.none)
  | .fin m k _, .inf n => if k = 0 then (.nan false, Fl.nv) else (.inf (m != n), Fl.none)
  | .fin n1 m1 e1, .fin n2 m2 e2 => (.fin (n1 != n2) (m1 * m2) (e1 + e2), Fl.none)

/-- A sum, difference or product of two patterns of a format, rounded once (R147). -/
def addFlt (f : Nat) (rm : Rm) (a b : Nat) : Nat × Fl :=
  let (v, l) := addExact rm (decodeFlt f a) (decodeFlt f b)
  let (r, l') := encodeFlt f rm false v
  (r, l ||| l')

def subFlt (f : Nat) (rm : Rm) (a b : Nat) : Nat × Fl :=
  let (v, l) := addExact rm (decodeFlt f a) (decodeFlt f b).neg
  let (r, l') := encodeFlt f rm false v
  (r, l ||| l')

def mulFlt (f : Nat) (rm : Rm) (a b : Nat) : Nat × Fl :=
  let (v, l) := mulExact (decodeFlt f a) (decodeFlt f b)
  let (r, l') := encodeFlt f rm false v
  (r, l ||| l')

/-- a * b + c rounded once, c negated for `vfms` (R147): 0 times an infinity raises NV even when c is a quiet NaN. -/
def fmaFlt (f : Nat) (rm : Rm) (minus : Bool) (a b c : Nat) : Nat × Fl :=
  let (p, l) := mulExact (decodeFlt f a) (decodeFlt f b)
  let cv := decodeFlt f c
  let (v, l') := addExact rm p (if minus then cv.neg else cv)
  let (r, l'') := encodeFlt f rm false v
  (r, l ||| l' ||| l'')

/-- Ordering of two values that are not NaN. -/
def ltVal (a b : FVal) : Bool :=
  match a, b with
  | .inf m, .inf n => m && !n
  | .inf m, _ => m
  | _, .inf n => !n
  | x, y =>
    let q := if x.exp ≤ y.exp then x.exp else y.exp
    decide (x.units q < y.units q)

def eqVal (a b : FVal) : Bool := !ltVal a b && !ltVal b a

/-- The sign of a value, with the zeros' signs. -/
def FVal.negative : FVal → Bool | .nan _ => false | .inf n => n | .fin n _ _ => n

/-- Order of `vmin` and `vmax` (R147): -0 below +0. -/
def ltTotal (a b : FVal) : Bool :=
  if a.isZero && b.isZero then a.negative && !b.negative else ltVal a b

/-- `vmin` (`mx` false) and `vmax` of two patterns (R147). -/
def minmaxFlt (f : Nat) (mx : Bool) (a b : Nat) : Nat × Fl :=
  let x := decodeFlt f a
  let y := decodeFlt f b
  let l := Fl.when (x.isSnan || y.isSnan) Fl.nv
  if x.isNan && y.isNan then (canonNan f, l)
  else if x.isNan then (b % 2 ^ fmtWidth f, l)
  else if y.isNan then (a % 2 ^ fmtWidth f, l)
  else if (if mx then ltTotal x y else ltTotal y x) then (b % 2 ^ fmtWidth f, l)
  else (a % 2 ^ fmtWidth f, l)

/-! ### Conversions (R42, R44, R155) -/

/-- `round_int` of a finite value (R58), and whether it was inexact. -/
def roundInt (rm : Rm) (neg : Bool) (m : Nat) (e : Int) : Int × Bool :=
  let (n, x) := roundTo rm neg m e 0
  ((if neg then -(n : Int) else (n : Int)), x)

/-- Floating point to integer (R44). -/
def fltToInt (rm : Rm) (sg : Bool) (n : Nat) (v : FVal) : Int × Fl :=
  match v with
  | .nan _ => (0, Fl.nv)
  | .inf neg => (if neg then intMin sg n else intMax sg n, Fl.nv ||| Fl.sa)
  | .fin neg m e =>
    let (i, x) := roundInt rm neg m e
    if i < intMin sg n then (intMin sg n, Fl.nv ||| Fl.sa)
    else if intMax sg n < i then (intMax sg n, Fl.nv ||| Fl.sa)
    else (i, Fl.when x Fl.nx)

/-- Conversion of one element between two formats of set W, or s4 (R155). -/
def convert (dst src : Nat) (rm : Rm) (sat : Bool) (b : Nat) : Nat × Fl :=
  if isFlt src then
    let v := decodeFlt src b
    if isFlt dst then encodeFlt dst rm sat v
    else
      let (i, l) := fltToInt rm (fmtSigned dst) (fmtWidth dst) v
      (wrapN (fmtWidth dst) i, l)
  else
    let i := valN (fmtSigned src) (fmtWidth src) b
    if isFlt dst then encodeFlt dst rm sat (FVal.ofUnits false 0 i)
    else if sat then
      let (j, l) := satInt (fmtSigned dst) (fmtWidth dst) i
      (wrapN (fmtWidth dst) j, l)
    else (wrapN (fmtWidth dst) i, Fl.none)

/-! ### Special functions (R152), always RNE -/

/-- An irrational or truncated magnitude `m * 2^e`, with a sticky bit appended so that rounding sees it is not exact. -/
def stickyFin (neg : Bool) (m : Nat) (e : Int) (sticky : Bool) : FVal := .fin neg (2 * m + sticky.toNat) (e - 1)

def f32Out (v : FVal) (l : Fl) : Nat × Fl :=
  let (r, l') := encodeFlt 0x0D .rne false v
  (r, l ||| l')

/-- 1/x. -/
def rcpF32 (b : Nat) : Nat × Fl :=
  match decodeFlt 0x0D b with
  | .nan s => f32Out (.nan s) Fl.none
  | .inf n => f32Out (.fin n 0 0) Fl.none
  | .fin n m e =>
    if m = 0 then f32Out (.inf n) Fl.dz
    else
      let k : Nat := 100
      f32Out (stickyFin n (2 ^ k / m) (-100 - e) (2 ^ k % m != 0)) Fl.none

/-- The floor of a square root, by bits from bit `k - 1` down. -/
def isqrtBits (n : Nat) : Nat → Nat → Nat
  | 0, r => r
  | k + 1, r => let t := r + 2 ^ k; isqrtBits n k (if t * t ≤ n then t else r)

/-- 1/sqrt x. -/
def rsqF32 (b : Nat) : Nat × Fl :=
  match decodeFlt 0x0D b with
  | .nan s => f32Out (.nan s) Fl.none
  | .inf true => f32Out (.nan false) Fl.nv
  | .inf false => f32Out (.fin false 0 0) Fl.none
  | .fin n m e =>
    if m = 0 then f32Out (.inf n) Fl.dz
    else if n then f32Out (.nan false) Fl.nv
    else
      let m' := if e % 2 = 0 then m else 2 * m
      let e' := if e % 2 = 0 then e else e - 1
      let r := isqrtBits (2 ^ 200 / m') 101 0
      f32Out (stickyFin false r (-100 - e' / 2) (r * r * m' != 2 ^ 200)) Fl.none

/-- Fixed point of the special functions: 192 fractional bits. -/
def fxBits : Nat := 192

/-- 2 * atanh(p/q) in fixed point by its series, `k` terms from the power `z^j`. -/
def atanhSeries (z2 : Nat) : Nat → Nat → Nat → Nat
  | 0, _, _ => 0
  | k + 1, pow, j => pow / j + atanhSeries z2 k (pow * z2 / 2 ^ fxBits) (j + 2)

/-- The natural logarithm of p/q, for q <= p <= 2q, in fixed point. -/
def lnFixed (p q : Nat) : Nat :=
  let z := (p - q) * 2 ^ fxBits / (p + q)
  2 * atanhSeries (z * z / 2 ^ fxBits) 64 z 1

/-- ln 2 in fixed point. -/
def ln2Fixed : Nat := lnFixed 2 1

/-- The exponential series in fixed point: the terms from `t`, the term of index j - 1. -/
def expSeries (y : Nat) : Nat → Nat → Nat → Nat
  | 0, _, _ => 0
  | k + 1, t, j => t + expSeries y k (t * y / (j * 2 ^ fxBits)) (j + 1)

/-- 2^f in fixed point, for 0 <= f < 1 in fixed point. -/
def exp2Frac (f : Nat) : Nat := expSeries (f * ln2Fixed / 2 ^ fxBits) 60 (2 ^ fxBits) 1

/-- 2^x. -/
def exp2F32 (b : Nat) : Nat × Fl :=
  match decodeFlt 0x0D b with
  | .nan s => f32Out (.nan s) Fl.none
  | .inf true => f32Out (.fin false 0 0) Fl.none
  | .inf false => f32Out (.inf false) Fl.none
  | .fin n m e =>
    if m = 0 then f32Out (.fin false 1 0) Fl.none
    else
      -- a magnitude of 512 or more gives an exact power of two, beyond every f32 value
      if decide (9 ≤ (Nat.log2 m : Int) + e) then f32Out (.fin false 1 (if n then -400 else 400)) Fl.none
      else
        let x : Int := (FVal.fin n m e).units (-(fxBits : Int))
        let i := x / (2 ^ fxBits : Nat)
        let f := (x % (2 ^ fxBits : Nat)).toNat
        if f = 0 then f32Out (.fin false 1 i) Fl.none
        else f32Out (stickyFin false (exp2Frac f) (i - fxBits) true) Fl.none

/-- log2 x. -/
def log2F32 (b : Nat) : Nat × Fl :=
  match decodeFlt 0x0D b with
  | .nan s => f32Out (.nan s) Fl.none
  | .inf true => f32Out (.nan false) Fl.nv
  | .inf false => f32Out (.inf false) Fl.none
  | .fin n m e =>
    if m = 0 then f32Out (.inf true) Fl.dz
    else if n then f32Out (.nan false) Fl.nv
    else
      let k := Nat.log2 m
      let i : Int := (k : Int) + e
      if m = 2 ^ k then f32Out (FVal.ofUnits false 0 i) Fl.none
      else
        let y : Int := i * (2 ^ fxBits : Nat) + ((lnFixed m (2 ^ k) * 2 ^ fxBits / ln2Fixed : Nat) : Int)
        f32Out (stickyFin (decide (y < 0)) y.natAbs (-(fxBits : Int)) true) Fl.none

/-! ### Lartan blocks (R45 to R49) -/

/-- The largest magnitude of an LB format (R45). -/
def lbMax (f : Nat) : Nat := match f with | 0x10 => 1 | 0x11 => 7 | _ => 127

/-- A finite value's magnitude is at most `mx * 2^s`. -/
def magAtMost (v : FVal) (mx : Nat) (s : Int) : Bool :=
  match v with
  | .fin _ m e => if e ≤ s then decide (m ≤ mx * 2 ^ (s - e).toNat) else decide (m * 2 ^ (e - s).toNat ≤ mx)
  | _ => false

/-- The smallest E >= 0 with the bound `m <= mx * 2^(E - 127)`, searched up from a start, `fuel` steps at most. -/
def lbExponent (mx : Nat) (xs : List FVal) : Nat → Nat → Nat
  | 0, ee => ee
  | k + 1, ee => if xs.all (fun x => magAtMost x mx ((ee : Int) - 127)) then ee else lbExponent mx xs k (ee + 1)

/-- One element of `lb_encode`: sign and magnitude bits, and the flags. -/
def lbElement (f : Nat) (rm : Rm) (s : Int) (x : FVal) : Nat × Fl :=
  match x with
  | .fin neg m e =>
    let (n, inexact) := roundTo rm neg m e s
    let q := if lbMax f < n then lbMax f else n
    let sat := decide (lbMax f < n)
    let sgn := neg && decide (0 < q)
    (q + (if sgn then 2 ^ (fmtWidth f - 1) else 0), Fl.when sat (Fl.sa ||| Fl.nx) ||| Fl.when inexact Fl.nx)
  | _ => (0, Fl.none)

/-- Micro-exponent of each pair: 1 when both elements fit at half scale. -/
def lbMicro (mx : Nat) (ee : Nat) : List FVal → List Nat
  | x :: y :: r => (if magAtMost x mx ((ee : Int) - 128) && magAtMost y mx ((ee : Int) - 128) then 1 else 0) :: lbMicro mx ee r
  | _ => []

/-- The elements of a block, pair by pair. -/
def lbElements (f : Nat) (rm : Rm) (ee : Nat) : List FVal → List Nat → List (Nat × Fl)
  | x :: y :: r, mu :: mr =>
    let s : Int := (ee : Int) - 127 - mu
    lbElement f rm s x :: lbElement f rm s y :: lbElements f rm ee r mr
  | _, _ => []

/-- Numbers of `w` bits joined, the first lowest. -/
def joinBits (w : Nat) : List Nat → Nat
  | [] => 0
  | x :: r => x % 2 ^ w + 2 ^ w * joinBits w r

/-- `n` fields of `w` bits of a number, the lowest first. -/
def splitBits (w : Nat) : Nat → Nat → List Nat
  | 0, _ => []
  | n + 1, v => v % 2 ^ w :: splitBits w n (v / 2 ^ w)

/-- `lb_encode` (R48) of 16 f32 patterns: E, the micro-exponent byte, the payload, and the flags. -/
def lbEncode (f : Nat) (rm : Rm) (xs : List Nat) : (Nat × Nat × Nat) × Fl :=
  let vs := xs.map (decodeFlt 0x0D)
  if vs.any (fun v => v.isNan || v.isInf) then
    ((0xFF, 0, 0), Fl.when (vs.any (fun v => v.isSnan || v.isInf)) Fl.nv)
  else if vs.all FVal.isZero then ((0, 0xFF, 0), Fl.none)
  else
    let mx := lbMax f
    let e0 := lbExponent mx vs 0x100 0
    let past := decide (0xFE < e0)
    let ee := if past then 0xFE else e0
    let mu := lbMicro mx ee vs
    let els := lbElements f rm ee vs mu
    ((ee, joinBits 1 mu, joinBits (fmtWidth f) (els.map Prod.fst)),
      els.foldl (fun l p => l ||| p.2) (Fl.when past Fl.sa))

/-- The value of an LB element (R47): E, micro-exponent, and the element's bits. An element of magnitude zero "is zero, whatever its sign"; that a set sign bit
gives -0 is the model's choice. DESIGN CHOICE (log 107). The NaN elements of a block with E = 0xFF are quiet. DESIGN CHOICE (log 135). -/
def lbDecode (f : Nat) (ee mu b : Nat) : FVal :=
  let w := fmtWidth f
  if ee = 0xFF then .nan false
  else .fin (b / 2 ^ (w - 1) % 2 == 1) (b % 2 ^ (w - 1)) ((ee : Int) - 127 - mu)

/-! ### Trimmed products and the fixed sum order (R54 to R57) -/

/-- The column below which partial products are dropped (R57); none for a format that is never trimmed. -/
def trimColumn (f level : Nat) : Option Nat :=
  let at_ := fun (a b c : Nat) => match level with | 1 => some a | 2 => some b | 3 => some c | _ => some 0
  match f with
  | 0x0B => at_ 3 6 9
  | 0x0C | 0x00 | 0x12 => at_ 2 4 6
  | 0x09 | 0x08 | 0x13 => at_ 1 2 3
  | 0x0A | 0x11 => at_ 0 1 2
  | 0x10 => at_ 0 0 0
  | _ => none

/-- The column of a pair: the smaller of the two, and 0 (no trimming) when either format is not listed. -/
def pairColumn (fa fb level : Nat) : Nat :=
  match trimColumn fa level, trimColumn fb level with
  | some a, some b => if a ≤ b then a else b
  | _, _ => 0

/-- `tmul` (R57): for each set bit i of `ma`, the part of `mb` whose bits j have i + j >= c. -/
def tmulBits (mb c : Nat) : Nat → Nat → Nat → Nat
  | 0, _, _ => 0
  | k + 1, i, ma =>
    (if ma % 2 = 1 then (mb / 2 ^ (c - i)) * 2 ^ (c - i) * 2 ^ i else 0) + tmulBits mb c k (i + 1) (ma / 2)

def tmul (ma mb c : Nat) : Nat := if c = 0 then ma * mb else tmulBits mb c (Nat.log2 ma + 1) 0 ma

/-- `mul_exact` with a trim column (R57, R58). -/
def mulTrim (c : Nat) (a b : FVal) : FVal × Fl :=
  match a, b with
  | .fin n1 m1 e1, .fin n2 m2 e2 => (.fin (n1 != n2) (tmul m1 m2 c) (e1 + e2), Fl.none)
  | x, y => mulExact x y

/-- The exact sum of values, one after another. -/
def sumOrdered : List FVal → FVal × Fl
  | [] => (.fin false 0 0, Fl.none)
  | x :: r =>
    let (s, l) := sumOrdered r
    let (v, l') := addExact .rne x s
    (v, l ||| l')

/-- The exact sum of a group's products, with NV for an invalid product or sum (R55): opposite infinities are one wherever they stand, for the order
of the products makes no difference. A zero sum is +0. -/
def sumExact (l : List FVal) : FVal × Fl :=
  let r := sumOrdered l
  (r.1, r.2 ||| Fl.when (l.any (fun v => v.isInf && v.negative) && l.any (fun v => v.isInf && !v.negative)) Fl.nv)

/-- The products of a group. -/
def products (c : Nat) (as bs : List FVal) : List FVal × Fl :=
  (List.zipWith (mulTrim c) as bs).foldr (fun p q => (p.1 :: q.1, p.2 ||| q.2)) ([], Fl.none)

/-- A group sum rounded to f32: +0 when it is exactly zero (R54). -/
def groupSum (c : Nat) (as bs : List FVal) : Nat × Fl :=
  let (ps, l) := products c as bs
  let (v, l') := sumExact ps
  let v' := if v.isZero then .fin false 0 0 else v
  let (r, l'') := encodeFlt 0x0D .rne false v'
  (r, l ||| l' ||| l'')

/-- `dot_fixed` (R54) over whole groups of 16; `acc` is an f32 pattern. `n` counts the groups. -/
def dotFixed (c : Nat) : Nat → List FVal → List FVal → Nat → Nat × Fl
  | 0, _, _, acc => (acc, Fl.none)
  | n + 1, as, bs, acc =>
    let (s, l) := groupSum c (as.take 16) (bs.take 16)
    let (a, l') := addFlt 0x0D .rne acc s
    let (r, l'') := dotFixed c n (as.drop 16) (bs.drop 16) a
    (r, l ||| l' ||| l'')

/-- The value of an element of a format that has no scale: a float, or an integer. -/
def elemVal (f : Nat) (b : Nat) : FVal :=
  if isFlt f then decodeFlt f b else FVal.ofUnits false 0 (valN (fmtSigned f) (fmtWidth f) b)

/-! ### The generator (R161) -/

/-- `n` rounds of the generator. -/
def genRounds : Nat → Nat → Nat → Nat → Nat → Nat → Nat → List Nat
  | 0, _, _, c0, c1, c2, c3 => [c0, c1, c2, c3]
  | n + 1, k0, k1, c0, c1, c2, c3 =>
    let p := 0xC6A4A793 * c0
    let q := 0x9E3779B1 * c2
    genRounds n ((k0 + 0x9E3779B9) % 2 ^ 32) ((k1 + 0xBB67AE85) % 2 ^ 32)
      (Nat.xor (Nat.xor (q / 2 ^ 32) c1) k0) (q % 2 ^ 32) (Nat.xor (Nat.xor (p / 2 ^ 32) c3) k1) (p % 2 ^ 32)

/-- G(seed, seq, pos): the four words. -/
def gen (seed sq pos : Nat) : List Nat :=
  genRounds 10 (seed % 2 ^ 32) (seed / 2 ^ 32 % 2 ^ 32) (sq % 2 ^ 32) (sq / 2 ^ 32 % 2 ^ 32) (pos % 2 ^ 32) (pos / 2 ^ 32 % 2 ^ 32)

/-- The uniform of a word as an f32 pattern. -/
def uniformF32 (c : Nat) : Nat := (encodeFlt 0x0D .rne false (FVal.ofUnits false (-24) ((c / 256 : Nat) : Int))).1

end Sys2Proof.Machine
end

