-- ==== Sys2Proof/Machine/State.lean ====
section
/-! DEFINITION. The state of the device as plain data, and the state after reset. Every piece of state INVENTORY.md lists stands here.
Locations: one number space for all bytes of the device. HBM byte PA is location PA (below 2^40); byte PA of device FDEV of the load-store
domain is (FDEV + 1) * 2^40 + PA; scratchpad byte `off` of a space is 2^52 + space * 2^20 + off, where the space is a core's PSLOT word
(its common bytes, R11) or, for the copy of an object's named regions, 2^16 + (group copy number) * 2^21 + virtual core number (R12). -/

namespace Sys2Proof.Machine

/-! ### Thread slots -/

/-- The states of a thread slot (R14). -/
inductive SlotState where
  | free | active | parked | halted
  deriving DecidableEq, Repr

/-- Why a slot is HALTED: its launch is ending, `halt.stop`, or `trap.brk` (R14, R124, R356). -/
inductive HaltReason where
  | none | ending | stop | brk
  deriving DecidableEq, Repr

/-- Channel kinds, as `qstat` reports them (R128). -/
inductive ChanKind where
  | unbound | input | output
  deriving DecidableEq, Repr

/-- A channel (R128). The last of `times` are the cycles in which its entries arrived (R386). Entries of an `.in` binding are here, head first; entries of an `.out` binding are packets of the network. -/
structure Chan where
  kind : ChanKind := .unbound
  tag : Nat := 0
  route : Nat := 0
  entries : List Vec := []
  times : List Nat := []
  deriving DecidableEq, Repr

/-- A stream register (R130, R385): the descriptor as loaded, the five indices, and whether it is loaded. -/
structure Strm where
  valid : Bool := false
  desc : List Byte := []
  idx : List Nat := [0, 0, 0, 0, 0]
  deriving DecidableEq, Repr

/-- A frame record (R121). -/
structure Frame where
  link : Nat
  callee : Nat
  caller : Nat
  deriving DecidableEq, Repr

/-- What a buffered write does at its home (R172, R173, R177, R185), or a `setfe` of a granule that the slot still has to write (R175). -/
inductive PendOp where
  | bytes (b : List Byte)
  | bits (off width value : Nat)
  | atomic (op typ : Nat) (value : Word)
  | cbarm (add : Bool) (v rt acore : Nat)
  | fe (full : Bool)
  deriving DecidableEq, Repr

/-- What an access or a register's value is ordered behind (R205, R210): writes of the slot that are still in its store buffer, by number, and, of those that have been
performed, the cycle of the last. -/
structure Floor where
  ids : List Nat := []
  since : Nat := 0
  deriving DecidableEq, Repr

/-- Bytes that a slot has accessed, and what a later access to them is ordered behind: its own write of them, or what its read of them was ordered behind. -/
structure Seen where
  loc : Nat
  n : Nat
  floor : Floor
  deriving DecidableEq, Repr

/-- The preserved program order of a slot's accesses that no wait enforces (R205, R210; log 131): what the values of its registers are ordered behind, by register (`regKey`);
the bytes it has accessed; what its branches depended on; of the instruction that runs, what its address and what all its sources depend on; and what the bytes it has read are
ordered behind. -/
structure Order where
  regs : KV Floor := []
  seen : List Seen := []
  branch : Floor := {}
  addr : Floor := {}
  srcs : Floor := {}
  met : Floor := {}
  deriving DecidableEq, Repr

/-- A store, posted atomic, sub-byte store or `cbarm` in a slot's store buffer: its number, whose it is, under which partition it was translated, where it goes, under which memory
key and through a leaf of which level, what it does, whether it is a release store (R173), whether its bytes lie in a spill area (R122), its HINT (R68), and the entries that it is
performed after because it depends on a read that is (R205). -/
structure PStore where
  id : Nat := 0
  spill : Bool := false
  hint : Nat := 0
  after : List Nat := []
  part : Nat := 0
  launch : Option Nat := none
  act : Nat := 0
  ginst : Nat := 0
  vcore : Nat := 0
  va : Nat := 0
  loc : Nat
  key : Option Nat := none
  level : Nat := 0
  op : PendOp
  release : Bool := false
  deriving DecidableEq, Repr

/-- A plain load that has issued and whose data has not returned (R173): its address `pc`, the partition under which it was translated, its destination, the bytes it reads and under which key, whether
their page is SC, how the element is cut out of them and extended, its HINT, and what its address is ordered behind. -/
structure PLoad where
  pc : Nat := 0
  hint : Nat := 0
  floor : Floor := {}
  part : Nat := 0
  sc : Bool := false
  vec : Bool
  reg : Nat
  va : Nat
  loc : Nat
  key : Option Nat := none
  level : Nat := 0
  bytes : Nat
  off : Nat := 0
  width : Nat := 128
  signed : Bool := false
  deriving DecidableEq, Repr

/-- The snapshot `rbeg` takes (R288), with the call depth and the address of the `rbeg`. -/
structure Snapshot where
  xg : KV Word := []
  win : KV Word := []
  offs : Nat := 0
  frame : Nat := 0
  frames : List Frame := []
  preds : BitVec 8 := 0
  fcs : Word := 0
  pc : Nat := 0
  deriving DecidableEq, Repr

/-- The privileged registers of a control-core slot (R337, R341, R347). -/
structure Ctl where
  level : Nat := 2
  mie : Bool := false
  sie : Bool := false
  mpl : Nat := 0
  spl : Nat := 0
  sepc : Word := 0
  scause : Word := 0
  sval : Word := 0
  svec : Word := 0
  mepc : Word := 0
  mcause : Word := 0
  mval : Word := 0
  mvec : Word := 0
  pid : Nat := 0
  ptbase : Word := 0
  vmapq : Word := 0
  pmpb : KV Word := []
  pmpc : KV Word := []
  deriving DecidableEq, Repr

/-- A request in a core's remote-access buffer (R138, R139): the requesting slot and the cycle it arrived; `tact` is the target's act once the
request has found it HALTED or PARKED, else 0. -/
structure Remote where
  from_ : Nat
  act : Nat
  since : Nat
  put : Bool
  target : Nat
  spec : Nat
  value : Word
  timeout : Nat
  tact : Nat := 0
  deriving DecidableEq, Repr

/-- What a request in the wait list of a scratchpad controller asks for (R176, R186): an `ldfe`, `.clr` or not; an `stfe` and its value; a `cbwait`. -/
inductive Waiter where
  | ldfe (clr : Bool)
  | stfe (v : Vec)
  | cbwait
  deriving DecidableEq, Repr

/-- What a blocked instruction of a slot waits for, beyond what other state shows: the cycle of a `wait`, the cycle a remote request
reached the target's buffer, or a request that a full buffer refused and the cycle of its retry, the join of a `qfence.wait`, the first ticket `trow` need not wait for, a posted cluster draw, an entry of a controller's wait list (its number, granule, core and request), one that the controller has
performed and what it gave, one that a full list refused, a place in the queue for a line, the
region an `rwait` names and its outcome, the wave a `cfence` awaits and its outcome, a fabric access without an answer, the region of DEPTH 8
a read waits for (R124, R138, R187, R165, R176, R179, R293, R237, R412, R281). -/
inductive Wait where
  | none
  | until (cycle : Nat)
  | remoteAsk (r : Remote) (until_ : Nat)
  | remote (target since : Nat)
  | remoteDone (status : Nat) (value : Word)
  | join (id : Nat)
  | tickets (bound : Nat)
  | draw (number : Nat)
  | drawDone (token : Word)
  | listed (seq loc core : Nat) (w : Waiter)
  | served (loc : Nat) (v : Vec) (bad : Bool)
  | refused (until_ : Nat)
  | line (seq line : Nat)
  | region (rslot gen : Nat)
  | regionDone (outcome : Nat)
  | wave (table num : Nat)
  | waveDone (failed : Bool)
  | fabric (aperture kind va since : Nat)
  | behind (rslot gen : Nat)
  deriving DecidableEq, Repr

/-- The part a formula act plays (R228): its table, its cell and its wave. -/
structure Formula where
  table : Nat
  cell : Nat
  wave : Nat
  round : Nat := 1
  deriving DecidableEq, Repr

/-- One thread slot (R14, R10, R384). `act` numbers the activation: it is the model's own name for "the same act" (log 8). The watchdog counts
from `wdBase`; `resumed` says that its next instruction was withdrawn at the park and is executed again (R390); `drawNo` is the number of a cluster draw that it has begun and not completed (R165, R166); `order` is what its next accesses are ordered behind (R205); `readyAt` is the cycle before which, for want of data or of a fetched block, its next instruction is not ready (R6, R16); `wdSaved` holds the count while the slot is PARKED, and the cycle of the halt while it is HALTED (R34). -/
structure Slot where
  st : SlotState := .free
  halt : HaltReason := .none
  act : Nat := 0
  launch : Option Nat := none
  ginst : Nat := 0
  vcore : Nat := 0
  actid : Word := 0
  actln : Word := 0
  feat : Nat := 0
  tier : Nat := 0
  pc : Nat := 0
  payload : Option (List Byte) := none
  xg : KV Word := []
  win : KV Word := []
  v : KV Vec := []
  preds : BitVec 8 := 0
  chans : KV Chan := []
  strms : KV Strm := []
  fcs : Word := 0
  rto : Word := 0x100
  offs : Nat := 0
  frame : Nat := 0
  frames : List Frame := []
  replies : Nat := 0
  store : List PStore := []
  loads : List PLoad := []
  hold : Option (Nat × Nat) := none
  view : Option (Nat × Nat × Word) := none
  region : Option Nat := none
  snap : Snapshot := {}
  wdBase : Int := 0
  wdSaved : Nat := 0
  wait : Wait := .none
  yielded : Bool := false
  readyAt : Nat := 0
  readyFor : Nat := 0
  urgent : Bool := false
  parkReq : Bool := false
  live : Word := 0
  reexec : Bool := false
  resumed : Bool := false
  boundary : Bool := false
  safe : Bool := false
  uints : List Word := []
  uintLoss : Nat := 0
  savedFrom : Option Nat := none
  row : Option (Nat × Nat) := none
  formula : Option Formula := none
  mxLast : Option Nat := none
  jqLast : Option Nat := none
  drawNo : Option Nat := none
  order : Order := {}
  origin : Nat := 0
  ctl : Ctl := {}
  deriving DecidableEq, Repr

/-! ### Messages, packets and engine queues -/

/-- The classes of traffic (R22). A packet carries a tag; a command goes to an engine; a start message begins an act. -/
inductive NetKind where
  | packet | command | start | code | row | port | reply | park
  deriving DecidableEq, Repr

/-- One message or packet on the network or waiting in an inbox: who sent it, where it goes, and what it holds. `chan` names the `.out` channel
it stands in; `retryAt` the cycle before which a refused one is not retried; `ticket` the number an engine entry already carries; `after` the
buffered stores that are performed before it can be taken (R140); `formula` the part a formula act will play; `affine` that ADDR placed it (R368); `at_` the cycle in which it entered an inbox. -/
structure NetItem where
  kind : NetKind
  src : Nat
  launch : Nat
  ginst : Nat
  dst : Nat
  vcore : Nat
  tag : Nat := 0xFFFF
  prio : Nat := 0
  data : List Byte := []
  regs : List Word := []
  handler : Nat := 0
  chan : Option Nat := none
  act : Nat := 0
  ticket : Nat := 0
  retryAt : Option Nat := none
  after : List Nat := []
  row : Option (Nat × Nat) := none
  isMessage : Bool := false
  at_ : Nat := 0
  formula : Option Formula := none
  affine : Bool := false
  deriving DecidableEq, Repr

/-- A parked packet of a core's tag parking buffer (R20), with the cycle in which it came there. -/
structure Parked where
  ginst : Nat
  tag : Nat
  data : Vec
  launch : Nat
  at_ : Nat := 0
  deriving DecidableEq, Repr

/-- An allocated route tag (R126): its group copy and number, its launch and its handler binding. -/
structure Tag where
  ginst : Nat
  tag : Nat
  launch : Nat
  handler : Option Nat := none
  deriving DecidableEq, Repr

/-- Who placed an engine entry: the launch, the group copy, the virtual core, the slot and the act. -/
structure Origin where
  launch : Nat
  ginst : Nat
  vcore : Nat
  pslot : Nat
  act : Nat
  deriving DecidableEq, Repr

/-- An entry of the copy engine, matrix, Juggler or stack dot queue: a 64-byte message, or a join entry of a queue fence (R187). `done` counts
K steps already performed (R272); `started` says that it has been checked; `rows` and `acts` are a drain's rows not yet ended and its acts;
`beats` the output beats not yet written, each a list of runs; `descA` and `descB` the stream descriptors read at the start (R253). -/
structure Entry where
  org : Origin
  msg : List Byte := []
  join : Option Nat := none
  ticket : Nat := 0
  done : Nat := 0
  started : Bool := false
  src : Nat := 0
  dst : Nat := 0
  len : Nat := 0
  obj : Option Nat := none
  dispatched : Bool := false
  rows : List Nat := []
  acts : List Nat := []
  retry : Nat := 0
  status : Word := 0
  report : Word := 0
  beats : List (List (Nat × List Byte)) := []
  descA : List Byte := []
  descB : List Byte := []
  deriving DecidableEq, Repr

/-- The matrix unit of a core (R247, R249, R262): owner, TCFG, tile elements (tile * 256 + row * 16 + column), queue, tickets and retained
status words; `errs` the 64-bit words of the tiles with an uncorrectable error, and whether it is met as POISON (R248) or as DATA-INTEGRITY (R429). -/
structure Matrix where
  owner : Option Nat := none
  tcfg : Word := 0xFFFF00000000_0F0F
  tiles : KV (BitVec 32) := []
  queue : List Entry := []
  next : Nat := 0
  accepted : Nat := 0
  status : List (Nat × Word) := []
  tcfgPending : Option Nat := none
  errs : KV Bool := []
  deriving DecidableEq, Repr

/-- One table context of a core's Juggler queue (R299): the descriptor copy, the launch that configured it, and whether a core part that was saved
here holds it (R319). -/
structure Ctx where
  desc : List Byte
  launch : Nat
  saved : Bool := false
  deriving DecidableEq, Repr

/-- The ticket counter and the retained words of one group copy (R313): ticket, status word, report word, launch. -/
structure JCount where
  next : Nat := 0
  kept : List (Nat × Word × Word × Nat) := []
  deriving DecidableEq, Repr

/-- The Juggler state of one core (R299, R313). `past` holds what the counters last released kept, the newest first: an instance that has completed leaves its retained
words there (R331; log 133). -/
structure Juggler where
  queue : List Entry := []
  ctx : KV Ctx := []
  counts : KV JCount := []
  past : List (Nat × JCount) := []
  deriving DecidableEq, Repr

/-- A line held in L1 under a read lease: the cycle in which it was read, its bytes as read under a memory key, the granules that carried a poison mark, the core's
logical time at which the lease ends, and the HINT of the last access to it (R68, R195, R352, R402, R430). -/
structure Lease where
  loc : Nat
  at_ : Nat := 0
  hint : Nat := 0
  key : Option Nat := none
  bytes : List Byte
  marks : List Nat := []
  expiry : Nat
  deriving DecidableEq, Repr

/-- One core. `fullSince` is the cycle in which its last FREE slot took an act (R368). Its logical time (R402) is the cycle plus `ahead`.
`divBusy` and `sfuBusy` are the cycles until which its divider and its special-function unit are held (R17). -/
structure Core where
  ptr : Nat := 0
  inbox : List NetItem := []
  parking : List Parked := []
  tags : List Tag := []
  discarded : Nat := 0
  remote : List Remote := []
  mx : Matrix := {}
  copyq : List Entry := []
  jug : Juggler := {}
  l1 : List Lease := []
  ahead : Nat := 0
  divBusy : Nat := 0
  sfuBusy : Nat := 0
  fullSince : Nat := 0
  deriving DecidableEq, Repr

/-- A participant's post to a cluster's draw tree (R165). -/
structure DrawPost where
  ginst : Nat
  number : Nat
  vcore : Nat
  pslot : Nat
  act : Nat
  key : Word × Word × Word
  masses : List (Nat × Nat)
  nv : Bool := false
  base : Nat
  deriving DecidableEq, Repr

/-- One cluster: the shared stack dot queue, the draw tree, the message permissions, the sticky flags, the partition that last held it, and the
cores whose turn it is at the Juggler and at the copy engine (R35). -/
structure Cluster where
  sdq : List Entry := []
  draws : List DrawPost := []
  clperm : Word := 0
  sticky : BitVec 6 := 0
  lastPart : Option Nat := none
  jugTurn : Nat := 0
  copyTurn : Nat := 0
  deriving DecidableEq, Repr

/-- A participant of a collective (R414): its rank, its command and who sent it; of a participant on another device, the bytes of its SRC. -/
structure CollArr where
  rank : Nat
  org : Origin
  core : Nat
  msg : List Byte
  src : Option (List Byte) := none
  deriving DecidableEq, Repr

/-- How a collective was decided (R415): performed, with the flags of its arithmetic, or not. -/
inductive CollEnd where
  | ok (flags : Nat)
  | mismatch
  | timeout (missing : Nat)
  deriving DecidableEq, Repr

/-- A collective gathered at a decision point (R415); `late` are the commands that came when every rank had arrived and the result was not yet formed. -/
structure Coll where
  launch : Nat
  ginst : Nat
  unit : Nat
  seq : Nat
  arrived : List CollArr
  since : Nat
  late : List CollArr := []
  decided : Option CollEnd := none
  deriving DecidableEq, Repr

/-- The states of a directory region entry (R403). -/
inductive DirState where
  | uncached | shared | owned (die : Nat) | split
  deriving DecidableEq, Repr

/-- MOESI states of a line at a die (R403). -/
inductive Moesi where
  | m | o | e | s | i
  deriving DecidableEq, Repr

/-- A directory region entry of one slice: the dies present, the state, the cycle its line entries were allocated, and, in SPLIT, the line
entries: each die's state of the line (R403). -/
structure DirEntry where
  present : List Nat := []
  st : DirState := .uncached
  born : Nat := 0
  lines : KV (KV Moesi) := []
  deriving DecidableEq, Repr

/-- One die, or, under number 8, the root switch of the load-store domain, which gathers collectives of fabric scope (R415): Ringmaster rotation pointers per tier, collectives, pending collective messages, the cross-die directory of its homes (keyed by
region * 32 + slice), the lines its L2 holds, each with the partition of its tag (16 for none) and the state of a copy homed elsewhere (S for a line homed here), the HINT of the
last access to those whose last access had `.kp` or `.lu` (R68), the answer of the
last probe checked at it (R401, R403, R405), and, for each of its two stacks, the cluster whose stack dot queue is looked at first (R269). -/
structure Die where
  rot : KV Nat := []
  colls : List Coll := []
  collIn : List NetItem := []
  dir : KV DirEntry := []
  l2 : KV (Nat × Moesi) := []
  hints : KV Nat := []
  probed : Option (Nat × Option Moesi) := none
  outsvc : Word := 0
  dotTurn : KV Nat := []
  ccLast : KV Nat := []
  deriving DecidableEq, Repr

/-! ### Trapeze regions -/

/-- Region slot states (R276). -/
inductive RState where
  | free | open_ | ending | restart
  deriving DecidableEq, Repr

/-- A region slot (R274). TIE is the global slot id, or the ring sequence number. `closed` holds the generation, final cause and restarts of the
slot's most recently closed region, and `closedPart` its partition. -/
structure RSlot where
  st : RState := .free
  domain : Nat := 0
  key : Nat := 0
  tie : Nat := 0
  gen : Nat := 0
  pred : List Nat := []
  depth : Nat := 0
  filter : BitVec 1024 := 0
  cause : Nat := 0
  restarts : Nat := 0
  part : Nat := 0
  launch : Nat := 0
  act : Nat := 0
  callDepth : Nat := 0
  closed : Option (Nat × Nat × Nat) := none
  closedPart : Nat := 0
  deriving DecidableEq, Repr

/-- A version of a granule held by a live region (R278), with the address it was written by and the level of its leaf (R360); `escape` when it stands in the escape store (R279). -/
structure Version where
  rslot : Nat
  gran : Nat
  bytes : List Byte
  key : Option Nat := none
  va : Nat := 0
  level : Nat := 0
  escape : Bool := false
  deriving DecidableEq, Repr

/-- A reader entry (R277): the region, the granule, and the region whose value it took, or none for the committed value. -/
structure Reader where
  rslot : Nat
  gran : Nat
  source : Option Nat
  deriving DecidableEq, Repr

/-! ### Objects, cells and waves -/

/-- A handler of a loaded object (R100): its address, its frame and its features. -/
structure Handler where
  addr : Nat
  frame : Nat
  feat : Nat
  deriving DecidableEq, Repr

/-- A named scratchpad region of an object (R101): where it lies, its size, and its initial bytes, if any. -/
structure Region where
  off : Nat
  size : Nat
  init : Option (List Byte) := none
  deriving DecidableEq, Repr

/-- A loaded object (R98 to R110). -/
structure Obj where
  part : Nat
  id : Nat
  handlers : List Handler := []
  regions : List Region := []
  launches : List (List Byte) := []
  table : Option Nat := none
  base : Nat := 0
  size : Nat := 0
  deriving DecidableEq, Repr

/-- Who holds a pending buffer (R221, R240). -/
inductive Holder where
  | free
  | wave (w : Nat)
  | stager (entry launch : Nat)
  deriving DecidableEq, Repr

/-- A cell: its descriptor and its three buffers (R221, R222); `lost` says that the wave LASTW names has failed (R237). -/
structure CellD where
  fmt : Nat := 0
  form : Bool := false
  iter : Bool := false
  stale : Bool := false
  staged : Bool := false
  editq : Bool := false
  failed : Bool := false
  rounds : Nat := 0
  rows : Nat := 1
  cols : Nat := 1
  rank : Nat := 0
  handler : Nat := 0xFFFF
  prec : List Nat := []
  dep : List Nat := []
  sz : Nat := 16
  lastw : Nat := 0
  lost : Bool := false
  bufA : List Byte := []
  wa : Nat := 0
  bufB : List Byte := []
  wb : Option Nat := none
  pend : List Byte := []
  va : Nat := 0
  vb : Nat := 0
  vp : Nat := 0
  hold : Holder := .free
  deriving DecidableEq, Repr

/-- How far a formula cell of a wave has come (R224, R231). -/
inductive FState where
  | waiting
  | running (act rslot : Nat)
  | ended (rslot : Nat)
  | committed
  deriving DecidableEq, Repr

/-- What a wave's formula cell is doing, and in which round (R231); `rank`, `ring` and `rounds` are those of the wave's acceptance, under which it completes (R233). -/
structure FAct where
  cell : Nat
  rank : Nat := 0
  ring : List Nat := []
  rounds : Nat := 1
  st : FState := .waiting
  round : Nat := 1
  deriving DecidableEq, Repr

/-- A wave accepted and not yet published or failed (R224). `src` is the stored, bound or unbound cell; `acts` the closure
cells that run a formula; `marked` says how many cells of the closure the walk has reached; `waitSince` the cycle its publication first waited on a pin. -/
structure Wave where
  num : Nat
  launch : Nat
  org : Origin
  src : Nat
  closure : List Nat
  marked : Nat := 1
  acts : List FAct := []
  failed : Bool := false
  waitSince : Option Nat := none
  deriving DecidableEq, Repr

/-- A queued formula edit (R233): the cell, the launch, and the record, or none for `cunbind`. -/
structure Edit where
  cell : Nat
  launch : Nat
  org : Origin
  record : Option (Nat × List Nat × Bool × Nat)
  deriving DecidableEq, Repr

/-- An open view (R234): the act that holds it, its generation and the handle it was opened with. -/
structure View where
  act : Nat
  gen : Nat
  handle : Word
  deriving DecidableEq, Repr

/-- A cell table (R219, R220). `pages` gives the location of each 64 KiB page of its memory, by the address of the page; `pause` the cycles before the table's walks
go on (R224). -/
structure Table where
  part : Nat := 0
  base : Nat := 0
  obj : Nat := 0
  home : Nat := 0
  started : Nat := 0
  committed : Nat := 0
  vwlim : Nat := 0
  views : List View := []
  edits : List Edit := []
  waves : List Wave := []
  cells : List CellD := []
  stagers : KV (Nat × Nat) := []
  pages : List (Nat × Nat) := []
  pause : Nat := 0
  deriving DecidableEq, Repr

/-! ### Launches, queues, group copies -/

/-- Launch states (R24). -/
inductive LState where
  | queued | waiting | placing | running | draining | done | ending | ended | skipped | refused
  deriving DecidableEq, Repr

/-- A recorded fault of a launch (R28, R378). -/
structure LFault where
  cause : Nat
  detail : Word
  where_ : Nat
  ginst : Nat
  deriving DecidableEq, Repr

/-- A launch (R23, R364). `away` counts the saved acts of an imported launch that this device has not restored (R375, R388). -/
structure Launch where
  lid : Nat := 0
  part : Nat := 0
  die : Nat := 0
  queue : Nat := 0
  rindex : Nat := 0
  st : LState := .queued
  cmd : List Byte := []
  checked : Bool := false
  placed : Nat := 0
  fault : Option LFault := none
  secondary : Nat := 0
  away : Nat := 0
  deriving DecidableEq, Repr

/-- A launch queue (R362, R374). `stopSeen` is STOP as the Ringmaster last saw it; `objs` are the AFTER and CREDIT objects it has named, the newest first; `dovf` that one
outside the 64 newest was written since the last export; `exported` the cycle of the last export. -/
structure Queue where
  part : Nat := 0
  qcb : Nat := 0
  ring : Nat := 0
  cring : Nat := 0
  rlog : Nat := 4
  clog : Nat := 4
  head : Nat := 0
  ctail : Nat := 0
  stopped : Bool := false
  stopping : Bool := false
  stopSeen : Bool := false
  err : Bool := false
  launches : List Nat := []
  objs : List Nat := []
  dovf : Bool := false
  exported : Nat := 0
  deriving DecidableEq, Repr

/-- A barrier (R181): phase, arrival count of the phase, arrivals counted. -/
structure Barrier where
  phase : Nat := 0
  n : Nat := 0
  count : Nat := 0
  deriving DecidableEq, Repr

/-- A group copy: one group instance of a launch (R30). `cores` maps virtual core numbers (a route word's bits [36:16]) to cores; barriers
are keyed by scope, unit and ID. `parkReq` stands from a park request until the whole group copy resumes (R390); `ncores` is the number of
its cores here; `far` maps the virtual cores it has on other devices to their device numbers, and `farActs` counts its acts and messages there (R33, R413); `savedCores` and `back` are the virtual cores whose core parts are saved, and restored since; `owed` the acts counted in the
restored core parts and not yet restored; `drawNo` counts the draws of each virtual core; `copies`, `held`,
`heldParked` and `heldMx` hold, by virtual core, the recorded copies, messages, packets and matrix entries of core parts saved and not yet resumed (R382, R386). -/
structure GInst where
  launch : Nat := 0
  num : Nat := 0
  tier : Nat := 0
  cores : KV Nat := []
  far : KV Nat := []
  farActs : Nat := 0
  barriers : KV Barrier := []
  parkReq : Bool := false
  quiesced : Bool := false
  ncores : Nat := 0
  savedCores : List Nat := []
  back : List Nat := []
  owed : Nat := 0
  drawNo : KV Nat := []
  copies : List (Nat × Entry) := []
  held : List (Nat × NetItem) := []
  heldParked : List (Nat × Parked) := []
  heldMx : List (Nat × Entry) := []
  formula : Bool := false
  regions : List Region := []
  deriving DecidableEq, Repr

/-- A context saved by `xsave` and not yet restored (R372, R388): whose act it is, where it parked, and what reached it since. `away` marks one that another
device, or an earlier import, saved. -/
structure Saved where
  act : Nat
  launch : Nat
  ginst : Nat
  vcore : Nat
  actid : Word
  pslot : Nat
  boundary : Bool := false
  uints : List Word := []
  uintLoss : Nat := 0
  table : Option (Nat × Nat) := none
  formula : Option Formula := none
  row : Option (Nat × Nat) := none
  mxLast : Option Nat := none
  jqLast : Option Nat := none
  snap : Snapshot := {}
  region : Option Nat := none
  draw : Option Nat := none
  pc : Nat := 0
  live : Word := 0
  away : Bool := false
  deriving DecidableEq, Repr

/-! ### Partitions and the rest of the device -/

/-- A partition table entry (R343). -/
structure Part where
  err : Nat := 0
  en : Bool := false
  sigreq : Bool := false
  vf : Nat := 0
  ccmask : Nat := 0
  rquota : Nat := 0
  keybase : Nat := 0
  keycount : Nat := 0
  clmask : KV Word := []
  prange : KV Word := []
  proot : Word := 0
  lim : Word := 0x1418
  image : Nat := 0
  imageDigest : List Byte := []
  pendDebug : Bool := false
  pendQueue : Bool := false
  debugValue : Nat := 0
  deriving DecidableEq, Repr

/-- A Gauntlet entry that holds a key (R353). -/
structure Key where
  typ : Nat
  part : Nat
  mat : List Byte
  deriving DecidableEq, Repr

/-- A cached translation (R351): the unit that holds it, the partition, the 64 KiB page number of the virtual address, and the leaf; of level 3, an
entry of the level-3 table that ports and fabric units hold (R408). -/
structure Tlb where
  unit : Nat := 0
  part : Nat
  page : Nat
  leaf : Word
  level : Nat
  deriving DecidableEq, Repr

/-- What another device of the load-store domain exports (R411): a partition's ranges and the devices and partitions it exports to; `answers`
says whether its answers reach this device (R412), `takes` whether its cores have room for messages now (R20), `clusters` are the partition's clusters in
service there, numbered as on this device (R31), and `feats` the features it implements (R365). -/
structure Peer where
  answers : Bool := true
  takes : Bool := true
  clusters : List Nat := []
  enabled : Bool := false
  exports : List (Nat × Nat) := []
  ranges : List (Nat × Nat) := []
  keys : List Nat := []
  feats : Nat := 0xFF
  deriving DecidableEq, Repr

/-- The stages of the start (R434). A partition has entered S3 when its image is booted (`Part.image`). -/
inductive Stage where
  | s0 | s1 | s2
  deriving DecidableEq, Repr

/-- The transmit side of a port flow (R427): the last TXTAIL it accepted, and the messages it has read and not yet
completed, oldest first: the payload sent, or none for a descriptor it abandons. -/
structure TxFlow where
  limit : Option Nat := none
  out : List (Option (List Byte)) := []
  deriving DecidableEq, Repr

/-- A write of a flow's TXTAIL that its home has reported and the port has not looked at yet (R422, R427): the flow entry's address, the writer's cluster (256 where
none of the device's clusters wrote it), and the value TXTAIL then had. -/
structure TailWrite where
  entry : Nat
  writer : Nat
  value : Nat
  deriving DecidableEq, Repr

/-- Board, boot, management and reliability state (R420, R431 to R443). `cert` is the vendor's certificate over the identity key, kept in package flash (R437);
`need` the throttle level that power needs, as the controller last found it; `counts` the cumulative counts by number: die * 16 + SOURCE of the corrected
errors, and from 64 up the ports' own counters (log 118); `crossed` how many thousands of a count have had their record. -/
structure Board where
  stage : Stage := .s0
  recovery : Nat := 0
  fatal : Bool := false
  faultPin : Bool := false
  thermtrip : Bool := false
  throttle : Nat := 0
  need : Nat := 0
  powerBrake : Bool := false
  flashA : List Byte := []
  flashB : List Byte := []
  blob : List Byte := []
  helper : List Byte := []
  cert : List Byte := []
  romSecret : Option (List Byte) := none
  devid : List Byte := []
  identity : Bool := false
  fdev : Nat := 0
  mondig : List Byte := []
  monver : Nat := 0
  cfgdig : List Byte := []
  absent : List Nat := []
  answer : List Byte := []
  temps : List Nat := [0, 0, 0, 0]
  power : List Nat := []
  counts : KV Nat := []
  crossed : KV Nat := []
  linksDown : List Nat := []
  linkRetries : KV Nat := []
  mcheck : Bool := false
  mailbox : Bool := false
  vfreset : Bool := false
  vfDown : List Nat := []
  hostFatal : Bool := false
  telem : List Byte := []
  telemNext : Nat := 0
  tx : KV TxFlow := []
  txWrites : List TailWrite := []
  fabricReply : Option (Nat × List Byte) := none
  loadStatus : Nat := 0
  deriving DecidableEq, Repr

/-- A fabric access of an engine, or of a Ringmaster for a launch, that has had no answer since a cycle (R412). -/
structure Unanswered where
  org : Origin
  aperture : Nat
  va : Nat
  since : Nat
  deriving DecidableEq, Repr

/-- What another device does to a group copy that has cores on both (R33, R413): it sends a message or packet to a core here; it answers a remote register
access; an act of it arrives at a barrier, or sends a command of a collective; the number of the copy's acts and messages there changes; an act there
faults. -/
inductive Far where
  | item (i : NetItem)
  | answer (pslot status : Nat) (value : Word)
  | arrive (ginst key n : Nat)
  | coll (ginst vcore launch : Nat) (msg src : List Byte)
  | acts (ginst n : Nat)
  | fault (ginst : Nat) (f : LFault)
  deriving DecidableEq, Repr

/-- A move of the schedule: a slot issues; its next instruction is not ready for some cycles, because data or a fetch is on its way; its next instruction, a
plain load, issues and its data returns later; such data returns; an event of a unit happens, cycles pass, the outside writes memory, a line is leased into L1 or leaves it, a
translation is cached, a granule is poisoned, another device of the domain changes what it exports or acts on a group copy, an error is corrected, package flash is
written (0 and 1 the monitor slots, 2 the configuration blob, 3 the helper data, 4 the vendor's certificate), or an uncorrectable error is met in a register a slot consumes, in a
Gauntlet entry, or in a directory entry (R406, R429), or the walks of a cell table wait for some cycles (R224) (log 1). -/
inductive Move where
  | issue (pslot : Nat)
  | delay (pslot n : Nat)
  | issueLoad (pslot : Nat)
  | loadReturn (pslot index : Nat)
  | event (i : Instr)
  | tick (n : Nat)
  | write (loc : Nat) (bytes : List Byte)
  | lease (core loc : Nat) (key : Option Nat)
  | unlease (core loc : Nat)
  | fill (unit part va : Nat)
  | poison (loc source : Nat)
  | peer (fdev part : Nat) (p : Peer)
  | far (f : Far)
  | corrected (die source : Nat)
  | flash (place : Nat) (bytes : List Byte)
  | registerError (pslot : Nat)
  | keyError (index : Nat)
  | directoryError (pa : Nat) (line : Bool)
  | walk (table n : Nat)
  deriving DecidableEq, Repr

/-- The device. `cur` is the slot that issues; `idle` says that the last step's instruction was not ready and issued nothing; `written` holds, by 16-byte granule, the cycle of the last write: what the homes report to the Ringmaster (R374);
`poisonFrom` holds, by line, in which structure other than HBM its bytes were poisoned (R432). -/
structure State where
  agenda : List Move := []
  cur : Nat := 0x8000
  idle : Bool := false
  choices : List Nat := []
  freeCount : Nat := 0
  nextId : Nat := 1
  cycle : Nat := 0
  mem : Memory := []
  fe : KV Bool := []
  written : KV Nat := []
  poison : KV Bool := []
  poisonSeen : List Nat := []
  poisonFrom : KV Nat := []
  slots : KV Slot := []
  cores : KV Core := []
  clusters : KV Cluster := []
  dies : KV Die := []
  net : List NetItem := []
  rslots : KV RSlot := []
  versions : List Version := []
  readers : List Reader := []
  filtered : List (Nat × List Nat) := []
  frontier : KV (Nat × Nat) := []
  objs : KV Obj := []
  tables : KV Table := []
  launches : KV Launch := []
  queues : KV Queue := []
  ginsts : KV GInst := []
  saved : List Saved := []
  parts : KV Part := []
  ptsel : Nat := 0
  keys : KV Key := []
  tlb : List Tlb := []
  peers : KV Peer := []
  unanswered : List Unanswered := []
  board : Board := {}
  deriving DecidableEq, Repr

/-- Who stops the machine, and why. -/
inductive Fault where
  /-- Raised by the step's fetch when the program counter of a slot breaks R61, which only privileged software can bring about that puts an unaligned
  trap vector or exception address into a register (R341: "must be a multiple of 32"), or a bad PC into a save area; the spec gives no effect (log 18).
  Safe: the machine stops where hardware would go on. -/
  | unalignedFetch
  deriving DecidableEq, Repr

/-- Why a step has no meaning. -/
inductive Refusal where
  /-- Raised by `exec` for an instruction that has no meaning yet. Safe: no claim about it can be proved. -/
  | notModelled (mnemonic : String)
  deriving DecidableEq, Repr

/-- The device right after reset: stage S0, every slot FREE (R336, R434), every register at its reset value, memory with nothing listed. -/
def State.reset : State := {}

end Sys2Proof.Machine
end

