-- ==== Sys2Proof/Machine/Xts.lean ====
section
/-! DEFINITION. AES-256-XTS on the 64-byte lines of memory under a key (R352). The spec names the standards and does not write their steps out: AES is
FIPS 197's and XTS IEEE 1619's. PRESUMED (log 6). Bytes are numbers below 256, and a block is a list of 16 of them. -/

namespace Sys2Proof.Machine.Xts

/-! ### The cipher -/

/-- A byte times x in the field of AES. -/
def xtime (a : Nat) : Nat := if a < 128 then 2 * a else Nat.xor (2 * a - 256) 0x1B

/-- A product in the field of AES, by the low `n` bits of the second factor. -/
def gmulBits : Nat → Nat → Nat → Nat
  | 0, _, _ => 0
  | n + 1, a, b => Nat.xor (if b % 2 = 1 then a else 0) (gmulBits n (xtime a) (b / 2))

def gmul (a b : Nat) : Nat := gmulBits 8 a b

/-- The inverse of a byte in the field, and 0 for 0: its 254th power. -/
def ginv (a : Nat) : Nat :=
  let sq := fun x => gmul x x
  let a2 := sq a
  let a3 := gmul a2 a
  let a12 := sq (sq a3)
  let a15 := gmul a12 a3
  let a240 := sq (sq (sq (sq a15)))
  gmul (gmul a240 a12) a2

/-- A byte rotated left by `n` bits. -/
def rotl8 (a n : Nat) : Nat := (a * 2 ^ n % 256) + a / 2 ^ (8 - n)

/-- The substitution of a byte, and the one that undoes it. -/
def sbox (a : Nat) : Nat :=
  let b := ginv a
  [rotl8 b 1, rotl8 b 2, rotl8 b 3, rotl8 b 4, 0x63].foldl Nat.xor b

def sboxInv (a : Nat) : Nat := ginv ([rotl8 a 3, rotl8 a 6, 0x05].foldl Nat.xor (rotl8 a 1))

/-- Two lists of bytes added in the field. -/
def xorBytes (a b : List Nat) : List Nat := List.zipWith Nat.xor a b

/-- One word of the key schedule of a 256-bit key: word `i`, from the words before it, the newest first. -/
def nextWord (i : Nat) (ws : List (List Nat)) : List Nat :=
  let prev := ws.headD []
  let t := if i % 8 = 0 then xorBytes ((prev.drop 1 ++ prev.take 1).map sbox) [2 ^ (i / 8 - 1), 0, 0, 0]
    else if i % 8 = 4 then prev.map sbox else prev
  xorBytes (ws.getD 7 []) t

/-- The words of the key schedule, the newest first: `n` more than the eight of the key. -/
def scheduleWords (key : List Nat) : Nat → List (List Nat)
  | 0 => ((List.range 8).map (fun k => (key.drop (4 * k)).take 4)).reverse
  | n + 1 => let ws := scheduleWords key n; nextWord (n + 8) ws :: ws

/-- The fifteen round keys of a 256-bit key, in order. -/
def roundKeys (key : List Nat) : List (List Nat) :=
  let bytes := ((scheduleWords key 52).reverse).flatten
  (List.range 15).map (fun k => (bytes.drop (16 * k)).take 16)

/-- The rows of a block shifted left, or right, by their numbers: column `c` of row `r` comes from column `c + r`, or `c - r`. -/
def shiftRows (inv : Bool) (b : List Nat) : List Nat :=
  (List.range 16).map (fun k => b.getD (k % 4 + 4 * ((k / 4 + (if inv then 4 - k % 4 else k % 4)) % 4)) 0)

/-- Each column of a block times a row of coefficients, turned once for each row of the result. -/
def mixColumns (m : List Nat) (b : List Nat) : List Nat :=
  (List.range 16).map (fun k => ((List.range 4).map (fun j => gmul (b.getD (k / 4 * 4 + j) 0) (m.getD ((j + 4 - k % 4) % 4) 0))).foldl Nat.xor 0)

/-- One block under AES-256. -/
def encryptBlock (rk : List (List Nat)) (b : List Nat) : List Nat :=
  let sub := fun (x : List Nat) => shiftRows false (x.map sbox)
  let mid := ((rk.drop 1).take 13).foldl (fun x k => xorBytes (mixColumns [2, 3, 1, 1] (sub x)) k) (xorBytes b (rk.headD []))
  xorBytes (sub mid) (rk.getLastD [])

/-- One block back from AES-256. -/
def decryptBlock (rk : List (List Nat)) (b : List Nat) : List Nat :=
  let sub := fun (x : List Nat) => (shiftRows true x).map sboxInv
  let mid := (((rk.drop 1).take 13).reverse).foldl (fun x k => mixColumns [14, 11, 13, 9] (xorBytes (sub x) k)) (xorBytes b (rk.getLastD []))
  xorBytes (sub mid) (rk.headD [])

/-! ### The lines -/

/-- The tweak of the next block: the 128-bit number times x, its low byte first. -/
def nextTweak (t : List Nat) : List Nat :=
  (List.range 16).map (fun k =>
    let carry := if k = 0 then (if t.getD 15 0 < 128 then 0 else 0x87) else t.getD (k - 1) 0 / 128
    Nat.xor (2 * t.getD k 0 % 256) carry)

/-- The blocks of a line, each under its tweak. -/
def blocks (f : List Nat → List Nat) : Nat → List Nat → List Nat → List Nat
  | 0, _, _ => []
  | n + 1, t, b => xorBytes (f (xorBytes (b.take 16) t)) t ++ blocks f n (nextTweak t) (b.drop 16)

/-- A line of 64 bytes through a block function under a 64-byte key, the data key first, with the line's physical address as the tweak (R352, R353). -/
def line (f : List (List Nat) → List Nat → List Nat) (key : List Byte) (pa : Nat) (b : List Byte) : List Byte :=
  let k := key.map BitVec.toNat
  let tweak := encryptBlock (roundKeys (k.drop 32)) ((List.range 16).map (fun i => pa / 256 ^ i % 256))
  (blocks (f (roundKeys (k.take 32))) 4 tweak (b.map BitVec.toNat)).map (BitVec.ofNat 8)

/-- A line encrypted. -/
def encrypt (key : List Byte) (pa : Nat) (b : List Byte) : List Byte := line encryptBlock key pa b

/-- A line decrypted. -/
def decrypt (key : List Byte) (pa : Nat) (b : List Byte) : List Byte := line decryptBlock key pa b

end Sys2Proof.Machine.Xts
end

