-- ==== Sys2Proof/Machine/Home.lean ====
section
/-! DEFINITION. The homes of bytes: reading and writing HBM and scratchpad at their locations, memory keys, poison marks, machine-check
records, and the accessors of the numbered parts of the state. -/

namespace Sys2Proof.Machine

/-! ### Accessors -/

namespace State

def slot (s : State) (p : Nat) : Slot := KV.get {} s.slots p
def setSlot (s : State) (p : Nat) (x : Slot) : State := { s with slots := KV.set s.slots p x }
def modSlot (s : State) (p : Nat) (f : Slot → Slot) : State := s.setSlot p (f (s.slot p))
def core (s : State) (c : Nat) : Core := KV.get {} s.cores c
def modCore (s : State) (c : Nat) (f : Core → Core) : State := { s with cores := KV.set s.cores c (f (s.core c)) }
def cluster (s : State) (c : Nat) : Cluster := KV.get {} s.clusters c
def modCluster (s : State) (c : Nat) (f : Cluster → Cluster) : State := { s with clusters := KV.set s.clusters c (f (s.cluster c)) }
def die (s : State) (d : Nat) : Die := KV.get {} s.dies d
def modDie (s : State) (d : Nat) (f : Die → Die) : State := { s with dies := KV.set s.dies d (f (s.die d)) }
def launch (s : State) (l : Nat) : Launch := KV.get {} s.launches l
def modLaunch (s : State) (l : Nat) (f : Launch → Launch) : State := { s with launches := KV.set s.launches l (f (s.launch l)) }
def ginst (s : State) (g : Nat) : GInst := KV.get {} s.ginsts g
def modGinst (s : State) (g : Nat) (f : GInst → GInst) : State := { s with ginsts := KV.set s.ginsts g (f (s.ginst g)) }
def part (s : State) (n : Nat) : Part := KV.get {} s.parts n
def modPart (s : State) (n : Nat) (f : Part → Part) : State := { s with parts := KV.set s.parts n (f (s.part n)) }
def rslot (s : State) (r : Nat) : RSlot := KV.get {} s.rslots r
def modRslot (s : State) (r : Nat) (f : RSlot → RSlot) : State := { s with rslots := KV.set s.rslots r (f (s.rslot r)) }
def obj (s : State) (o : Nat) : Obj := KV.get { part := 0, id := 0 } s.objs o
def table (s : State) (t : Nat) : Table := KV.get {} s.tables t
def modTable (s : State) (t : Nat) (f : Table → Table) : State := { s with tables := KV.set s.tables t (f (s.table t)) }
def queue (s : State) (q : Nat) : Queue := KV.get {} s.queues q
def modQueue (s : State) (q : Nat) (f : Queue → Queue) : State := { s with queues := KV.set s.queues q (f (s.queue q)) }
def modBoard (s : State) (f : Board → Board) : State := { s with board := f s.board }

end State

/-! ### Numbers of slots, cores, clusters (R342) -/

/-- Whether a slot or core number names a control core. -/
def isCtl (p : Nat) : Bool := decide (0x8000 ≤ p % 2 ^ 16)
/-- The core of a slot: its PSLOT with SLOT 0. -/
def coreOf (p : Nat) : Nat := p - p % 4
def dieOf (p : Nat) : Nat := p / 2 ^ 13 % 4
/-- The cluster of a compute core: 64 * die + CLUS. -/
def clusterOf (p : Nat) : Nat := p / 2 ^ 7 % 2 ^ 8
def coreInCluster (p : Nat) : Nat := p / 16 % 8
/-- The PSLOT of core `c` of a cluster. -/
def pslotOf (cluster c : Nat) : Nat := cluster * 2 ^ 7 + c * 16
/-- The eight cores of a cluster. -/
def clusterCores (cluster : Nat) : List Nat := (List.range 8).map (pslotOf cluster)
/-- A legal PSLOT word (R342). -/
def pslotOk (v : Nat) : Bool :=
  v / 2 ^ 16 == 0 && v / 4 % 4 == 0 && (v / 2 ^ 15 == 0 || (v / 2 ^ 7 % 2 ^ 6 == 0 && decide (v / 16 % 8 < 4)))
/-- Whether a partition's image is booted: it has entered stage S3 (R434). -/
def Part.booted (e : Part) : Bool := e.en && e.image == 2
/-- The launch key of a launch identifier of a partition. -/
def launchKey (part lid : Nat) : Nat := part * 2 ^ 16 + lid

/-- Entries a channel holds (R19). -/
def chanDepth : Nat := 8

/-- A channel with an entry that arrives in a cycle behind the others. -/
def Chan.push (cycle : Nat) (v : Vec) (c : Chan) : Chan :=
  { c with entries := c.entries ++ [v], times := (c.times ++ [cycle]).drop (c.times.length + 1 - chanDepth) }
/-- The cycles in which a channel's entries arrived, one for each; 0 where it is not known. -/
def Chan.arrivals (c : Chan) : List Nat :=
  let t := c.times.drop (c.times.length - c.entries.length)
  List.replicate (c.entries.length - t.length) 0 ++ t

/-! ### Bytes and words -/

def bytesOfWord (w : Word) : List Byte := leBytes 8 w.toNat
def bytesOfVec (v : Vec) : List Byte := leBytes 16 v.toNat
def vecOfBytes (b : List Byte) : Vec := BitVec.ofNat 128 (ofLe b)
/-- `n` bytes at an offset of a list, as a number. -/
def fieldAt (b : List Byte) (off n : Nat) : Nat := ofLeN n (b.drop off)
/-- Whether the bytes at an offset are all zero. -/
def zeroAt (b : List Byte) (off n : Nat) : Bool := fieldAt b off n == 0
/-- A list with the bytes from an offset replaced. -/
def patch (b : List Byte) (off : Nat) (new : List Byte) : List Byte := b.take off ++ new ++ b.drop (off + new.length)
/-- Bits hi..lo of a number (R58). -/
def bitsN (v hi lo : Nat) : Nat := v / 2 ^ lo % 2 ^ (hi + 1 - lo)
def testBit (v i : Nat) : Bool := v / 2 ^ i % 2 == 1
/-- The lowest multiple of `a` at or above `n`. -/
def alignUp (a n : Nat) : Nat := (n + a - 1) / a * a

/-! ### Homes -/

/-- The first scratchpad location. -/
def spadBase : Nat := 2 ^ 52
/-- The first location of another device. -/
def fabricBase : Nat := 2 ^ 40
def isHbm (loc : Nat) : Bool := decide (loc < fabricBase)
def isSpad (loc : Nat) : Bool := decide (spadBase ≤ loc)
/-- The location of a scratchpad byte of a space. -/
def spadLoc (space off : Nat) : Nat := spadBase + space * 2 ^ 20 + off
/-- The first tile location, and the location of element `k` of a core's tiles, for the marks that their code leaves (R248). -/
def tileBase : Nat := 2 ^ 60
def tileLoc (core k : Nat) : Nat := tileBase + core * 2 ^ 12 + 4 * k

/-- The core of a tile location, and the 64-bit word of its tiles that the location is in (R429). -/
def tileCore (loc : Nat) : Nat := (loc - tileBase) / 2 ^ 12
def tileWord (loc : Nat) : Nat := (loc - tileBase) % 2 ^ 12 / 8
/-- The space of the named regions of a group copy on a virtual core (R12). -/
def copySpace (ginst vcore : Nat) : Nat := 2 ^ 16 + ginst * 2 ^ 21 + vcore
/-- The home die of a physical address (R400). -/
def homeDie (loc : Nat) : Nat := loc / 2 ^ 38 % 4
/-- The home slice within the die (R400). -/
def homeSlice (loc : Nat) : Nat :=
  Nat.xor (Nat.xor (loc / 2 ^ 6 % 2 ^ 5) (loc / 2 ^ 11 % 2 ^ 5)) (loc / 2 ^ 16 % 2 ^ 5)
/-- Whether a physical address lies in populated HBM of a trained stack (R352, R435). -/
def populated (s : State) (pa : Nat) : Bool :=
  decide (pa < 2 ^ 40) && decide (pa % 2 ^ 37 < 80000000000) && !s.board.absent.contains (pa / 2 ^ 37)

/-- The material of a type 1 key; none where the entry is empty or of another type (R353). -/
def memKey (s : State) (k : Nat) : Option (List Byte) :=
  match KV.find? s.keys k with
  | some e => if e.typ == 1 then some e.mat else none
  | none => none

/-- `n` bytes at a location as the home holds them, decrypted where the page has KE (R352). All lie in one 64-byte line when a key is given. -/
def homeRead (s : State) (loc n : Nat) (key : Option Nat) : List Byte :=
  match key.bind (memKey s) with
  | some mat =>
    if isHbm loc then
      let line := loc / 64 * 64
      ((Xts.decrypt mat line (Memory.readN s.mem line 64)).drop (loc % 64)).take n
    else Memory.readN s.mem loc n
  | none => Memory.readN s.mem loc n

/-- The granules that `n` bytes at a location touch. -/
def granules (loc n : Nat) : List Nat :=
  if n = 0 then [] else (List.range ((loc + n - 1) / 16 - loc / 16 + 1)).map (· + loc / 16)

/-- Granules marked as written now: what the homes report (R362, R374). -/
def markWritten (s : State) (loc n : Nat) : State :=
  { s with written := (granules loc n).foldl (fun w g => KV.set w g s.cycle) s.written }

/-- Bytes put at a location: encrypted under a key, and reported. -/
def homePoke (s : State) (loc : Nat) (key : Option Nat) (b : List Byte) : State :=
  let m := match key.bind (memKey s) with
    | some mat =>
      if isHbm loc then
        let line := loc / 64 * 64
        let plain := Xts.decrypt mat line (Memory.readN s.mem line 64)
        Memory.writeN s.mem line (Xts.encrypt mat line (patch plain (loc % 64) b))
      else Memory.writeN s.mem loc b
    | none => Memory.writeN s.mem loc b
  markWritten { s with mem := m } loc b.length

/-! ### Full-empty bits (R174) -/

def feOf (s : State) (loc : Nat) : Bool := KV.get false s.fe (loc / 16)
def setFe (s : State) (loc : Nat) (b : Bool) : State :=
  { s with fe := if b then KV.set s.fe (loc / 16) true else KV.erase s.fe (loc / 16) }

/-! ### Poison (R430) -/

def poisoned (s : State) (gran : Nat) : Bool := KV.get false s.poison gran
/-- The first poisoned location among `n` bytes. -/
def poisonIn (s : State) (loc n : Nat) : Option Nat :=
  ((granules loc n).find? (poisoned s)).map (fun g => if g * 16 < loc then loc else g * 16)
/-- The first poisoned granule that a write of `n` bytes covers only in part. -/
def poisonPart (s : State) (loc n : Nat) : Option Nat :=
  ((granules loc n).find? (fun g => poisoned s g && !(decide (loc ≤ g * 16) && decide (g * 16 + 16 ≤ loc + n)))).map
    (fun g => if g * 16 < loc then loc else g * 16)
/-- Marks cleared by a write of whole granules. -/
def clearPoison (s : State) (loc n : Nat) : State :=
  if s.poison.isEmpty then s else { s with poison := (granules loc n).foldl (fun q g => KV.erase q g) s.poison }

/-! ### Holds (R179) -/

/-- Whether a slot that is not of core `c` holds the line of a location now. -/
def heldElsewhere (s : State) (c loc : Nat) : Bool :=
  s.slots.any (fun e => coreOf e.1 != c && (match e.2.hold with | some (l, t) => l == loc / 64 && decide (s.cycle < t) | none => false))

/-- Whether another slot holds the line of a location now. -/
def heldByOther (s : State) (p : Option Nat) (loc : Nat) : Bool :=
  s.slots.any (fun e => some e.1 != p && (match e.2.hold with | some (l, c) => l == loc / 64 && decide (s.cycle < c) | none => false))

/-! ### L1 copies (R402) -/

/-- A core's copy of a line is given up: its slots read the home next. -/
def dropLine (core loc : Nat) (s : State) : State :=
  if isSpad loc || (s.core core).l1.isEmpty then s
  else s.modCore core (fun c => { c with l1 := c.l1.filter (fun l => l.loc != loc / 64 * 64) })

/-! ### Machine checks (R431, R432) -/

/-- The ring control block and the ring. -/
def ringControl : Nat := 0x1280040000
def ringBase : Nat := 0x1280000000

/-- The fields of a machine-check record that differ from zero. -/
structure McRecord where
  source : Nat
  sev : Nat
  die : Nat := 0
  part : Nat := 0
  launch : Nat := 0
  pslot : Nat := 0
  pa : Nat := 0
  aper : Nat := 0
  unit : Nat := 0
  synd : Nat := 0
  count : Nat := 0

def McRecord.bytes (r : McRecord) (cycle : Nat) : List Byte :=
  leBytes 8 cycle ++ leBytes 1 r.source ++ leBytes 1 r.sev ++ leBytes 1 r.die ++ leBytes 1 r.part ++ leBytes 2 r.launch ++
  leBytes 2 r.pslot ++ leBytes 8 r.pa ++ leBytes 1 r.aper ++ leBytes 1 r.unit ++ leBytes 6 0 ++ leBytes 8 r.synd ++ leBytes 8 r.count ++
  leBytes 16 0

/-- Write a machine-check record, or count it lost when the ring is full, and make MCHECK pending (R431). After a fatal error only the functions of stage S1
run, and none is written (R433). -/
def machineCheck (s : State) (r : McRecord) : State :=
  if s.board.fatal then s else
  let head := ofLe (Memory.readN s.mem ringControl 8)
  let tail := ofLe (Memory.readN s.mem (ringControl + 8) 8)
  let lost := ofLe (Memory.readN s.mem (ringControl + 16) 8)
  let s := s.modBoard (fun b => { b with mcheck := true })
  if (tail + 2 ^ 64 - head) % 2 ^ 64 = 4096 then homePoke s (ringControl + 16) none (leBytes 8 (lost + 1))
  else
    let s := homePoke s (ringBase + 64 * (tail % 4096)) none (r.bytes s.cycle)
    homePoke s (ringControl + 8) none (leBytes 8 (tail + 1))

/-- One count's record (SOURCE 10), when it has crossed a multiple of 1,024 and the ring's memory is open (R434, R442). -/
def countRecord (s : State) (k : Nat) : State :=
  let n := KV.get 0 s.board.counts k
  if s.board.stage == .s2 && decide (KV.get 0 s.board.crossed k < n / 1024) then
    machineCheck (s.modBoard (fun b => { b with crossed := KV.set b.crossed k (n / 1024) }))
      { source := 10, sev := 0, die := if k < 64 then k / 16 else 0, part := 0xFF, count := n }
  else s

/-- A count raised by one (R442). -/
def countUp (k : Nat) (s : State) : State := countRecord (s.modBoard (fun b => { b with counts := KV.modify 0 b.counts k (· + 1) })) k

/-- A corrected error of a die and a SOURCE is counted (R429, R442). -/
def countError (die source : Nat) (s : State) : State := countUp (die * 16 + source) s

/-- The two counters of a port: of arrivals that it lands in no case (R420), and of packets that it drops for their entry (R421). DESIGN CHOICE (log 118). -/
def portCounter (port kind : Nat) : Nat := 64 + 2 * port + kind

/-- SOURCE of a poisoned location's record (R432): a tile, the scratchpad, or the structure in which the line was poisoned: HBM 0, an L2 1, an L1 3. -/
def poisonSource (s : State) (loc : Nat) : Nat :=
  if tileBase ≤ loc then 4 else if isSpad loc then 2 else KV.get 0 s.poisonFrom (loc / 64)

/-- UNIT of a poisoned location's record (R432): the stack of HBM, the slice of an L2, else the number within its die of the core that met it. -/
def poisonUnit (s : State) (loc pslot : Nat) : Nat :=
  match poisonSource s loc with
  | 0 => loc / 2 ^ 37 % 2
  | 1 => homeSlice loc
  | 4 => tileCore loc / 16 % 2 ^ 9
  | _ => pslot / 16 % 2 ^ 9

/-- Whether a location is a tile word that ends the launch that consumes it with DATA-INTEGRITY (R429). -/
def tileIntegrity (s : State) (loc : Nat) : Bool := decide (tileBase ≤ loc) && KV.find? (s.core (tileCore loc)).mx.errs (tileWord loc) == some false

/-- A consumption of poisoned data: the first of a line writes a record (R430, R432); a tile error that ends a launch with DATA-INTEGRITY always writes one (R432). -/
def consumePoison (s : State) (loc : Nat) (die part launch pslot : Nat) : State :=
  let line := loc / 64
  if s.poisonSeen.contains line && !tileIntegrity s loc then s
  else machineCheck { s with poisonSeen := line :: s.poisonSeen, freeCount := s.freeCount + 1 }
    { source := poisonSource s loc, sev := 2, die := if isHbm loc && poisonSource s loc != 3 then homeDie loc else die, part := part, launch := launch, pslot := pslot
      pa := if tileBase ≤ loc then 0 else if isSpad loc then loc % 2 ^ 20 / 16 * 16 else line * 64 % 2 ^ 40
      unit := poisonUnit s loc pslot, synd := (Config.syndrome s.freeCount).toNat }

/-- Poison of a line that a scrub or a write-back finds, when no record has named it yet: a record with SEV 1 (R432). -/
def foundPoison (pa : Nat) (s : State) : State :=
  let line := pa / 64
  if (poisonIn s (line * 64) 64).isSome && !s.poisonSeen.contains line then
    machineCheck { s with poisonSeen := line :: s.poisonSeen, freeCount := s.freeCount + 1 }
      { source := poisonSource s pa, sev := 1, die := homeDie pa, part := 0xFF, pa := line * 64, unit := poisonUnit s pa 0, synd := (Config.syndrome s.freeCount).toNat }
  else s

/-- The partition whose PRANGE holds a physical address (R405); none when no enabled partition does. -/
def rangeHas (e : Part) (pa : Nat) : Bool :=
  e.prange.any (fun r =>
    let base := r.2.toNat % 2 ^ 10
    let size := r.2.toNat / 2 ^ 16 % 2 ^ 10
    decide (base * 2 ^ 30 ≤ pa) && decide (pa < (base + size) * 2 ^ 30))

def partOfPa (s : State) (pa : Nat) : Option Nat := (List.find? (fun (e : Nat × Part) => e.2.en && rangeHas e.2 pa) s.parts).map Prod.fst

end Sys2Proof.Machine
end

