-- ==== Sys2Proof/Machine/Coherence.lean ====
section
/-! DEFINITION. The L2 slices and the cross-die directory (R401, R403 to R407). The model's memory holds one value of every byte, so that a request
moves no data: what it changes is which die holds which line in which state. -/

namespace Sys2Proof.Machine

/-! ### Entries and copies (R403) -/

/-- The key of the region entry of a line's slice. -/
def dirKey (pa : Nat) : Nat := pa / 4096 * 32 + homeSlice pa

/-- Line entries a home slice holds. -/
def lineEntries : Nat := 8192

/-- The partition tag of a line's copies (R405); 16 where no partition's range holds it. -/
def lineTag (s : State) (pa : Nat) : Nat := (partOfPa s pa).getD 16

/-- A die's copy of a line homed elsewhere: its state, when the copy's tag is the line's partition. A probe sees no other copy (R405). -/
def probeAnswer (s : State) (die pa : Nat) : Option Moesi :=
  match KV.find? (s.die die).l2 (pa / 64) with
  | some (part, c) => if part == lineTag s pa then some c else none
  | none => none

/-- A die's copy of a line set or dropped, whatever it held for the line before. -/
def setCopy (die pa : Nat) (c : Option Moesi) (s : State) : State :=
  let tag := lineTag s pa
  s.modDie die (fun d => match c with
    | some x => { d with l2 := KV.set d.l2 (pa / 64) (tag, x) }
    | none => { d with l2 := KV.erase d.l2 (pa / 64), hints := KV.erase d.hints (pa / 64) })

/-- The lines of a region that lie on one slice. -/
def regionLines (pa : Nat) : List Nat :=
  ((List.range 64).map (fun k => pa / 4096 * 4096 + 64 * k)).filter (fun x => homeSlice x == homeSlice pa)

/-- The other dies. -/
def otherDies (home : Nat) : List Nat := (List.range 4).filter (· != home)

/-- Whether a die holds any line of a region's slice for the line's partition. -/
def holdsRegion (s : State) (die pa : Nat) : Bool := (regionLines pa).any (fun x => (probeAnswer s die x).isSome)

/-- A die gives up its copy of a line. Modified data is written back, to the home or, from the home's own L2, to HBM, and poison that no record has named is recorded
(R432). -/
def giveUp (die pa : Nat) (s : State) : State :=
  let own := probeAnswer s die pa
  let s := setCopy die pa none s
  if own == some .m || own == some .o then foundPoison pa s else s

/-- A line recalled from the listed dies: each gives up the copy it has for the line's partition, and no other (R405). -/
def recallFrom (dies : List Nat) (pa : Nat) (s : State) : State :=
  dies.foldl (fun s d => if (probeAnswer s d pa).isSome then giveUp d pa s else s) s

/-- A line recalled from every other die than its home. -/
def recallLine (home pa : Nat) (s : State) : State := recallFrom (otherDies home) pa s

/-- The region entry of a line. -/
def dirEntry (s : State) (pa : Nat) : DirEntry := KV.get {} (s.die (homeDie pa)).dir (dirKey pa)
def setDir (pa : Nat) (e : DirEntry) (s : State) : State :=
  s.modDie (homeDie pa) (fun d => { d with dir := if e == {} then KV.erase d.dir (dirKey pa) else KV.set d.dir (dirKey pa) e })

/-- The line entries of a region's slice, as the copies stand. -/
def lineStates (s : State) (pa : Nat) : KV (KV Moesi) :=
  (regionLines pa).filterMap (fun x =>
    let hs := (otherDies (homeDie pa)).filterMap (fun d => (probeAnswer s d x).map (fun c => (d, c)))
    if hs.isEmpty then none else some (x / 64, hs))

/-- Line entries a home slice uses. -/
def linesUsed (s : State) (pa : Nat) : Nat :=
  (s.die (homeDie pa)).dir.foldl (fun n (e : Nat × DirEntry) => if e.1 % 32 == homeSlice pa then n + e.2.lines.length else n) 0

/-- The SPLIT region of a slice whose line entries were allocated longest ago. -/
def oldestSplit (s : State) (pa : Nat) : Option Nat :=
  (s.die (homeDie pa)).dir.foldl (fun best (e : Nat × DirEntry) =>
    if e.2.st != .split || e.1 % 32 != homeSlice pa then best
    else match best with
      | some b => if e.2.born < (KV.get {} (s.die (homeDie pa)).dir b).born then some e.1 else best
      | none => some e.1) none

/-- The lines of a region entry. -/
def keyLines (key : Nat) : List Nat :=
  (List.range 64).map (fun k => (key / 32 * 4096 + 64 * k)) |>.filter (fun x => homeSlice x == key % 32)

/-- A collapse: every copy of the region's lines is recalled, and the region becomes UNCACHED (R403). -/
def collapse (home key : Nat) (s : State) : State :=
  let s := (keyLines key).foldl (fun s x => recallLine home x s) s
  s.modDie home (fun d => { d with dir := KV.erase d.dir key })

/-- Room made for `need` new line entries of a region, by at most `n` collapses, until it is there or the region itself has collapsed. -/
def makeRoom (pa need : Nat) : Nat → State → State
  | 0, s => s
  | n + 1, s =>
    if linesUsed s pa + need ≤ lineEntries then s
    else match oldestSplit s pa with
      | some k => if k = dirKey pa then collapse (homeDie pa) k s else makeRoom pa need n (collapse (homeDie pa) k s)
      | none => s

/-- A region entry made to agree with the copies as they stand, in a state. A SPLIT region has line entries from the cycle it was split; where no entry is
free and it was split longest ago, it collapses itself, and is UNCACHED. -/
def dirSettle (pa : Nat) (st : DirState) (s : State) : State :=
  let e := dirEntry s pa
  let holders := (otherDies (homeDie pa)).filter (fun d => holdsRegion s d pa)
  match st with
  | .split =>
    let ls := lineStates s pa
    let s := makeRoom pa (ls.length - e.lines.length) (s.die (homeDie pa)).dir.length s
    if e.st == .split && (dirEntry s pa).st != .split then s else
    setDir pa { present := holders, st := .split, born := if e.st == .split then e.born else s.cycle, lines := ls } s
  | .uncached => setDir pa {} s
  | .owned o => setDir pa { present := [o], st := .owned o } s
  | .shared => setDir pa { present := (otherDies (homeDie pa)).filter (fun d => holders.contains d || e.present.contains d), st := .shared } s

/-- An uncorrectable error in a directory entry (R406): the copies of the line, or of every line of the region, are recalled from all four dies, the entry is rebuilt,
and the event is counted as corrected at the home die under SOURCE 1. -/
def rebuildEntry (pa : Nat) (line : Bool) (s : State) : State :=
  let home := homeDie pa
  let s := countError home 1 s
  if line && (dirEntry s pa).st == .split then
    dirSettle pa .split (recallFrom (List.range 4) pa s)
  else collapse home (dirKey pa) ((keyLines (dirKey pa)).foldl (fun s x => recallFrom (List.range 4) x s) s)

/-! ### Requests (R404) -/

/-- The state a die's copy falls to when another die reads the line. -/
def Moesi.shared : Moesi → Moesi | .m => .o | .e => .s | x => x

/-- Every other die's copy of the line answers a read. -/
def shareOthers (d pa : Nat) (s : State) : State :=
  ((otherDies (homeDie pa)).filter (· != d)).foldl (fun s o =>
    match probeAnswer s o pa with | some c => setCopy o pa (some c.shared) s | none => s) s

/-- Every other die's copy of the line is invalidated, and the line of the home's own L2. -/
def dropOthers (d pa : Nat) (s : State) : State :=
  ((List.range 4).filter (· != d)).foldl (fun s o => if (probeAnswer s o pa).isSome then setCopy o pa none s else s) s

/-- A request can reach the directory: from a die of the device, for a populated line. -/
def dirAsks (s : State) (d pa : Nat) : Bool := decide (d < 4) && populated s pa

/-- A die's copy is written back and kept: it is no longer modified, and poison that no record has named is recorded (R356, R432). -/
def cleanCopy (pa die : Nat) (s : State) : State :=
  let keep := fun (c : Moesi) =>
    let s := foundPoison pa (setCopy die pa (some c) s)
    if (dirEntry s pa).st == .split then dirSettle pa .split s else s
  match probeAnswer s die pa with
  | some .m => keep .e
  | some .o => keep .s
  | _ => s

/-- Lines a die's L2 holds: 64 MiB (R5). -/
def l2Lines : Nat := 2 ^ 20

/-- A line leaves a die's L2: modified data goes back to the home, where an OWNED region keeps the die's presence and a line entry drops it (R404). -/
def evict (die pa : Nat) (s : State) : State :=
  let own := probeAnswer s die pa
  let e := dirEntry s pa
  let s' := giveUp die pa s
  if own != some .m && own != some .o then s' else
  match e.st with
  | .owned o => setDir pa { e with st := .owned o } s'
  | .split => dirSettle pa .split s'
  | _ => s'

/-- The line that leaves a full L2: the first whose last access was `.lu`, else the first not kept by `.kp`, else the first of all (R68). Which of several it is,
is the model's choice. DESIGN CHOICE (log 109). -/
def Die.victim (d : Die) : Option Nat :=
  let hint := fun (e : Nat × (Nat × Moesi)) => KV.get 0 d.hints e.1
  match List.find? (fun e => hint e == 3) d.l2 with
  | some e => some e.1
  | none => match List.find? (fun e => hint e != 2) d.l2 with
    | some e => some e.1
    | none => d.l2.head?.map Prod.fst

/-- Room for one more line in a full L2. -/
def l2Room (d pa : Nat) (s : State) : State :=
  if (s.die d).l2.length < l2Lines || (KV.find? (s.die d).l2 (pa / 64)).isSome then s
  else match (s.die d).victim with
    | some k => evict d (k * 64) s
    | none => s

/-- A die's own copy. A line of its own home, which the directory does not track, is in its L2 or not: state S stands for one that is as HBM has it, O for one that has
been written (R401). -/
def keepCopy (d pa : Nat) (c : Moesi) (s : State) : State :=
  let mine := if c == .m || (c == .s && probeAnswer s d pa == some .o) then Moesi.o else .s
  setCopy d pa (some (if d == homeDie pa then mine else c)) (l2Room d pa s)

/-- The request of a die whose SPLIT region has just collapsed is served as one to an UNCACHED region (R403). -/
def collapsed (die pa : Nat) (c : Moesi) (s : State) : State :=
  if (dirEntry s pa).st == .split then s
  else if die == homeDie pa then keepCopy die pa c s else dirSettle pa (.owned die) (keepCopy die pa c s)

/-- Whether another die than the home may hold lines of the region that it has changed (R403). -/
def DirState.elsewhere : DirState → Bool | .owned _ | .split => true | _ => false

/-- A read of a line by a die: served by its own copy, or by a request to the home (R401, R404). The home's own copy serves it where no other die can have changed it. -/
def dirRead (die pa : Nat) (s : State) : State :=
  if (probeAnswer s die pa).isSome && (die != homeDie pa || !(dirEntry s pa).st.elsewhere) then s
  else
    let e := dirEntry s pa
    match e.st with
    | .uncached => if die == homeDie pa then keepCopy die pa .s s else dirSettle pa (.owned die) (keepCopy die pa .e s)
    | .shared => if die == homeDie pa then keepCopy die pa .s s else dirSettle pa .shared (keepCopy die pa .s s)
    | .owned o =>
      if o == die then dirSettle pa (.owned die) (keepCopy die pa .e s)
      else collapsed die pa .e (dirSettle pa .split (keepCopy die pa .s (shareOthers die pa s)))
    | .split => collapsed die pa .e (dirSettle pa .split (keepCopy die pa .s (shareOthers die pa s)))

/-- A write or atomic to a line by a die: done in its own copy where that is exclusive, which it makes modified; else by a request to the home, which
invalidates every other copy (R404). -/
def dirWrite (die pa : Nat) (s : State) : State :=
  let own := probeAnswer s die pa
  if own == some .m then s
  else if own == some .e then
    let s := setCopy die pa (some .m) s
    if (dirEntry s pa).st == .split then dirSettle pa .split s else s
  else
    let e := dirEntry s pa
    let s' := keepCopy die pa .m (dropOthers die pa s)
    let alone := if die == homeDie pa then DirState.uncached else .owned die
    let others := ((otherDies (homeDie pa)).filter (· != die)).any (fun o => holdsRegion s' o pa)
    match e.st with
    | .uncached => if die == homeDie pa then s' else dirSettle pa (.owned die) s'
    | .shared => if others then collapsed die pa .m (dirSettle pa .split s') else dirSettle pa alone s'
    | .owned o => if o == die then dirSettle pa (.owned die) s' else collapsed die pa .m (dirSettle pa .split s')
    | .split => collapsed die pa .m (dirSettle pa .split s')

/-- A line obtained with write ownership and not written (R189): a copy without modified data is exclusive. -/
def dirOwn (die pa : Nat) (s : State) : State :=
  if !isHbm pa then s else
  match probeAnswer s die pa with
  | some .m | some .e => s
  | some .o => dirWrite die pa s
  | _ =>
    let s := dirWrite die pa s
    if die == homeDie pa then setCopy die pa (some .s) s
    else
      let s := setCopy die pa (some .e) s
      if (dirEntry s pa).st == .split then dirSettle pa .split s else s

/-- An access of a die to a place: one to HBM of this device asks its L2 and the home's directory. -/
def dirRequest (die : Nat) (write : Bool) (loc : Nat) (s : State) : State :=
  if !isHbm loc then s else if write then dirWrite die loc s else dirRead die loc s

/-- What the HINT of an access leaves of the line in a die's L2 (R68): `.kp` (2) keeps it ahead of lines without, `.lu` (3) makes it the first to leave. -/
def hintLine (die hint loc : Nat) (s : State) : State :=
  let h := if hint = 2 ∨ hint = 3 then hint else 0
  if !isHbm loc || KV.get 0 (s.die die).hints (loc / 64) == h || (KV.find? (s.die die).l2 (loc / 64)).isNone then s
  else s.modDie die (fun d => { d with hints := if h = 0 then KV.erase d.hints (loc / 64) else KV.set d.hints (loc / 64) h })

end Sys2Proof.Machine
end

