-- ==== Sys2Proof/Machine/Regions.lean ====
section
/-! DEFINITION. Trapeze regions at the homes (R274 to R286): places, versions, reader entries, forwarding, aborts and their cascade, the
commit point, and outside writes. -/

namespace Sys2Proof.Machine

/-- Domain of a partition's ordinary regions; cell tables use numbers from 16 up (R275). -/
def tableDomain (t : Nat) : Nat := 16 + t

/-- A region that holds its place (R276). -/
def RSlot.live (r : RSlot) : Bool := r.st != .free

/-- Places are compared by KEY, then by TIE (R275). -/
def placeLt (a b : Nat × Nat) : Bool := decide (a.1 < b.1) || (decide (a.1 = b.1) && decide (a.2 < b.2))
def RSlot.place (r : RSlot) : Nat × Nat := (r.key, r.tie)

/-- The live region slots, with their numbers. -/
def liveRegions (s : State) : List (Nat × RSlot) := s.rslots.filter (fun e => e.2.live)
/-- The live regions of a domain. -/
def domainRegions (s : State) (d : Nat) : List (Nat × RSlot) := (liveRegions s).filter (fun e => e.2.domain == d)
/-- Whether no live region of the domain has an earlier place. -/
def isEarliest (s : State) (r : RSlot) : Bool := (domainRegions s r.domain).all (fun e => !placeLt e.2.place r.place)

/-- RSW (R285) of a slot's current region. -/
def rswOf (rs : Nat) (r : RSlot) : Word :=
  let st := match r.st with | .free => 0 | .open_ => 1 | .ending => 2 | .restart => 3
  BitVec.ofNat 64 (r.cause * 2 ^ 56 + r.restarts % 2 ^ 8 * 2 ^ 48 + r.depth % 2 ^ 4 * 2 ^ 44 + st * 2 ^ 42 + r.gen % 2 ^ 32 * 2 ^ 10 + rs)

/-- RSW of a closed region (R292): STATE NONE, its final cause, its restart count. -/
def rswClosed (rs gen cause restarts : Nat) : Word :=
  BitVec.ofNat 64 (cause * 2 ^ 56 + restarts * 2 ^ 48 + gen % 2 ^ 32 * 2 ^ 10 + rs)

/-- DEPTH recomputed from the remaining predecessors (R281). DEPTH is at most 8 (R274), where a chain of remaining predecessors is longer. DEDUCED (log 116). -/
def depthOf (s : State) (pred : List Nat) : Nat :=
  min 8 (pred.foldl (fun d p => if d < (s.rslot p).depth + 1 then (s.rslot p).depth + 1 else d) 0)

/-- A region's versions, entries and marks discarded (R282, step 1). -/
def dropRegionData (s : State) (rs : Nat) : State :=
  { s with
    versions := s.versions.filter (fun v => v.rslot != rs)
    readers := s.readers.filter (fun r => r.rslot != rs) }

/-- A region that has ended no longer keeps lines FILTERED (R279). -/
def unfilter (s : State) (rs : Nat) : State :=
  { s with filtered := (s.filtered.map (fun f => (f.1, f.2.filter (· != rs)))).filter (fun f => !f.2.isEmpty) }

/-- What an `rwait` for a region that closes with a final cause has found (R293). -/
def Slot.sawClose (rs gen cause : Nat) (t : Slot) : Slot :=
  if t.wait == .region rs gen then { t with wait := .regionDone (if cause = 0 then 0 else 1) } else t

/-- The slot of a region that closes with a final cause becomes FREE (R276). -/
def closeSlot (s : State) (rs cause : Nat) : State :=
  let gen := (s.rslot rs).gen
  let s := { s with slots := s.slots.map (fun (e : Nat × Slot) => (e.1, e.2.sawClose rs gen cause)) }
  unfilter (s.modRslot rs (fun r => { r with st := .free, pred := [], depth := 0, filter := 0, cause := cause,
                                             closed := some (r.gen, cause, r.restarts), closedPart := r.part })) rs

/-- Whether an abort cause restarts the region (R286). -/
def causeRestarts (c : Nat) : Bool := decide (1 ≤ c) && decide (c ≤ 5)

/-- Abort of one region without its dependants (R282). A region already in RESTART keeps its first cause. -/
def abortOne (s : State) (rs cause : Nat) : State :=
  let r := s.rslot rs
  if !r.live || (r.st == .restart && causeRestarts cause) then s
  else
    let s := dropRegionData s rs
    if causeRestarts cause then
      s.modRslot rs (fun r => { r with st := .restart, pred := [], depth := 0, filter := 0, cause := cause })
    else closeSlot s rs cause

/-- Whether a launch is ending or has ended. -/
def launchEnding (s : State) (l : Nat) : Bool :=
  match (s.launch l).st with | .ending | .ended => true | _ => false

/-- The cascade of R282: the listed regions abort with their causes, then every live region that holds a value of one of them. A round aborts
no region twice, since an aborted one has no predecessors, so one round for each region slot suffices. -/
def abortAll : Nat → List (Nat × Nat) → State → State
  | 0, _, s => s
  | _ + 1, [], s => s
  | n + 1, xs, s =>
    let s1 := xs.foldl (fun s x => abortOne s x.1 x.2) s
    let hit := xs.map Prod.fst
    let next := (liveRegions s1).filter (fun e => e.2.pred.any (fun p => hit.contains p))
    abortAll n (next.map (fun e => (e.1, if launchEnding s1 e.2.launch then 8 else 2))) s1

/-- Abort of regions with their cascade. -/
def abortRegions (xs : List (Nat × Nat)) (s : State) : State := if xs.isEmpty then s else abortAll (s.rslots.length + 2) xs s

/-! ### Reads (R277) -/

/-- The version of a granule that a region holds. -/
def ownVersion (s : State) (rs gran : Nat) : Option Version := s.versions.find? (fun v => v.rslot == rs && v.gran == gran)

/-- The version of the live region of the domain whose place is the latest before the reader's. -/
def forwardFrom (s : State) (rs gran : Nat) : Option Version :=
  let me := s.rslot rs
  s.versions.foldl (fun best v =>
    let w := s.rslot v.rslot
    if v.gran == gran && v.rslot != rs && w.live && w.st != .restart && w.domain == me.domain && placeLt w.place me.place then
      match best with
      | some b => if placeLt (s.rslot b.rslot).place w.place then some v else some b
      | none => some v
    else best) none

/-- The bit of FILTER that stands for a line (R274). The hash is the device's own: a free value (log 14). -/
def filterMask (line : Nat) : BitVec 1024 := 1#1024 <<< (Config.filterHash line).toNat
/-- Whether a FILTER set hits a line. -/
def filterHits (f : BitVec 1024) (line : Nat) : Bool := f &&& filterMask line != 0

/-- A reader entry recorded, or the line marked FILTERED when its four entries are taken (R279). -/
def recordReader (s : State) (rs gran : Nat) (src : Option Nat) : State :=
  let e : Reader := { rslot := rs, gran := gran, source := src }
  if s.readers.contains e then s
  else if (s.readers.filter (fun r => r.gran / 4 == gran / 4)).length < 4 then { s with readers := s.readers ++ [e] }
  else
    let line := gran / 4
    let s := s.modRslot rs (fun r => { r with filter := r.filter ||| filterMask line })
    { s with filtered := (line, (liveRegions s).map Prod.fst) :: s.filtered.filter (fun f => f.1 != line) }

/-- A region's read of a granule: none when it must wait for a region of DEPTH 8 (R281); otherwise the version's bytes, or none for the
committed value. -/
def regionRead (s : State) (rs gran : Nat) : Option (State × Option (List Byte)) :=
  match ownVersion s rs gran with
  | some v => some (s, some v.bytes)
  | none =>
    match forwardFrom s rs gran with
    | none => some (recordReader s rs gran none, none)
    | some v =>
      let w := s.rslot v.rslot
      if 8 ≤ w.depth then none
      else
        let s := recordReader s rs gran (some v.rslot)
        some (s.modRslot rs (fun r => { r with pred := if r.pred.contains v.rslot then r.pred else v.rslot :: r.pred
                                               depth := if r.depth < w.depth + 1 then w.depth + 1 else r.depth }), some v.bytes)

/-! ### Writes (R278, R279) -/

/-- Whether a new version fits: the line has a version entry of this region or fewer than four, or the escape store has room and the
writer is the earliest of its domain. Gives whether it goes to the escape store; none when the writer stalls. -/
def versionRoom (s : State) (rs gran : Nat) : Option Bool :=
  let holders := (s.versions.filter (fun v => v.gran / 4 == gran / 4 && !v.escape)).map (fun v => v.rslot)
  if holders.contains rs || decide (holders.eraseDups.length < 4) then some false
  else
    let slice := fun (g : Nat) => (homeDie (g * 16), homeSlice (g * 16))
    if isEarliest s (s.rslot rs) &&
        decide ((s.versions.filter (fun v => v.escape && slice v.gran == slice gran)).length < 32) then some true
    else none

/-- The regions that a write by `rs` to a granule aborts with CYCLE (R278), and with FILTER (R279). -/
def cycleVictims (s : State) (rs gran : Nat) : List (Nat × Nat) :=
  let w := s.rslot rs
  let later := fun (x : Nat) => let r := s.rslot x; r.live && r.domain == w.domain && x != rs && placeLt w.place r.place
  let cyc := (s.readers.filter (fun r => r.gran == gran && later r.rslot &&
    (match r.source with
     | none => true
     | some src => src == rs || placeLt (s.rslot src).place w.place))).map (fun r => (r.rslot, 1))
  let fil := if s.filtered.any (fun f => f.1 == gran / 4) then
      ((liveRegions s).filter (fun e => later e.1 && filterHits e.2.filter (gran / 4))).map (fun e => (e.1, 5))
    else []
  cyc ++ fil

/-- A region's write of bytes at an offset of a granule, whose value as the region sees it is `base`: none when it stalls (R279). -/
def regionWrite (s : State) (rs gran : Nat) (base : List Byte) (key : Option Nat) (off : Nat) (b : List Byte) : Option State :=
  match ownVersion s rs gran with
  | some v =>
    let s := { s with versions := s.versions.map (fun x =>
      if x.rslot == rs && x.gran == gran then { x with bytes := patch v.bytes off b } else x) }
    some (abortRegions (cycleVictims s rs gran) s)
  | none =>
    match versionRoom s rs gran with
    | none => none
    | some esc =>
      let s := { s with versions := s.versions ++ [{ rslot := rs, gran := gran, bytes := patch base off b, key := key, escape := esc }] }
      some (abortRegions (cycleVictims s rs gran) s)

/-! ### Outside writes and the commit point (R280, R283) -/

/-- The regions that an outside write to a granule aborts; `commit` is the committing region's domain when it is a commit point. -/
def outsideVictims (s : State) (gran : Nat) (commit : Option Nat) : List (Nat × Nat) :=
  let other := fun (x : Nat) => let r := s.rslot x; r.live && (match commit with | none => true | some d => r.domain != d)
  let ext := (s.readers.filter (fun r => r.gran == gran && other r.rslot && (r.source == none || commit.isSome))).map (fun r => (r.rslot, 4))
  let fil := if s.filtered.any (fun f => f.1 == gran / 4) then
      ((liveRegions s).filter (fun e => other e.1 && filterHits e.2.filter (gran / 4))).map (fun e => (e.1, 5))
    else []
  ext ++ fil

/-- The effect on regions of an outside write of `n` bytes at a location. -/
def outsideWrite (s : State) (loc n : Nat) : State :=
  if s.rslots.isEmpty then s
  else (granules loc n).foldl (fun s g => abortRegions (outsideVictims s g none) s) s

/-- The slots of the act that has a region. -/
def regionSlot (s : State) (rs : Nat) : Option Nat := (List.find? (fun (e : Nat × Slot) => e.2.region == some rs) s.slots).map Prod.fst

/-- Whether a region is at its commit point (R283); the writes of a commit wait for the holds of other slots (R179). -/
def commitReady (s : State) (rs : Nat) : Bool :=
  let r := s.rslot rs
  r.st == .ending && isEarliest s r && r.pred.isEmpty &&
  s.versions.all (fun v => v.rslot != rs || !heldByOther s (regionSlot s rs) (v.gran * 16))

/-- DEPTH of the listed regions recomputed once from their predecessors (R281). -/
def recomputeDepths (hit : List Nat) (s : State) : State :=
  { s with rslots := s.rslots.map (fun e => (e.1, if hit.contains e.1 then { e.2 with depth := depthOf s e.2.pred } else e.2)) }

/-- A region's bit cleared from every PRED vector, and DEPTH of the regions that had it recomputed (R281): in as many rounds as there are of them,
so that each uses what its predecessors have now. -/
def clearPred (rs : Nat) (s : State) : State :=
  let hit := (s.rslots.filter (fun e => e.2.pred.contains rs)).map Prod.fst
  hit.foldl (fun s _ => recomputeDepths hit s) { s with rslots := s.rslots.map (fun e => (e.1, { e.2 with pred := e.2.pred.filter (· != rs) })) }

/-- The commit point, whose writes `commitTails` reports to the ports (R422): every version becomes the committed value at once,
regions of other domains that read one abort, entries that took this region's values now have the committed source, the slot closes, and the domain's FRONTIER moves
(R283, R284). -/
def regionCommitNow (s : State) (rs : Nat) : State :=
  let r := s.rslot rs
  let vs := s.versions.filter (fun v => v.rslot == rs)
  let s := match regionSlot s rs with
    | some p => vs.foldl (fun s v => dirRequest (dieOf p) true (v.gran * 16) (dropLine (coreOf p) (v.gran * 16) s)) s
    | none => vs.foldl (fun s v => dirRequest (homeDie (v.gran * 16)) true (v.gran * 16) s) s
  let s := vs.foldl (fun s v => clearPoison (homePoke s (v.gran * 16) v.key v.bytes) (v.gran * 16) 16) s
  let s := { s with
    versions := s.versions.filter (fun v => v.rslot != rs)
    readers := (s.readers.filter (fun x => x.rslot != rs)).map (fun x => if x.source == some rs then { x with source := none } else x) }
  let s := vs.foldl (fun s v => abortRegions (outsideVictims s v.gran (some r.domain)) s) s
  { clearPred rs (closeSlot s rs 0) with frontier := KV.set s.frontier r.domain r.place }

end Sys2Proof.Machine
end

