-- ==== Sys2Proof/Machine/Ops.lean ====
section
/-! DEFINITION. Shared operations: faults and the ending of a launch (R26), traps and the return from one (R339, R356), the registers of a
slot (R120, R123), its channels (R127 to R129), and the issue of one instruction (R16 to R18, R65, R80, R81). -/

namespace Sys2Proof.Machine

/-! ### Fault causes (R376) -/

namespace Cause
def illegalInstruction : Nat := 0x01
def illegalOperand : Nat := 0x02
def fetchBoundary : Nat := 0x03
def pcAlign : Nat := 0x04
def privilege : Nat := 0x05
def feature : Nat := 0x06
def stack : Nat := 0x08
def trap : Nat := 0x09
def watchdog : Nat := 0x0A
def openRegion : Nat := 0x0B
def regionOp : Nat := 0x0C
def scope : Nat := 0x0D
def channel : Nat := 0x10
def tag : Nat := 0x11
def route : Nat := 0x12
def stream : Nat := 0x13
def msg : Nat := 0x14
def denied : Nat := 0x15
def draw : Nat := 0x16
def misalign : Nat := 0x20
def space : Nat := 0x28
def translation : Nat := 0x30
def protection : Nat := 0x38
def cellpage : Nat := 0x40
def poison : Nat := 0x48
def hold : Nat := 0x50
def barrier : Nat := 0x51
def copy : Nat := 0x52
def cbar : Nat := 0x53
def cell : Nat := 0x58
def cellstore : Nat := 0x59
def cellrange : Nat := 0x5A
def cellview : Nat := 0x5B
def viewTimeout : Nat := 0x5C
def matrixOp : Nat := 0x60
def dataIntegrity : Nat := 0x61
def engineCmd : Nat := 0x62
def badcmd : Nat := 0x70
def depfail : Nat := 0x71
def partition : Nat := 0x72
def service : Nat := 0x73
def scall : Nat := 0xF0
def mcall : Nat := 0xF1
/-- The six access causes, which add the kind of access in bits [2:0] (R377). -/
def isAccess (c : Nat) : Bool := decide (0x20 ≤ c) && decide (c < 0x50)
end Cause

/-- The kinds of access of R377. -/
inductive AKind where
  | fetch | load | store | atomic | engine
  deriving DecidableEq, Repr

def AKind.code : AKind → Nat | .fetch => 0 | .load => 1 | .store => 2 | .atomic => 3 | .engine => 4

/-! ### Actions: an instruction either changes the state, faults, or is not ready -/

/-- Why an instruction does not complete: a fault (its cause, its DETAIL, and the location of poisoned data it met), or a blocking condition
of R16, with the state that its issue left when that differs (a request posted), a fabric access that gets no answer (R412), or a read inside a
region that waits for an earlier region to leave (R281). -/
inductive Stop where
  | fault (cause : Nat) (detail : Word) (poison : Option Nat)
  | wait (s : Option State)
  | silent (aperture kind va : Nat)
  | behind (rslot gen : Nat)

/-- What an instruction does: a change of the state with a result, or a stop. A stop discards the changes (R26, R72). -/
abbrev Act := StateT State (Except Stop)

namespace Act
def fault {α : Type} (cause : Nat) (detail : Word := 0) : Act α := fun _ => .error (.fault cause detail none)
def accessFault {α : Type} (cause : Nat) (k : AKind) (va : Nat) : Act α := fun _ => .error (.fault (cause + k.code) (BitVec.ofNat 64 va) none)
def poisonFault {α : Type} (k : AKind) (va loc : Nat) : Act α :=
  fun _ => .error (.fault (Cause.poison + k.code) (BitVec.ofNat 64 va) (some loc))
/-- The instruction is not ready; nothing has changed. -/
def block {α : Type} : Act α := fun _ => .error (.wait none)
/-- The instruction waits, and what it has done so far stands. -/
def blockKeeping {α : Type} : Act α := fun s => .error (.wait (some s))
def require (c : Bool) (cause : Nat) : Act Unit := if c then pure () else fault cause
def ready (c : Bool) : Act Unit := if c then pure () else block
def look {α : Type} (f : State → α) : Act α := fun s => .ok (f s, s)
def upd (f : State → State) : Act Unit := fun s => .ok ((), f s)
def slot (p : Nat) : Act Slot := look (fun s => s.slot p)
def modSlot (p : Nat) (f : Slot → Slot) : Act Unit := upd (fun s => s.modSlot p f)
/-- A new number (log 8). -/
def fresh : Act Nat := fun s => .ok (s.nextId, { s with nextId := s.nextId + 1 })
/-- The device's choice among the next unresolved ones; 0 when none is given. -/
def choose : Act Nat := fun s => match s.choices with
  | [] => .ok (0, s)
  | c :: r => .ok (c, { s with choices := r })
end Act

/-! ### Ending a launch (R26 to R29) -/

/-- A slot of an ending launch stops (R26, step 2): HALTED, its hold released, its view closed, its wait withdrawn. A boundary context
holds no act, and its slot becomes FREE. -/
def Slot.stop (x : Slot) : Slot :=
  if x.boundary then { x with st := .free, boundary := false, launch := none, parkReq := false }
  else { x with st := .halted, halt := .ending, hold := none, view := none, region := none, wait := .none, loads := [], parkReq := false }

/-- Whether a slot holds an act or a boundary context of a launch. -/
def Slot.ofLaunch (l : Nat) (x : Slot) : Bool := x.launch == some l && x.st != .free

def dropEntries (l : Nat) (q : List Entry) : List Entry := q.filter (fun e => e.org.launch != l)
def dropItems (l : Nat) (q : List NetItem) : List NetItem := q.filter (fun i => i.launch != l)

/-- The launch's entries leave every engine, and its messages every queue (R26, steps 3 and 4). -/
def dropWork (l : Nat) (s : State) : State :=
  { s with
    net := dropItems l s.net
    cores := s.cores.map (fun e => (e.1, { e.2 with
      inbox := dropItems l e.2.inbox
      parking := e.2.parking.filter (fun x => x.launch != l)
      copyq := dropEntries l e.2.copyq
      mx := { e.2.mx with queue := dropEntries l e.2.mx.queue }
      jug := { e.2.jug with queue := dropEntries l e.2.jug.queue }
      remote := e.2.remote.filter (fun r => (s.slot r.from_).launch != some l) }))
    clusters := s.clusters.map (fun e => (e.1, { e.2 with
      sdq := dropEntries l e.2.sdq
      draws := e.2.draws.filter (fun d => (s.slot d.pslot).launch != some l) }))
    dies := s.dies.map (fun e => (e.1, { e.2 with
      colls := e.2.colls.filter (fun c => c.launch != l)
      collIn := dropItems l e.2.collIn }))
    ginsts := s.ginsts.map (fun e => (e.1, if e.2.launch == l then { e.2 with copies := [], held := [], heldParked := [], heldMx := [] } else e.2))
    saved := s.saved.filter (fun v => v.launch != l) }

/-- Bytes that acts have staged in cells are discarded, and their stager entries freed (R240). -/
def dropStaging (acts : List Nat) (s : State) : State :=
  { s with tables := s.tables.map (fun (e : Nat × Table) =>
      let mine := (e.2.stagers.filter (fun x => acts.contains x.2.1)).map Prod.fst
      if mine.isEmpty then e
      else (e.1, { e.2 with
        stagers := e.2.stagers.filter (fun x => !mine.contains x.1)
        cells := e.2.cells.map (fun c => match c.hold with
          | .stager k _ => if mine.contains k then { c with hold := .free, staged := false } else c
          | _ => c) })) }

/-- The queued edits of a launch are dropped (R233). -/
def dropEdits (l : Nat) (s : State) : State :=
  { s with tables := s.tables.map (fun (e : Nat × Table) =>
      if !e.2.edits.any (fun d => d.launch == l) then e
      else
        let kept := e.2.edits.filter (fun d => d.launch != l)
        (e.1, { e.2 with edits := kept, cells := e.2.cells.mapIdx (fun i c => { c with editq := kept.any (fun d => d.cell == i) }) })) }

/-- Views of the launch's acts close, and what they staged is discarded (R26, step 5; R240). -/
def dropViews (l : Nat) (s : State) : State :=
  let acts := (s.slots.filter (fun e => e.2.ofLaunch l)).map (fun e => e.2.act) ++
    (s.saved.filter (fun v => v.launch == l)).map (fun v => v.act)
  dropStaging acts { s with tables := s.tables.map (fun e => (e.1, { e.2 with views := e.2.views.filter (fun v => !acts.contains v.act) })) }

/-- Steps 2 to 5 of R26 for a launch whose state is already ENDING, but for the slots that go on a little longer. -/
def stopBut (l : Nat) (late : Nat → Slot → Bool) (s : State) : State :=
  let s := dropEdits l (dropViews l s)
  let regs := (s.rslots.filter (fun e => e.2.live && e.2.launch == l)).map (fun e => (e.1, 8))
  let s := abortRegions regs s
  let s := dropWork l s
  { s with slots := s.slots.map (fun e => (e.1, if e.2.ofLaunch l && !late e.1 e.2 then e.2.stop else e.2)) }

/-- Steps 2 to 5 of R26. -/
def stopLaunch (l : Nat) (s : State) : State := stopBut l (fun _ _ => false) s

/-- A slot whose instruction may still be under way when its launch is being stopped: R26 lets it stop before its next boundary. -/
def Slot.late (x : Slot) : Bool :=
  x.st == .active && !x.boundary && x.region.isNone && x.view.isNone && x.hold.isNone && x.formula.isNone && x.wait == .none

/-- Whether a launch state is terminal (R24). -/
def LState.terminal : LState → Bool
  | .done | .ended | .skipped | .refused => true
  | _ => false

/-- A fault reaches the Ringmaster (R26, R28): the first is recorded and the launch is stopped; a later one is counted. -/
def launchFault (l : Nat) (f : LFault) (s : State) : State :=
  let x := s.launch l
  if x.st.terminal then s
  else if x.fault.isSome then s.modLaunch l (fun x => { x with secondary := if x.secondary < 255 then x.secondary + 1 else 255 })
  else stopLaunch l (s.modLaunch l (fun x => { x with fault := some f, st := .ending }))

/-- A fault of an act, in slot `p`, or of engine work (R26, R28). The faulting act stops at once; the others stop before their next boundary, and
a fault that one of them meets until then is counted. -/
def actFault (p : Option Nat) (l : Nat) (f : LFault) (s : State) : State :=
  let x := s.launch l
  let mine := fun (s : State) => match p with
    | some p => if (s.slot p).ofLaunch l then s.modSlot p Slot.stop else s
    | none => s
  if x.st.terminal then s
  else if x.fault.isSome then mine (s.modLaunch l (fun x => { x with secondary := if x.secondary < 255 then x.secondary + 1 else 255 }))
  else stopBut l (fun q t => some q != p && t.late) (s.modLaunch l (fun x => { x with fault := some f, st := .ending }))

/-! ### Traps on a control core (R339, R340) and the return from one (R356) -/

/-- The target level of a fault at a level (R339). -/
def trapTarget (level cause : Nat) : Nat :=
  if cause = Cause.scall then (if level = 2 then 2 else 1)
  else if cause = Cause.mcall then (if level = 0 then 1 else 2)
  else if cause = Cause.privilege then (if level = 0 then 1 else 2)
  else if Cause.poison ≤ cause ∧ cause < Cause.poison + 8 then 2
  else if cause = Cause.dataIntegrity then 2
  else if level = 2 then 2 else 1

/-- A trap to level T, in one step (R339): XEPC, XCAUSE and XVAL are written, the level and its enable bit saved, and control goes to XVEC. -/
def trapTo (target : Nat) (int : Bool) (code : Nat) (epc val : Word) (x : Slot) : Slot :=
  let c := x.ctl
  let cause : Word := BitVec.ofNat 64 (code % 256 + (if int then 2 ^ 63 else 0))
  let x := { x with wait := .none, reexec := false, safe := false }
  if target = 2 then
    { x with pc := c.mvec.toNat,
             ctl := { c with mepc := epc, mcause := cause, mval := val, mpl := c.level, mie := false, level := 2 } }
  else
    { x with pc := c.svec.toNat,
             ctl := { c with sepc := epc, scause := cause, sval := val, spl := c.level, sie := false, level := 1 } }

/-- XVAL of a fault: the faulting address of an access cause, otherwise 0. -/
def trapValue (cause : Nat) (detail : Word) : Word := if Cause.isAccess cause then detail else 0

/-- Taking an exception (R26 on a compute core, R339 on a control core). `poison` is the location of poisoned data that the fault met. -/
def raiseFault (p cause : Nat) (detail : Word) (poison : Option Nat) (s : State) : State :=
  let x := s.slot p
  let l := x.launch.getD 0
  let s := match poison with
    | some loc => consumePoison s loc (dieOf p) (if isCtl p then x.ctl.pid else (s.launch l).part) (s.launch l).lid p
    | none => s
  if isCtl p then
    s.modSlot p (trapTo (trapTarget x.ctl.level cause) false cause (BitVec.ofNat 64 x.pc) (trapValue cause detail))
  else actFault (some p) l { cause := cause, detail := detail, where_ := p, ginst := (s.ginst x.ginst).num } s

/-- The return from a trap (R356): the target, level and enable bit that `eret` restores at the current level. -/
def eretTarget (c : Ctl) : Nat := if c.level = 2 then c.mepc.toNat else c.sepc.toNat
def eretCtl (c : Ctl) : Ctl :=
  if c.level = 2 then { c with level := c.mpl, mie := true } else { c with level := c.spl, sie := true }

/-! ### Registers of a slot -/

/-- The scalar register xn: x0 reads zero, x1 to x7 belong to the act, x8 to x31 are the window (R120). -/
def Slot.x (t : Slot) (n : Nat) : Word :=
  if n = 0 then 0 else if n < 8 then KV.get 0 t.xg n else KV.get 0 t.win (t.offs + n - 8)

/-- A write of xn; a write to x0 is discarded (R71). -/
def Slot.setX (t : Slot) (n : Nat) (w : Word) : Slot :=
  if n = 0 then t else if n < 8 then { t with xg := KV.set t.xg n w } else { t with win := KV.set t.win (t.offs + n - 8) w }

def Slot.vreg (t : Slot) (n : Nat) : Vec := KV.get 0 t.v n
def Slot.setV (t : Slot) (n : Nat) (w : Vec) : Slot := { t with v := KV.set t.v n w }

/-- The predicate pn: p0 reads true (R71). -/
def Slot.p (t : Slot) (n : Nat) : Bool := n == 0 || t.preds.getLsbD n
/-- A write of pn; a write to p0 is discarded. -/
def Slot.setP (t : Slot) (n : Nat) (b : Bool) : Slot :=
  if n = 0 then t
  else { t with preds := if b then t.preds ||| (1#8 <<< n) else t.preds &&& ~~~(1#8 <<< n) }

def Slot.guard (t : Slot) (g : Guard) : Bool := t.p g.p.val != g.neg
def Slot.guards (t : Slot) (e : Enc) : Bool := t.guard e.ga && t.guard e.gb

/-- The rounding mode of a slot (R50). -/
def Slot.rm (t : Slot) : Rm := Fcs.rm t.fcs

/-- Flags raised by a completing instruction (R52), which also set the sticky bits of the cluster (R53). -/
def raiseFlags (p : Nat) (f : Fl) (s : State) : State :=
  if f = 0 then s
  else
    let s := s.modSlot p (fun t => { t with fcs := Fcs.raise t.fcs f })
    if isCtl p then s else s.modCluster (clusterOf p) (fun c => { c with sticky := c.sticky ||| f })

/-- The snapshot `rbeg` takes (R288), and its restoration on a restart (R289): calls opened inside are discarded. FCS flags that come back
set no STICKY bit. DESIGN CHOICE (log 103). -/
def Slot.snapshot (t : Slot) : Snapshot :=
  { xg := t.xg, win := t.win, offs := t.offs, frame := t.frame, frames := t.frames, preds := t.preds, fcs := t.fcs, pc := t.pc }
def Slot.restore (t : Slot) : Slot :=
  { t with xg := t.snap.xg, win := t.snap.win, offs := t.snap.offs, frame := t.snap.frame, frames := t.snap.frames
           preds := t.snap.preds, fcs := t.snap.fcs, pc := t.snap.pc, wait := .none, reexec := false, safe := false }

/-- WP (R123). -/
def Slot.wp (t : Slot) : Word := BitVec.ofNat 64 (t.frames.length * 2 ^ 16 + t.frame * 2 ^ 8 + t.offs)

/-! ### Preserved program order (R205, R210) -/

def Floor.join (a b : Floor) : Floor :=
  if a == {} then b else if b == {} then a
  else { ids := a.ids ++ b.ids.filter (fun k => !a.ids.contains k), since := if a.since < b.since then b.since else a.since }

/-- A floor once the buffered write `id` has been performed. -/
def Floor.performed (id cycle : Nat) (f : Floor) : Floor :=
  if f.ids.contains id then { ids := f.ids.filter (· != id), since := if f.since < cycle then cycle else f.since } else f

/-- An order once the buffered write `id` has been performed. -/
def Order.performed (id cycle : Nat) (o : Order) : Order :=
  let f := Floor.performed id cycle
  { regs := o.regs.map (fun e => (e.1, f e.2)), seen := o.seen.map (fun x => { x with floor := f x.floor })
    branch := f o.branch, addr := f o.addr, srcs := f o.srcs, met := f o.met }

/-- Cycles after which no lease of an earlier read is left (R402, R412). -/
def leaseCycles : Nat := 32000

/-- An access to `n` bytes that later ones to them are ordered behind as `f` says. What it covers, and what no lease can be older than, is forgotten. -/
def Order.access (loc n cycle : Nat) (f : Floor) (o : Order) : Order :=
  { o with seen := { loc := loc, n := n, floor := f } :: o.seen.filter (fun x =>
      !(decide (loc ≤ x.loc) && decide (x.loc + x.n ≤ loc + n)) && !(x.floor.ids.isEmpty && decide (x.floor.since + leaseCycles ≤ cycle))) }

/-- What an access to `n` bytes is ordered behind through the slot's earlier accesses to them. -/
def Order.behind (loc n : Nat) (o : Order) : Floor :=
  (o.seen.filter (fun x => decide (x.loc < loc + n) && decide (loc < x.loc + x.n))).foldl (fun f x => f.join x.floor) {}

/-- A write of the slot performed now. -/
def Slot.wrote (loc n cycle : Nat) (t : Slot) : Slot := { t with order := t.order.access loc n cycle { since := cycle } }

/-- A read of slot `p` whose address is ordered behind `f`: its value is, and a later access to its bytes; so is its value behind the slot's earlier accesses to them. -/
def hasRead (p loc n : Nat) (f : Floor) (s : State) : State :=
  let g := f.join ((s.slot p).order.behind loc n)
  if g == {} then s
  else s.modSlot p (fun t =>
    let o := { t.order with met := t.order.met.join g }
    { t with order := if f == {} then o else o.access loc n s.cycle g })

/-- Every write that a floor names has been performed. -/
def Slot.past (f : Floor) (t : Slot) : Bool := f.ids.all (fun k => !t.store.any (fun x => x.id == k))

/-! ### Identity (R30 to R33, R125) -/

/-- The virtual numbers of a route word, bits [36:16]; the model's virtual core number. -/
def routeVcore (w : Nat) : Nat := w / 2 ^ 16 % 2 ^ 21
def vcoreCorev (v : Nat) : Nat := v % 8
/-- The virtual core of the same cluster with another COREV. -/
def vcorePeer (v n : Nat) : Nat := v / 8 * 8 + n
/-- The core that holds a virtual core of a group copy. -/
def coreOfV (s : State) (g v : Nat) : Option Nat := KV.find? (s.ginst g).cores v
/-- The numbers of the cores of other devices begin here; the model's number of a virtual core that another device holds. -/
def farBase : Nat := 2 ^ 32
def farCore (fdev v : Nat) : Nat := farBase + fdev * 2 ^ 21 + v
/-- Where a message to a virtual core goes: to a core here, or to one of another device (R125, R413). -/
def destOf (s : State) (g v : Nat) : Option Nat :=
  match coreOfV s g v with
  | some c => some c
  | none => (KV.find? (s.ginst g).far v).map (fun d => farCore d v)
/-- Bits [63:37] of a route word must be zero (R125). -/
def routeReservedOk (w : Nat) : Bool := w / 2 ^ 37 == 0

/-- L1 size of a launch in 32 KiB steps (R364: HDR0 bits [24:22]). -/
def Launch.hdr0 (l : Launch) : Nat := fieldAt l.cmd 0 8
def Launch.hdr2 (l : Launch) : Nat := fieldAt l.cmd 16 8
def Launch.l1 (l : Launch) : Nat := bitsN l.hdr0 24 22
def Launch.rm (l : Launch) : Nat := bitsN l.hdr0 21 20
def Launch.tier (l : Launch) : Nat := bitsN l.hdr0 18 16
def Launch.feat (l : Launch) : Nat := bitsN l.hdr0 39 32
def Launch.nInst (l : Launch) : Nat := bitsN l.hdr0 55 40 + 1
def Launch.prio (l : Launch) : Nat := bitsN l.hdr2 34 32
/-- The loaded object of an identifier in a partition; its number in the state. -/
def objKey (part id : Nat) : Nat := part * 2 ^ 64 + id
def Launch.objKey (l : Launch) : Nat := Machine.objKey l.part (fieldAt l.cmd 8 8)
/-- The tier of a slot's launch, at which its acquires and releases of "the launch's tier" are performed. A control-core slot has no launch, and the spec
does not say at which scope it performs them (`amo.ar`, `cas.ar`, `hold`, `ldfe`, the taking of an entry of q7): the model takes core scope, 0. DESIGN CHOICE (log 106). -/
def tierOf (s : State) (t : Slot) : Nat := (s.ginst t.ginst).tier
/-- The partition of a slot. -/
def partOf (s : State) (p : Nat) : Nat :=
  if isCtl p then (s.slot p).ctl.pid else match (s.slot p).launch with | some l => (s.launch l).part | none => 0

/-! ### Channels (R127 to R129) -/

def Slot.chan (t : Slot) (q : Nat) : Chan := KV.get {} t.chans q
def Slot.setChan (t : Slot) (q : Nat) (c : Chan) : Slot := { t with chans := KV.set t.chans q c }

/-- The packets of an `.out` channel not yet accepted (R128), those of an earlier binding of it by the same act among them. DESIGN CHOICE (log 129). -/
def outItems (s : State) (p q : Nat) : List NetItem := s.net.filter (fun i => i.src == p && i.chan == some q && i.act == (s.slot p).act)
/-- COUNT of a channel. -/
def chanCount (s : State) (p q : Nat) : Nat :=
  let c := (s.slot p).chan q
  match c.kind with
  | .unbound => 0
  | .input => c.entries.length
  | .output => (outItems s p q).length
/-- The buffered stores of a slot that a release orders before it (R140, R173). -/
def pendingIds (s : State) (p : Nat) : List Nat := (s.slot p).store.map (fun x => x.id)

/-- A network item from a slot, with its sender's identity (R133). -/
def itemFrom (s : State) (p : Nat) (k : NetKind) (dst vcore : Nat) : NetItem :=
  let t := s.slot p
  let l := t.launch.getD 0
  { kind := k, src := p, launch := l, ginst := t.ginst, dst := dst, vcore := vcore, prio := (s.launch l).prio, act := t.act
    after := pendingIds s p }

def netPush (i : NetItem) (s : State) : State := { s with net := s.net ++ [i] }

/-- Messages in a slot's outbound buffer of 4, and packets it has in retry (R20). -/
def outbound (s : State) (p : Nat) : Nat := (s.net.filter (fun i => i.src == p && (i.isMessage || i.retryAt.isSome))).length
def outboundDepth : Nat := 4
/-- A refused request or packet is retried after this many cycles or more (R20). -/
def retryCycles : Nat := 64

/-- Whether the sender's CLPERM permits a core as a destination (R348): the own cluster always, another by CORES, one of another device by FABRIC. -/
def permitsCore (s : State) (p dst : Nat) : Bool :=
  isCtl p || (if farBase ≤ dst then testBit (s.cluster (clusterOf p)).clperm.toNat 6
    else clusterOf dst == clusterOf p || testBit (s.cluster (clusterOf p)).clperm.toNat 5)

/-- A core whose logical time has advanced past every lease it holds (R402). -/
def Core.pastLeases (cycle : Nat) (c : Core) : Core :=
  { c with l1 := [], ahead := c.l1.foldl (fun a l => if a < l.expiry - cycle then l.expiry - cycle else a) c.ahead }

/-- An acquire of a core (R402): at cluster scope or wider its logical time passes every lease it holds, those on lines it has written itself
among them, as R205 asks of every later load. DEDUCED (log 11). -/
def acquired (p scope : Nat) (s : State) : State :=
  if scope = 0 || (s.core (coreOf p)).l1.isEmpty then s else s.modCore (coreOf p) (Core.pastLeases s.cycle)

/-- Reads the head entry of a channel named as a source, and removes it when `take` (R71, R128); it is an acquire (R140), from q7, the channel of
user-level interrupts, at device scope. DEDUCED (log 90). -/
def chanHead (p q : Nat) (take : Bool) : Act Vec := do
  let t ← Act.slot p
  let c := t.chan q
  match c.kind with
  | .input =>
    match c.entries with
    | [] => Act.block
    | v :: r =>
      if take then Act.modSlot p (fun t => t.setChan q { c with entries := r })
      -- Taking a user-level interrupt is an acquire at device scope (R371).
      Act.upd (fun s => acquired p (if q = 7 ∧ tierOf s t < 3 then 3 else tierOf s t) s)
      pure v
  | _ => Act.fault Cause.channel

/-- Appends an entry to a channel named as a destination: the act's own queue, or a packet on the channel's route (R128). -/
def chanPut (p q : Nat) (v : Vec) : Act Unit := do
  let t ← Act.slot p
  let c := t.chan q
  let n ← Act.look (fun s => chanCount s p q)
  match c.kind with
  | .unbound => Act.fault Cause.channel
  | .input =>
    Act.ready (decide (n < chanDepth))
    let now ← Act.look (fun s => s.cycle)
    Act.modSlot p (fun t => t.setChan q (c.push now v))
  | .output =>
    let s ← Act.look id
    let dst := (destOf s t.ginst (routeVcore c.route)).getD 0
    Act.require (permitsCore s p dst) Cause.denied
    Act.ready (decide (n < chanDepth) && decide (outbound s p < outboundDepth))
    Act.upd (fun s => netPush { itemFrom s p .packet dst (routeVcore c.route) with
      tag := c.route % 2 ^ 16, data := bytesOfVec v, chan := some q } s)

/-- A channel operand must be bound, and `.in` to be a source (R128); checked before any wait. -/
def chanSourceOk (t : Slot) : Opnd → Bool
  | .chan q => (t.chan q.val).kind == .input
  | _ => true
def chanDestOk (t : Slot) : Opnd → Bool
  | .chan q => (t.chan q.val).kind != .unbound
  | _ => true

/-- The channel faults of an instruction's operand fields (R128), before every other cause of the instruction. DEDUCED (log 85). -/
def chanCheck (p : Nat) (srcs dsts : List Opnd) : Act Unit := do
  let t ← Act.slot p
  Act.require (srcs.all (chanSourceOk t) && dsts.all (chanDestOk t)) Cause.channel

/-- Whether an operand names channel `q`. -/
def namesChan (q : Nat) : Opnd → Bool
  | .chan k => k.val == q
  | _ => false

/-- The readiness of an instruction's channels (R72): each source channel holds as many entries as the instruction takes from it, and each
destination channel has room after the instruction's own reads. A source comes with the entries it takes. -/
def chansReady (s : State) (p : Nat) (srcs : List (Opnd × Nat)) (dst : Opnd) : Bool :=
  (List.range 8).all (fun q =>
    let n := srcs.foldl (fun n x => if namesChan q x.1 then n + x.2 else n) 0
    let c := (s.slot p).chan q
    (n == 0 || decide (n ≤ c.entries.length)) &&
    (!namesChan q dst || (match c.kind with
      | .output => decide (chanCount s p q < chanDepth) && decide (outbound s p < outboundDepth)
      | _ => decide (c.entries.length - n < chanDepth))))

/-! ### Waits -/

/-- The unit that an instruction waited for has done its part, and only its completion is left. -/
def Wait.over : Wait → Bool
  | .served _ _ _ | .drawDone _ | .remoteDone _ _ | .waveDone _ | .regionDone _ => true
  | _ => false

/-- The instruction waited for has read its sources and has its results still to write: the act is at no instruction boundary (R138). -/
def Wait.issued : Wait → Bool
  | .remoteAsk _ _ | .remote _ _ | .remoteDone _ _ | .draw _ | .drawDone _ | .listed _ _ _ _ | .served _ _ _ | .line _ _ | .region _ _ | .regionDone _ | .wave _ _
  | .waveDone _ => true
  | _ => false

/-- Whether the act of a slot stands at an instruction boundary: what it has issued has written its results. -/
def Slot.atBoundary (t : Slot) : Bool := t.loads.isEmpty && !t.wait.issued

/-! ### Issue -/

/-- How an instruction that completes moves the program counter: to next (R63), to a target, or not (its slot's state is settled). -/
inductive Flow where
  | next
  | jump (target : Nat)
  | settled
  deriving DecidableEq, Repr

/-- The bytes an instruction takes with its mask word. -/
def Enc.size (e : Enc) : Nat := extBytes e.ext + (if e.live.isSome then 8 else 0)

/-- next_pc of R63 for an instruction at `pc`. -/
def nextOf (e : Enc) (pc : Nat) : Nat := nextPc pc (Enc.size e)

/-- Opcodes that raise FEATURE on a control core (R338). -/
def ctlBanned (opc var : Nat) : Bool :=
  opc == 0x4B || (opc == 0x40 && decide (var < 3)) || opc == 0x47 || opc == 0x48 || opc == 0x49 || opc == 0x4A ||
  opc == 0x6D || opc == 0x6E || opc == 0x6F || opc == 0x6B || opc == 0x6C || opc == 0x70 || opc == 0xAD ||
  (decide (0xC0 ≤ opc) && decide (opc ≤ 0xE9))

/-- Checks 4 and 9 of R81 for a slot: the cause, or none when the instruction may run here. -/
def admitted (opc : Nat) (e : Enc) (p : Nat) (t : Slot) : Option Nat :=
  if !permitsOpc (if isCtl p then some t.ctl.level else none) opc e.v then some Cause.privilege
  else if isCtl p then (if ctlBanned opc e.v then some Cause.feature else none)
  else match featureOf opc with
    | none => none
    | some 0 => none
    | some f => if testBit t.feat f then none else some Cause.feature

/-- The SCH wait count holds the instruction back (R18). -/
def replyWait (e : Enc) (t : Slot) : Bool := e.wait != 15 && decide (e.wait.toNat < t.replies)

/-- Whether an operand names the register a load has yet to write. -/
def namesLoad (x : PLoad) : Opnd → Bool
  | .reg n => n.val == x.reg
  | _ => false

/-- Whether an operand names a channel. -/
def Opnd.isChan : Opnd → Bool
  | .chan _ => true
  | _ => false

/-- Whether an instruction may issue while loads of its slot have not returned (R140, R173, R205): a plain load or store that names none of
their destinations and writes no channel; every other instruction waits for them. -/
def loadsClear (opc : Nat) (e : Enc) (t : Slot) : Bool :=
  t.loads.isEmpty ||
  ((opc == 0x60 || opc == 0x61 || opc == 0x62 || opc == 0x73) && decide (e.v < 8) && e.live.isNone && !Opnd.isChan e.d &&
    t.loads.all (fun x => !([e.a, e.b, e.c, e.d, e.e].any (namesLoad x))))

/-- One cycle of the clock (log 2). -/
def tick (s : State) : State := { s with cycle := s.cycle + 1 }

/-- The slot after an instruction completes: the program counter moves, a safe point is noted and restarts the watchdog (R34, R65, R75), unless
the instruction was withdrawn at a park, when the count runs on (R390, R399; log 95), and the yield bit is kept for the next choice (R18). -/
def Slot.complete (e : Enc) (flow : Flow) (cycle : Nat) (t : Slot) : Slot :=
  match flow with
  | .settled => if t.st == .active && e.live.isSome then { t with wdBase := cycle + 1 } else t
  | .next | .jump _ =>
    let pc := match flow with | .jump a => a | _ => nextOf e t.pc
    let base := if t.resumed then t.wdBase else cycle + 1
    let t := { t with pc := pc, wait := .none, reexec := false, yielded := e.yield, readyFor := 0, urgent := false, drawNo := none, resumed := false }
    match e.live with
    | some m => { t with safe := true, live := m, wdBase := base }
    | none => { t with safe := false }

/-- What an issue does to its core: the rotation pointer moves past the slot (R17). -/
def rotated (p : Nat) (s : State) : State := s.modCore (coreOf p) (fun c => { c with ptr := (p % 4 + 1) % 4 })

/-- A completed instruction. -/
def completed (e : Enc) (p : Nat) (flow : Flow) (s : State) : State :=
  tick { rotated p (s.modSlot p (Slot.complete e flow s.cycle)) with idle := false }

/-- An instruction that is not ready: with SP set it is a safe point while it is blocked, and the watchdog counts from its issue (R34). -/
def notReady (e : Enc) (p : Nat) (s : State) : State :=
  let s := match e.live with
    | some m => s.modSlot p (fun t => { t with
        safe := true, reexec := true, live := m, readyFor := 0, urgent := false, wdBase := if t.reexec then t.wdBase else s.cycle })
    | none => s.modSlot p (fun t => { t with safe := false, reexec := false, readyFor := 0, urgent := false })
  tick { s with idle := true }

/-- A faulting instruction: it has no effect, and the fault is taken (R26, R339). -/
def faulted (p cause : Nat) (detail : Word) (poison : Option Nat) (s : State) : State :=
  tick { rotated p (raiseFault p cause detail poison s) with idle := false }

/-- The wait of a slot whose fabric access gets no answer; it began when the slot first met it (R412). -/
def Slot.fabricWait (a k va cycle : Nat) (t : Slot) : Slot :=
  match t.wait with
  | .fabric a' k' va' _ => if a' == a && k' == k && va' == va then t else { t with wait := .fabric a k va cycle }
  | _ => { t with wait := .fabric a k va cycle }

/-- The machine check of a fabric access that timed out (R412, R432). -/
def fabricCheck (a part lid pslot : Nat) (s : State) : State :=
  machineCheck s { source := 7, sev := 2, die := dieOf pslot, part := part, launch := lid, pslot := pslot, aper := a }

/-- The next state of an instruction of slot `p` whose checks have passed and whose guards hold. -/
def conclude (e : Enc) (p : Nat) (s : State) (r : Except Stop (Flow × State)) : State :=
  match r with
  | .ok (flow, s') => completed e p flow s'
  | .error (.wait none) => notReady e p s
  | .error (.wait (some s')) => { notReady e p s' with idle := false }
  | .error (.silent a k va) => notReady e p (s.modSlot p (Slot.fabricWait a k va s.cycle))
  | .error (.behind w g) => notReady e p (s.modSlot p (fun t => { t with wait := .behind w g }))
  | .error (.fault c d q) => faulted p c d q s

/-- Issue of one instruction of slot `cur`: nothing when the slot is not ACTIVE, or after a fatal error (R433); the decode checks that depend on the slot; the SCH wait;
the guards (R65); the wait for loads under way; then its own effect. -/
def issueState (opc : Nat) (e : Enc) (body : Nat → Act Flow) (s : State) : State :=
  let p := s.cur
  let t := s.slot p
  if t.st != .active || s.board.fatal then tick { s with idle := true }
  else match admitted opc e p t with
    | some c => faulted p c 0 none s
    | none =>
      if replyWait e t then notReady e p s
      else if !t.guards e then completed e p .next s
      else if !loadsClear opc e t then notReady e p s
      else conclude e p s (body p s)

/-- The outcome of issuing an instruction: always a next state. -/
def issue (opc : Nat) (e : Enc) (body : Nat → Act Flow) (s : State) : Host.Outcome State Fault Refusal :=
  .next (issueState opc e body s)

/-- A target that breaks R61 raises PC-ALIGN; from a `sendc` payload so does one outside bytes 0 to 39 (R137). -/
def goTo (p target : Nat) : Act Flow := do
  let t ← Act.slot p
  let a := target % 2 ^ 64
  Act.require (pcAligned a && (t.payload.isNone || decide (a < 40))) Cause.pcAlign
  pure (.jump a)

/-! ### Events of units -/

/-- The next state of an event of stage S1: its effect, or nothing when it is not enabled (log 3). -/
def boardEvent (f : State → Option State) (s : State) : Host.Outcome State Fault Refusal :=
  match f s with
  | some s' => .next (tick { s' with idle := false })
  | none => .next (tick { s with idle := true })

/-- The next state of any other event: after a fatal error none is enabled (R433). -/
def event (f : State → Option State) (s : State) : Host.Outcome State Fault Refusal :=
  boardEvent (fun s => if s.board.fatal then none else f s) s

/-- WHERE of a fault of engine work: the slot in which the act that sent it now is, else the one it was sent from (R371, R378). -/
def whereOf (s : State) (org : Origin) : Nat :=
  match List.find? (fun (e : Nat × Slot) => e.2.act == org.act && e.2.st != .free && e.2.launch == some org.launch) s.slots with
  | some e => e.1
  | none => org.pslot

/-- Cycles after which a fabric access without an answer is timed out (R412). -/
def fabricCycles : Nat := 2 ^ 22

/-- A fabric access of a unit that gets no answer: it is noted, waited for, or, after 2^22 cycles, timed out (R412). -/
def awaitAnswer (org : Origin) (a va : Nat) (s : State) (late : State → State) : Option State :=
  let mine := fun (x : Unanswered) => x.org == org && x.aperture == a && x.va == va
  match s.unanswered.find? mine with
  | none => some { s with unanswered := s.unanswered ++ [{ org := org, aperture := a, va := va, since := s.cycle }] }
  | some x => if x.since + fabricCycles ≤ s.cycle then some (late { s with unanswered := s.unanswered.filter (fun y => !mine y) }) else none

/-- Runs an engine's action: its effect; nothing when it must wait; or a fault of its launch, recorded against the act that sent it. A fabric
access without an answer is timed out after 2^22 cycles (R412). -/
def engineRun (org : Origin) (s : State) (a : Act Unit) : Option State :=
  match a s with
  | .ok (_, s') => some s'
  | .error (.wait none) => none
  | .error (.behind _ _) => none
  | .error (.wait (some s')) => some s'
  | .error (.silent a k va) => awaitAnswer org a va s (fun s =>
    let s := fabricCheck a (s.launch org.launch).part (s.launch org.launch).lid org.pslot s
    actFault none org.launch { cause := Cause.poison + k, detail := BitVec.ofNat 64 va, where_ := whereOf s org, ginst := (s.ginst org.ginst).num } s)
  | .error (.fault c d q) =>
    let s := match q with
      | some loc => consumePoison s loc (dieOf org.pslot) (s.launch org.launch).part (s.launch org.launch).lid org.pslot
      | none => s
    some (actFault none org.launch { cause := c, detail := d, where_ := whereOf s org, ginst := (s.ginst org.ginst).num } s)

/-- The fault causes of R376. -/
def causeListed (c : Nat) : Bool :=
  [0x01, 0x02, 0x03, 0x04, 0x05, 0x06, 0x08, 0x09, 0x0A, 0x0B, 0x0C, 0x0D, 0x10, 0x11, 0x12, 0x13, 0x14, 0x15, 0x16, 0x50, 0x51, 0x52, 0x53,
   0x58, 0x59, 0x5A, 0x5B, 0x5C, 0x60, 0x61, 0x62].contains c || (Cause.isAccess c && decide (c % 8 < 5)) || c == Cause.scall || c == Cause.mcall

/-- The causes with which an act ends its launch: a call of a control core is none. -/
def launchCause (c : Nat) : Bool := causeListed c && decide (c < 0xF0)

/-! ### Live group copies -/

/-- Whether a group copy has a live act, an untaken message or engine work. -/
def ginstLive (s : State) (g : Nat) : Bool :=
  let mine := fun (q : List Entry) => q.any (fun e => e.org.ginst == g)
  decide (0 < (s.ginst g).farActs) || s.slots.any (fun e => e.2.st != .free && e.2.launch.isSome && e.2.ginst == g) || s.saved.any (fun v => v.ginst == g) ||
  s.net.any (fun i => i.ginst == g) || s.cores.any (fun e => e.2.inbox.any (fun i => i.ginst == g) || mine e.2.copyq || mine e.2.mx.queue ||
    mine e.2.jug.queue) || s.clusters.any (fun e => mine e.2.sdq)

/-- The live group copies with a core. -/
def liveOn (s : State) (core : Nat) : List GInst :=
  (s.ginsts.filter (fun e => e.2.cores.any (fun c => c.2 == core) && ginstLive s e.1)).map Prod.snd

end Sys2Proof.Machine
end

