-- ==== Sys2Proof/Machine/TableView.lean ====
section
/-! DEFINITION. The bytes of a cell table as memory holds them (R220, R221): a table's header, descriptors and buffers, which the state keeps as data,
read at the locations of its pages. -/

namespace Sys2Proof.Machine

/-- WAVES: the waves accepted and not yet published or failed (R220, R245). -/
def Table.unpublished (t : Table) : Nat := (t.waves.filter (fun w => !w.failed)).length

/-- The header (R220). -/
def headerBytes (t : Table) : List Byte :=
  leBytes 2 t.cells.length ++ leBytes 1 t.home ++ leBytes 5 0 ++ leBytes 8 t.started ++ leBytes 8 t.committed ++ leBytes 4 t.vwlim ++
  leBytes 2 t.views.length ++ leBytes 1 t.edits.length ++ leBytes 1 t.unpublished ++ leBytes 8 t.obj ++ leBytes 88 0

/-- `n` 16-bit indices, 0xFFFF where none is left. -/
def indexBytes (n : Nat) (l : List Nat) : List Byte := (List.range n).flatMap (fun k => leBytes 2 (l.getD k 0xFFFF))

/-- FLAGS (R221). -/
def flagsByte (c : CellD) : Nat :=
  c.form.toNat + 2 * c.iter.toNat + 4 * c.stale.toNat + 8 * c.staged.toNat + 16 * c.editq.toNat + 32 * c.failed.toNat

/-- WP and HOLD (R221). -/
def holdBytes (s : State) (h : Holder) : List Byte :=
  match h with
  | .free => leBytes 8 0
  | .wave w => leBytes 6 w ++ leBytes 2 1
  | .stager k l => leBytes 2 k ++ leBytes 2 (s.launch l).lid ++ leBytes 2 0 ++ leBytes 2 2

/-- Overflow blocks of a cell: 24 dependants each, beyond the 14 of the descriptor. -/
def CellD.blocks (c : CellD) : Nat := (c.dep.length - 14 + 23) / 24

/-- Overflow blocks a table of `n` cells can need: each takes at least 15 of the at most 8 n entries of all dependant lists. -/
def ovfRoom (n : Nat) : Nat := 8 * n / 15

/-- The overflow blocks stand behind the descriptors, cell after cell. DESIGN CHOICE (log 44). -/
def Table.ovfBase (t : Table) : Nat := t.base + 128 + 128 * t.cells.length
def Table.blockAddr (t : Table) (i k : Nat) : Nat := t.ovfBase + 64 * (((t.cells.take i).map CellD.blocks).foldl (· + ·) 0 + k)

/-- An overflow block (R221): its indices, zero bytes, and the next block's address. -/
def blockBytes (t : Table) (i k : Nat) : List Byte :=
  let c := t.cells.getD i {}
  indexBytes 24 (c.dep.drop (14 + 24 * k)) ++ leBytes 8 0 ++ leBytes 8 (if k + 1 < c.blocks then t.blockAddr i (k + 1) else 0)

/-- The cell, from `i` on, and its block that the `n`-th block from there is. -/
def findBlock : List CellD → Nat → Nat → Option (Nat × Nat)
  | [], _, _ => none
  | c :: r, i, n => if n < c.blocks then some (i, n) else findBlock r (i + 1) (n - c.blocks)

/-- A descriptor (R221). -/
def descBytes (s : State) (t : Table) (i : Nat) : List Byte :=
  let c := t.cells.getD i {}
  leBytes 1 c.fmt ++ leBytes 1 (flagsByte c) ++ leBytes 1 c.rounds ++ leBytes 1 c.prec.length ++ leBytes 2 c.rows ++ leBytes 2 c.cols ++
  leBytes 2 c.rank ++ leBytes 2 c.handler ++ leBytes 2 c.dep.length ++ leBytes 2 0 ++ indexBytes 8 c.prec ++ indexBytes 14 c.dep ++ leBytes 4 c.sz ++
  leBytes 8 (if 0 < c.blocks then t.blockAddr i 0 else 0) ++ leBytes 6 c.lastw ++ leBytes 2 0 ++
  leBytes 8 c.va ++ leBytes 6 c.wa ++ leBytes 2 0 ++ leBytes 8 c.vb ++ leBytes 6 (c.wb.getD (2 ^ 48 - 1)) ++ leBytes 2 0 ++ leBytes 8 c.vp ++ holdBytes s c.hold

/-- The byte of a buffer at an address, if it lies in it. -/
def bufferByte (base sz : Nat) (b : List Byte) (va : Nat) : Option Byte :=
  if base ≤ va ∧ va < base + sz then some (b.getD (va - base) 0) else none

/-- The byte of a table at one of its addresses. -/
def tableByte (s : State) (t : Table) (va : Nat) : Option Byte :=
  if va < t.base then none
  else if va < t.base + 128 then (headerBytes t)[va - t.base]?
  else if va < t.base + 128 + 128 * t.cells.length then (descBytes s t ((va - t.base) / 128 - 1))[(va - t.base) % 128]?
  else if va < t.ovfBase + 64 * ovfRoom t.cells.length then
    (findBlock t.cells 0 ((va - t.ovfBase) / 64)).bind (fun x => (blockBytes t x.1 x.2)[(va - t.ovfBase) % 64]?)
  else t.cells.findSome? (fun c =>
    match bufferByte c.va c.sz c.bufA va with
    | some b => some b
    | none => match bufferByte c.vb c.sz c.bufB va with
      | some b => some b
      | none => bufferByte c.vp c.sz c.pend va)

/-- The byte a table keeps at a location. -/
def viewByte (s : State) (loc : Nat) : Option Byte :=
  s.tables.findSome? (fun (e : Nat × Table) =>
    match List.find? (fun (x : Nat × Nat) => x.2 == loc / 65536 * 65536) e.2.pages with
    | some x => tableByte s e.2 (x.1 + loc % 65536)
    | none => none)

/-- Bytes read at a location, with what the tables keep there. -/
def tableView (s : State) (loc : Nat) (b : List Byte) : List Byte :=
  if s.tables.isEmpty then b else b.mapIdx (fun i x => (viewByte s (loc + i)).getD x)

end Sys2Proof.Machine
end

