-- ==== Sys2Proof/Machine/Memory.lean ====
section
/-! DEFINITION. Memory accesses: the windows and checks of R168 and R169, translation (R347 to R352, R408 to R411), loads and buffered
stores (R171 to R173), atomic operations at the home (R177), line holds (R179), region accesses (R190), engine accesses, and byte-counting
barriers (R184 to R186). -/

namespace Sys2Proof.Machine

/-- On whose behalf an access is made: partition, core, group copy and virtual core (for scratchpad windows), L1 size, the level of a
control-core slot (none on compute cores and engines), the root table, the slot, whether SUP denies it (R350), and the unit whose
cached translations it uses (R351): a core, or an engine's by `engineUnit`. -/
structure Who where
  part : Nat
  core : Nat
  ginst : Nat := 0
  vcore : Nat := 0
  tier : Nat := 0
  l1 : Nat := 0
  level : Option Nat := none
  root : Nat
  pslot : Option Nat := none
  denySup : Bool := true
  unit : Nat := 0
  deriving DecidableEq, Repr

/-- The units that keep translations besides the cores (R351): of a cluster or a die, the copy engine (0), the Juggler (1), the stack dot units (2), the
collective engine (3), and the Ringmaster and the ports, which act for a partition (4). -/
def engineUnit (kind place : Nat) : Nat := 2 ^ 20 + 8 * place + kind
/-- The ports and fabric units as holders of level-3 entries (R408). -/
def fabricUnit : Nat := 2 ^ 21

/-- The accesses of a slot. -/
def whoSlot (s : State) (p : Nat) : Who :=
  let t := s.slot p
  if isCtl p then
    { part := t.ctl.pid, core := coreOf p, unit := coreOf p, level := some t.ctl.level, root := t.ctl.ptbase.toNat, pslot := some p, denySup := false }
  else
    let l := s.launch (t.launch.getD 0)
    { part := l.part, core := coreOf p, unit := coreOf p, ginst := t.ginst, vcore := t.vcore, tier := (s.ginst t.ginst).tier, l1 := l.l1,
      root := (s.part l.part).proot.toNat, pslot := some p }

/-- The accesses of an engine for the act that sent its command. -/
def whoOrigin (s : State) (o : Origin) : Who :=
  let l := s.launch o.launch
  { part := l.part, core := (coreOfV s o.ginst o.vcore).getD (coreOf o.pslot), ginst := o.ginst, vcore := o.vcore,
    tier := (s.ginst o.ginst).tier, l1 := l.l1, root := (s.part l.part).proot.toNat, unit := (coreOfV s o.ginst o.vcore).getD (coreOf o.pslot) }

/-- The accesses of an engine that stands outside the cores. -/
def whoEngine (s : State) (kind place : Nat) (o : Origin) : Who := { whoOrigin s o with unit := engineUnit kind place }

/-- The accesses of a unit on behalf of a partition alone (Ringmaster, Carousel, ports). -/
def whoPart (s : State) (n : Nat) : Who := { part := n, core := 0, root := (s.part n).proot.toNat, denySup := false, unit := engineUnit 4 0 }

/-! ### Windows (R168) -/

/-- Bytes of scratchpad that are valid: 384 KiB less the L1 size, and 320 KiB on a control core (R168, R338). -/
def spadSize (w : Who) : Nat := if w.level.isSome then 320 * 1024 else 384 * 1024 - 32 * 1024 * w.l1
/-- The spill areas: the top 4 KiB (R93). -/
def inSpill (w : Who) (off : Nat) : Bool := decide (spadSize w - 4096 ≤ off) && decide (off < spadSize w)

/-- Whether an offset lies in a named region of a group copy (R12). -/
def inRegion (rs : List Region) (off : Nat) : Bool := rs.any (fun r => decide (r.off ≤ off) && decide (off < r.off + r.size))

/-- The location of a scratchpad byte: the group copy's own bytes for a named region, the core's common bytes otherwise (R12). -/
def spadAt (s : State) (g vcore core off : Nat) : Nat :=
  if inRegion (s.ginst g).regions off then spadLoc (copySpace g vcore) off else spadLoc core off

def ownTop : Nat := 0x60000
def peerBase : Nat := 0x100000000
def globalBase : Nat := 0x100000000000

/-- Where an address lies (R168): scratchpad with the core reached and the offset, or global. -/
inductive Place where
  | spad (vcore core off : Nat)
  | global
  | nowhere
  deriving DecidableEq, Repr

/-- The window of an access of `n` bytes, or nowhere. -/
def placeOf (s : State) (w : Who) (va n : Nat) : Place :=
  if va < ownTop then
    if va + n ≤ spadSize w then .spad w.vcore w.core va else .nowhere
  else if globalBase ≤ va then .global
  else if peerBase ≤ va ∧ va < peerBase + 0x800000 then
    let k := (va - peerBase) / 0x100000
    let off := va % 0x100000
    if w.level.isSome || w.tier == 0 || decide (spadSize w < off + n) then .nowhere
    else
      let v := vcorePeer w.vcore k
      match coreOfV s w.ginst v with
      | some c => .spad v c off
      | none => .nowhere
  else .nowhere

/-! ### Translation (R349 to R351, R408 to R411) -/

/-- A leaf found for an address: the entry, its level, and where the entry lies (none from a cached translation). -/
structure LeafAt where
  pte : Nat
  level : Nat
  at_ : Option Nat
  deriving DecidableEq, Repr

/-- log2 of the bytes a leaf of a level maps. -/
def leafBits (level : Nat) : Nat := match level with | 0 => 16 | 1 => 21 | _ => 30

def pteV (p : Nat) : Bool := testBit p 0
def pteR (p : Nat) : Bool := testBit p 1
def pteW (p : Nat) : Bool := testBit p 2
def pteX (p : Nat) : Bool := testBit p 3
def pteSup (p : Nat) : Bool := testBit p 5
def pteA (p : Nat) : Bool := testBit p 6
def pteD (p : Nat) : Bool := testBit p 7
def pteAttr (p : Nat) : Nat := bitsN p 49 48
def pteKe (p : Nat) : Bool := testBit p 50
def pteKey (p : Nat) : Nat := bitsN p 63 51
def ptePhys (p level va : Nat) : Nat := bitsN p 47 16 * 2 ^ 16 + va % 2 ^ leafBits level
def pteAper (p : Nat) : Nat := bitsN p 47 40

/-- The page number under which a level-3 entry is cached. -/
def rootPage (k : Nat) : Nat := k * 2 ^ 23

/-- A level-3 entry as an aperture or a port pointer: the cached copy, or the entry in memory (R408). -/
def rootEntry (s : State) (w : Who) (k : Nat) : Nat :=
  match s.tlb.find? (fun e => e.unit == fabricUnit && e.part == w.part && e.level == 3 && e.page == rootPage k) with
  | some e => e.leaf.toNat
  | none => ofLe (Memory.readN s.mem (w.root + 8 * k) 8)

/-- The physical address of a partition's port table, from level-3 entry 0; none where that has V = 0 or reads as such (R422). -/
def portTable (s : State) (n : Nat) : Option Nat :=
  let w := rootEntry s (whoPart s n) 0
  if !testBit w 0 || bitsN w 11 1 != 0 || bitsN w 63 48 != 0 then none else some (bitsN w 47 12 * 2 ^ 12)

/-- The flow entries whose TXTAIL a write of `n` bytes touches, of every enabled partition (R422). -/
def tailEntries (s : State) (loc n : Nat) : List Nat :=
  s.parts.flatMap (fun e =>
    match (if e.2.en && isHbm loc then portTable s e.1 else none) with
    | none => []
    | some base => ((List.range (n / 128 + 2)).map (fun j => base + 128 * ((loc - base) / 128 + j))).filter (fun a =>
        decide (a < base + 128 * e.2.keycount) && decide (a + 80 < loc + n) && decide (loc < a + 88)))

/-- A write of `n` bytes by a cluster, 256 for none, reported to the ports where it touches a TXTAIL (R422, R427). -/
def reportTail (writer loc n : Nat) (s : State) : State :=
  (tailEntries s loc n).foldl (fun s a => s.modBoard (fun b => { b with
    txWrites := b.txWrites ++ [{ entry := a, writer := writer, value := ofLe (Memory.readN s.mem (a + 80) 8) }] })) s

/-- The cluster of a core as a writer; a control core has none. -/
def writerOf (core : Nat) : Nat := if isCtl core then 256 else clusterOf core

/-- Whether aperture `a` lets the partition reach remote memory (R409, R410). -/
def apertureOk (s : State) (w : Who) (a : Nat) : Bool :=
  let e := rootEntry s w a
  decide (a ≤ 31) && testBit e 0 && testBit e 56 && bitsN e 63 58 == 0 && bitsN e 41 1 == 0

/-- Whether a leaf is legal at its level (R350, R410); a page of this device lies in a PRANGE of the partition. -/
def leafOk (s : State) (w : Who) (level va pte : Nat) : Bool :=
  level != 3 && bitsN pte 15 8 == 0 && !testBit pte 4 && pteAttr pte != 3 &&
  (level != 1 || bitsN pte 20 16 == 0) && (level != 2 || bitsN pte 29 16 == 0) &&
  (if pteAper pte != 0 then apertureOk s w (pteAper pte) && pteAttr pte == 0
   else rangeHas (s.part w.part) (ptePhys pte level va))

/-- The walk from a table of a level down (R349, R350); none for TRANSLATION. -/
def walk (s : State) (w : Who) (va : Nat) : Nat → Nat → Option LeafAt
  | level, base =>
    let shift := match level with | 3 => 39 | 2 => 30 | 1 => 21 | _ => 16
    let idx := va / 2 ^ shift % (if level = 0 then 32 else 512)
    let addr := base + 8 * idx
    let pte := ofLe (Memory.readN s.mem addr 8)
    if !rangeHas (s.part w.part) base || !pteV pte || (pteW pte && !pteR pte) then none
    else if pteR pte || pteX pte then
      if leafOk s w level va pte then some ⟨pte, level, some addr⟩ else none
    else if bitsN pte 63 48 != 0 || bitsN pte 11 4 != 0 then none
    else match level with
      | 0 => none
      | l + 1 => walk s w va l (bitsN pte 47 12 * 2 ^ 12)

/-- A cached translation of the unit for the partition that covers the address (R351). -/
def cachedLeaf (s : State) (w : Who) (va : Nat) : Option LeafAt :=
  (s.tlb.find? (fun e => e.unit == w.unit && e.part == w.part && e.page == va / 2 ^ 16)).map (fun e => ⟨e.leaf.toNat, e.level, none⟩)

/-- The leaf used for an access: a cached one, unless a write needs D set; otherwise that of a walk. -/
def leafFor (s : State) (w : Who) (va : Nat) (write : Bool) : Option LeafAt :=
  match cachedLeaf s w va with
  | some e => if write && !pteD e.pte then walk s w va 3 w.root else some e
  | none => walk s w va 3 w.root

/-- A, and D for a write, set in the entry (R351). -/
def markUsed (s : State) (e : LeafAt) (write : Bool) : State :=
  match e.at_ with
  | none => s
  | some addr =>
    if pteA e.pte && (pteD e.pte || !write) then s
    else
      let pte := Nat.lor e.pte (if write then 0xC0 else 0x40)
      homePoke (outsideWrite s addr 8) addr none (leBytes 8 pte)

/-- The permissions an access needs (R169, step 4). -/
structure Need where
  r : Bool := false
  w : Bool := false
  x : Bool := false
  deriving DecidableEq, Repr

def Need.read : Need := { r := true }
def Need.write : Need := { w := true }
def Need.both : Need := { r := true, w := true }
def Need.fetch : Need := { x := true }

/-- Whether a leaf permits an access: permissions, SUP, and the key of a KE page of this device (R350). -/
def leafPermits (s : State) (w : Who) (need : Need) (pte : Nat) : Bool :=
  let e := s.part w.part
  (!need.r || pteR pte) && (!need.w || pteW pte) && (!need.x || pteX pte) && !(w.denySup && pteSup pte) &&
  (!pteKe pte || pteAper pte != 0 ||
    (decide (e.keybase ≤ pteKey pte) && decide (pteKey pte < e.keybase + e.keycount) && (memKey s (pteKey pte)).isSome))

/-- Whether the holding device accepts an access (R411); the table `peers` holds what the other devices export. -/
def peerAccepts (s : State) (fdev part rpart pa : Nat) (ke : Bool) (key : Nat) : Bool :=
  match KV.find? s.peers (fdev * 16 + rpart) with
  | none => false
  | some q => q.enabled && q.exports.contains (s.board.fdev, part) &&
      q.ranges.any (fun r => decide (r.1 ≤ pa) && decide (pa < r.2)) && (!ke || q.keys.contains key)

/-- Whether the holding device's answers reach this device (R412). -/
def peerAnswers (s : State) (fdev rpart : Nat) : Bool :=
  match KV.find? s.peers (fdev * 16 + rpart) with | some q => q.answers | none => true

/-- The physical memory protection of level P (R347): the lowest enabled region that contains every byte decides. -/
def pmpPermits (c : Ctl) (need : Need) (pa n : Nat) : Bool :=
  let inside := fun (k : Nat) =>
    let b := (KV.get 0 c.pmpb k).toNat
    let l := (KV.get 0 c.pmpc k).toNat
    testBit l 3 && decide (bitsN b 47 12 * 2 ^ 12 ≤ pa) && decide (pa + n ≤ bitsN l 47 12 * 2 ^ 12)
  match (List.range 16).find? inside with
  | none => false
  | some k =>
    let l := (KV.get 0 c.pmpc k).toNat
    (!need.r || testBit l 0) && (!need.w || testBit l 1) && (!need.x || testBit l 2)

/-- Where an access lands: its location, the key of its page, whether the page is SC, whether it is a spill area, and the level of its leaf. -/
structure Phys where
  loc : Nat
  key : Option Nat := none
  sc : Bool := false
  spill : Bool := false
  level : Nat := 0
  deriving DecidableEq, Repr

/-- The translation of a global address and checks 3 to 5 of R169; `cellOk` for the accesses of the Carousel itself. An access of a region to
another device's memory raises REGION-OP, whatever that device answers (R277). -/
def resolveGlobal (w : Who) (k : AKind) (need : Need) (va n : Nat) (cellOk : Bool) : Act Phys := do
  let s ← Act.look id
  if w.level == some 2 then
    let pa := va - globalBase
    if populated s pa && populated s (pa + n - 1) then pure { loc := pa } else Act.accessFault Cause.space k va
  else if 2 ^ 48 ≤ va then Act.accessFault Cause.translation k va
  else match leafFor s w va need.w with
    | none => Act.accessFault Cause.translation k va
    | some e =>
      if !leafPermits s w need e.pte then Act.accessFault Cause.protection k va
      else
        let pa := ptePhys e.pte e.level va
        let a := pteAper e.pte
        if a != 0 && !need.x && (match w.pslot with | some p => (s.slot p).region.isSome | none => false) then Act.fault Cause.regionOp else
        let ent := rootEntry s w a
        if a != 0 && !apertureOk s w a then Act.accessFault Cause.translation k va else
        if a != 0 && !peerAnswers s (bitsN ent 51 42) (bitsN ent 55 52) then (fun _ => .error (.silent a k.code va)) else
        if a != 0 && !peerAccepts s (bitsN ent 51 42) w.part (bitsN ent 55 52) (pa % 2 ^ 40) (pteKe e.pte) (pteKey e.pte) then
          Act.accessFault Cause.protection k va
        else
          let pmpOk := match w.level, w.pslot with
            | some 0, some p => pmpPermits (s.slot p).ctl need pa n
            | _, _ => true
          if !pmpOk then Act.accessFault Cause.protection k va
          else if pteAttr e.pte == 2 && !cellOk then Act.accessFault Cause.cellpage k va
          else
            Act.upd (fun s => markUsed s e need.w)
            pure { loc := if a != 0 then (bitsN ent 51 42 + 1) * fabricBase + pa % 2 ^ 40 else pa
                   key := if pteKe e.pte && a == 0 then some (pteKey e.pte) else none
                   sc := pteAttr e.pte == 1, level := e.level }

/-- Checks 2 to 5 of R169 for an access of `n` bytes within one granule or line. -/
def resolve (w : Who) (k : AKind) (need : Need) (va n : Nat) (cellOk : Bool := false) : Act Phys := do
  let s ← Act.look id
  match placeOf s w va n with
  | .nowhere => Act.accessFault Cause.space k va
  | .spad v c off =>
    if need.x then Act.accessFault Cause.space k va
    else pure { loc := if w.level.isSome then spadLoc c off else spadAt s w.ginst v c off, spill := inSpill w off }
  | .global => resolveGlobal w k need va n cellOk

/-! ### Home reads and writes -/

/-- Bytes of a spill area: free values (R122). -/
def spillRead (loc n : Nat) : Act (List Byte) := do
  let k ← Act.look (fun s => s.freeCount)
  Act.upd (fun s => { s with freeCount := s.freeCount + 1 })
  pure ((List.range n).map (fun i => Config.spillByte k (loc + i)))

/-- What a home read of a place gives: its bytes; of a spill area, a free value (R122). -/
def homeView (spill : Bool) (loc n : Nat) (key : Option Nat) (s : State) : List Byte × State :=
  if spill then ((List.range n).map (fun i => Config.spillByte s.freeCount (loc + i)), { s with freeCount := s.freeCount + 1 })
  else (homeRead s loc n key, s)

/-- A read performed at the home: waits for a hold of another slot; POISON for marked data (R169, check 6). The L2 of the reading slot's die gets the
line (R401). -/
def homeLoad (p : Option Nat) (k : AKind) (va : Nat) (q : Phys) (n : Nat) : Act (List Byte) := do
  let s ← Act.look id
  if q.spill then spillRead q.loc n
  else
    Act.ready (!heldByOther s p q.loc)
    match poisonIn s q.loc n with
    | some l => Act.poisonFault k (va + (l - q.loc)) l
    | none => do
      match p with
      | some p => Act.upd (dirRequest (dieOf p) false q.loc)
      | none => pure ()
      pure (tableView s q.loc (homeRead s q.loc n q.key))

/-- An L1 copy of the line in the writing core follows the write (R172, R402). -/
def patchLease (loc : Nat) (b : List Byte) (l : Lease) : Lease :=
  if l.loc == loc / 64 * 64 then
    { l with bytes := (patch l.bytes (loc % 64) b).take 64
             marks := l.marks.filter (fun g => !(decide (loc ≤ g * 16) && decide (g * 16 + 16 ≤ loc + b.length))) }
  else l

/-- A write of a die performed at the home, outside every region (R280): other dies' copies go (R404), regions that read the granule abort, marks of
whole granules clear, and the ports see a TXTAIL that a cluster writes (R427). -/
def homeStoreFrom (die : Nat) (core : Option Nat) (q : Phys) (b : List Byte) (s : State) (writer : Nat := 256) : State :=
  let s := dirRequest die true q.loc s
  let s := if isHbm q.loc then outsideWrite s q.loc b.length else s
  let s := reportTail writer q.loc b.length (clearPoison (homePoke s q.loc q.key b) q.loc b.length)
  match core with
  | some c => if isSpad q.loc || (s.core c).l1.isEmpty then s else s.modCore c (fun x => { x with l1 := x.l1.map (patchLease q.loc b) })
  | none => s

/-- A write of a core, or, of no core, one that comes to the home from outside the dies. -/
def homeStore (core : Option Nat) (q : Phys) (b : List Byte) (s : State) : State :=
  match core with
  | some c => homeStoreFrom (dieOf c) core q b s (writerOf c)
  | none => homeStoreFrom (homeDie q.loc) none q b s

/-- Whether a buffered store writes every byte of a granule, and so clears its mark when it is performed (R430). -/
def PStore.covers (x : PStore) (g : Nat) : Bool :=
  match x.op with
  | .bytes b => decide (x.loc ≤ g * 16) && decide (g * 16 + 16 ≤ x.loc + b.length)
  | _ => false

/-- A write that covers only part of a poisoned granule is not performed (R430), unless an earlier one, still buffered, writes the whole granule. -/
def poisonGuard (k : AKind) (va : Nat) (q : Phys) (n : Nat) (st : List PStore := []) : Act Unit := do
  let s ← Act.look id
  match poisonPart s q.loc n with
  | some l => if st.any (fun x => x.covers (l / 16)) then pure () else Act.poisonFault k (va + (l - q.loc)) l
  | none => pure ()

/-! ### Atomic operations (R177) -/

/-- The new value and flags of an atomic on `w`-bit values: op as VAR bits [2:0]. -/
def atomicNew (op t old v : Nat) : Nat × Fl :=
  let w := fmtWidth t
  let sg := fmtSigned t
  let a := valN sg w old
  let b := valN sg w v
  if op = 6 then (v % 2 ^ w, Fl.none)
  else if t = 0xD then
    match op with
    | 0 => addFlt t .rne old v
    | 4 => minmaxFlt t false old v
    | 5 => minmaxFlt t true old v
    | _ => (old, Fl.none)
  else match op with
    | 0 => (wrapN w (a + b), Fl.none)
    | 1 => (Nat.land old (v % 2 ^ w), Fl.none)
    | 2 => (Nat.lor old (v % 2 ^ w), Fl.none)
    | 3 => (Nat.xor old (v % 2 ^ w), Fl.none)
    | 4 => (wrapN w (if a ≤ b then a else b), Fl.none)
    | 5 => (wrapN w (if a ≤ b then b else a), Fl.none)
    | _ => (old, Fl.none)

/-! ### Byte-counting barriers (R184 to R186) -/

/-- The fields of an object. -/
structure Cbar where
  expect : Nat
  arrived : Nat
  fired : Bool
  overrun : Bool
  acore : Nat
  rtag : Nat
  deriving DecidableEq, Repr

def Cbar.ofBytes (b : List Byte) : Cbar :=
  let f := fieldAt b 12 1
  { expect := fieldAt b 0 6, arrived := fieldAt b 6 6, fired := testBit f 0, overrun := testBit f 1, acore := bitsN f 4 2, rtag := fieldAt b 14 2 }

/-- The bytes of an object, its reserved bits zero (R184, R8). DEDUCED (log 22). -/
def Cbar.bytes (c : Cbar) : List Byte :=
  leBytes 6 c.expect ++ leBytes 6 c.arrived ++ leBytes 1 (c.fired.toNat + 2 * c.overrun.toNat + 4 * c.acore) ++ leBytes 1 0 ++ leBytes 2 c.rtag

/-- The packet a firing object sends (R186): to core ACORE, with the object's address as that core reaches it. -/
def fireItem (s : State) (launch ginst vcore va : Nat) (c : Cbar) : NetItem :=
  let owner := if va < ownTop then vcoreCorev vcore else (va - peerBase) / 0x100000
  let off := va % 0x100000
  let addr := if owner = c.acore then off else peerBase + owner * 0x100000 + off
  let dstV := vcorePeer vcore c.acore
  { kind := .packet, src := 0x10000, launch := launch, ginst := ginst, dst := (coreOfV s ginst dstV).getD 0, vcore := dstV, tag := c.rtag
    data := leBytes 8 addr ++ leBytes 6 c.arrived ++ leBytes 2 0 }

/-! ### Wait lists (R176, R186) -/

/-- What `cbwait` waits for (R186): EXPECT is at most ARRIVED, on an object that was armed. -/
def Cbar.met (c : Cbar) : Bool := decide (c.expect ≤ c.arrived) && !(c.expect == 0 && c.arrived == 0 && !c.fired && !c.overrun)

/-- Whether a request of a controller's wait list can be performed now. -/
def Waiter.ready (s : State) (loc : Nat) : Waiter → Bool
  | .ldfe _ => feOf s loc
  | .stfe _ => !feOf s loc
  | .cbwait => (Cbar.ofBytes (homeRead s loc 16 none)).met

/-- A request performed at its granule (R176): what it gives, and whether its data is poisoned; and the state after it. -/
def Waiter.perform (core loc : Nat) (w : Waiter) (s : State) : Vec × Bool × State :=
  let v := vecOfBytes (homeRead s loc 16 none)
  let bad := (poisonIn s loc 16).isSome
  match w with
  | .ldfe clr => (v, bad, if clr && !bad then setFe s loc false else s)
  | .stfe d => (0, false, setFe (homeStore (some core) { loc := loc } (bytesOfVec d) s) loc true)
  | .cbwait => (v, bad, s)

/-- A numbered item put in its place in a list ordered by number. -/
def insertNumber {α : Type} (x : Nat × α) : List (Nat × α) → List (Nat × α)
  | [] => [x]
  | y :: r => if x.1 ≤ y.1 then x :: y :: r else y :: insertNumber x r

/-- Numbered items in the order of their numbers. -/
def byNumber {α : Type} (l : List (Nat × α)) : List (Nat × α) := l.foldr insertNumber []

/-- The requests listed for a granule, in order of arrival: number, slot and request. -/
def waiters (s : State) (loc : Nat) : List (Nat × Nat × Waiter) :=
  byNumber (s.slots.filterMap (fun e => match e.2.wait with | .listed k l _ w => if l == loc then some (k, e.1, w) else none | _ => none))

/-- One pass over a granule's waiters: each whose condition holds when its turn comes is performed, the rest go on waiting (R176). -/
def servePass (loc : Nat) (s : State) : State :=
  (waiters s loc).foldl (fun s x =>
    if x.2.2.ready s loc then
      let (v, bad, s) := x.2.2.perform (coreOf x.2.1) loc s
      s.modSlot x.2.1 (fun t => { t with wait := .served loc v bad })
    else s) s

/-- Passes repeated while any waiter can be performed: a pass may change the bit again. DEDUCED (log 88). -/
def serveAll (loc : Nat) : Nat → State → State
  | 0, s => s
  | n + 1, s => if (waiters s loc).any (fun x => x.2.2.ready s loc) then serveAll loc n (servePass loc s) else s

/-- The controller looks at a granule's waiters (R176, R186). -/
def serve (loc : Nat) (s : State) : State := serveAll loc s.slots.length s

/-- A full-empty bit set or cleared: when it changes, the controller takes the granule's waiters (R176). -/
def changeFe (s : State) (loc : Nat) (b : Bool) : State :=
  if feOf s loc == b then s else serve loc (setFe s loc b)

/-! ### Byte-counting barriers, continued -/

/-- An object after a credit or an arming: it fires when due (R186). -/
def cbarSettle (launch ginst vcore va loc : Nat) (due : Bool) (c : Cbar) (s : State) : State :=
  let fire := due && !c.fired && decide (c.expect ≤ c.arrived)
  let c' := if fire then { c with fired := true } else c
  let s := homePoke s loc none c'.bytes
  serve loc (if fire && c.rtag != 0xFFFF then netPush (fireItem s launch ginst vcore va c') s else s)

/-- A credit of `n` bytes (R186). An object with EXPECT 0 was never armed, or has fired already. -/
def creditAt (launch ginst vcore va loc n : Nat) (s : State) (spill : Bool := false) : State :=
  let (o, s) := homeView spill loc 16 none s
  let c := Cbar.ofBytes o
  let a := if c.arrived + n < 2 ^ 48 then c.arrived + n else 2 ^ 48 - 1
  cbarSettle launch ginst vcore va loc (decide (0 < c.expect)) { c with arrived := a, overrun := c.overrun || decide (c.expect < a) } s

/-- The object after `cbarm` (R185). A `cbarm.set` writes the whole granule, and so clears its poison mark (R430). -/
def cbarmAt (launch ginst vcore va loc : Nat) (add : Bool) (v rt acore : Nat) (s : State) (spill : Bool := false) : State :=
  let (o, s) := homeView spill loc 16 none s
  let c := Cbar.ofBytes o
  let c' : Cbar :=
    if add then
      let e := c.expect + v
      { c with expect := e, rtag := rt, acore := acore, fired := c.fired && !decide (c.arrived < e) }
    else { expect := v, arrived := 0, fired := false, overrun := false, acore := acore, rtag := rt }
  cbarSettle launch ginst vcore va loc true c' (if add then s else clearPoison s loc 16)

/-! ### L1 (R68, R195, R402) -/

/-- Lines a core's L1 has room for (R5, R338, R364): 512 for each 32 KiB of the least L1 size of the launches that have a slot or a live instance there, since the
rest of its SRAM is the scratchpad that one of them may use; 64 KiB on a control core. DESIGN CHOICE (log 115). -/
def l1Lines (s : State) (core : Nat) : Nat :=
  if isCtl core then 1024
  else
    let sizes := (List.range 4).filterMap (fun k => let t := s.slot (core + k)
      match t.launch with | some l => if t.st != .free then some (s.launch l).l1 else none | none => none) ++ (liveOn s core).map (fun g => (s.launch g.launch).l1)
    512 * sizes.foldl (fun n k => if k < n then k else n) (sizes.headD 0)

/-- A core's logical time (R402). -/
def logicalTime (s : State) (core : Nat) : Nat := s.cycle + (s.core core).ahead

/-- What a lease of the core holds for `n` bytes under a key, when it has not ended (R195, R402) and was not read before the cycle `since` (R210): the bytes, and the first
location with a poison mark among them. A line that a slot of the core holds is read at the home (R179). -/
def leased (s : State) (core : Nat) (q : Phys) (n : Nat) (since : Nat := 0) : Option (List Byte × Option Nat) :=
  if isSpad q.loc || s.slots.any (fun e => coreOf e.1 == core && (match e.2.hold with | some (l, _) => l == q.loc / 64 | none => false)) then none
  else (((s.core core).l1.take (l1Lines s core)).find? (fun l => l.loc == q.loc / 64 * 64 && l.key == q.key && decide (logicalTime s core < l.expiry) && decide (since ≤ l.at_))).map (fun l =>
    ((l.bytes.drop (q.loc % 64)).take n,
     ((granules q.loc n).find? (fun g => l.marks.contains g)).map (fun g => if g * 16 < q.loc then q.loc else g * 16)))

/-- The lines of an L1 in the order in which it keeps them (R68): those with `.kp` first, those with `.lu` last, and the newest first among equals. DESIGN CHOICE
(log 109). -/
def l1Order (l : List Lease) : List Lease :=
  l.filter (fun x => x.hint == 2) ++ l.filter (fun x => x.hint != 2 && x.hint != 3) ++ l.filter (fun x => x.hint == 3)

/-- A line leased into a core's L1 (R402): not while a slot elsewhere holds it (R179). The lease ends 1,024 ticks after the read, or 32,000
cycles for a line of another device (R412); the L1 keeps as many lines as it has room for. -/
def leaseLine (core loc : Nat) (key : Option Nat) (room : Nat) (s : State) (hint : Nat := 0) : Option State :=
  let line := loc / 64 * 64
  if isSpad loc || heldElsewhere s core loc || room = 0 then none
  else
    let l : Lease := { loc := line, at_ := s.cycle, hint := hint, key := key, bytes := tableView s line (homeRead s line 64 key)
                       marks := (granules line 64).filter (poisoned s), expiry := logicalTime s core + (if isHbm loc then 1024 else 32000) }
    some (s.modCore core (fun c => { c with l1 := (l1Order (l :: c.l1.filter (fun x => x.loc != line && decide (s.cycle + c.ahead < x.expiry)))).take room }))

/-- A line leaves a core's L1 for want of room: one that no other would leave before (R68). -/
def unleaseLine (core loc : Nat) (s : State) : Option State :=
  let line := loc / 64 * 64
  let rank := fun (l : Lease) => if l.hint = 2 then 2 else if l.hint = 3 then 0 else 1
  let l1 := (s.core core).l1
  match l1.find? (fun l => l.loc == line) with
  | some x => if l1.all (fun y => decide (rank x ≤ rank y)) then some (dropLine core line s) else none
  | none => none

/-- What the HINT of an access of a core leaves (R68): of the line in its die's L2; and in its L1, where the access allocates the line, but for `.stm` (1), or finds it there. -/
def allocate (core hint : Nat) (q : Phys) (s : State) : State :=
  if isSpad q.loc then s
  else
    let s := hintLine (dieOf core) hint q.loc s
    match (s.core core).l1.find? (fun l => l.loc == q.loc / 64 * 64) with
    | some l =>
      if l.hint == hint then s
      else s.modCore core (fun c => { c with l1 := l1Order (c.l1.map (fun x => if x.loc == l.loc then { x with hint := hint } else x)) })
    | none => if q.sc || hint == 1 then s else (leaseLine core q.loc q.key (l1Lines s core) s hint).getD s

/-! ### The store buffer (R172, R173) -/

/-- The locations a buffered entry covers: first and count. -/
def PStore.span (x : PStore) : Nat × Nat :=
  match x.op with
  | .bytes b => (x.loc, b.length)
  | .bits _ _ _ => (x.loc, 1)
  | .atomic _ t _ => (x.loc, fmtWidth t / 8)
  | .cbarm _ _ _ _ | .fe _ => (x.loc, 16)

def overlaps (a n b m : Nat) : Bool := decide (a < b + m) && decide (b < a + n)
def PStore.touches (x : PStore) (loc n : Nat) : Bool := overlaps x.span.1 x.span.2 loc n

/-- The byte at a location after the buffered plain stores of the slot, the newest last. -/
def forwardByte (st : List PStore) (loc : Nat) (b : Byte) : Byte :=
  st.foldl (fun v x => match x.op with
    | .bytes l => if x.loc ≤ loc ∧ loc < x.loc + l.length then l.getD (loc - x.loc) 0 else v
    | _ => v) b

/-- A buffered entry that meets a poison mark at its home: it is not performed, and its act faults (R430). On a control core the trap comes when the home
answers. DEDUCED (log 113). -/
def storeFault (p : Nat) (x : PStore) (l : Nat) (s : State) : State :=
  let k : AKind := match x.op with | .bytes _ | .cbarm _ _ _ _ | .fe _ => .store | .bits _ _ _ | .atomic _ _ _ => .atomic
  let va := x.va + (l - x.loc)
  let lk := x.launch.getD 0
  if isCtl p then
    if (s.slot p).st == .active then raiseFault p (Cause.poison + k.code) (BitVec.ofNat 64 va) (some l) s else consumePoison s l (dieOf p) (s.slot p).ctl.pid 0 p
  else
    let s := consumePoison s l (dieOf p) (s.launch lk).part (s.launch lk).lid p
    actFault (if (s.slot p).act == x.act then some p else none) lk
      { cause := Cause.poison + k.code, detail := BitVec.ofNat 64 va, where_ := p, ginst := (s.ginst x.ginst).num } s

/-- The first mark that keeps a buffered entry from being performed (R430): of a granule it writes in part, or reads. -/
def PStore.marked (x : PStore) (s : State) : Option Nat :=
  match x.op with
  | .cbarm true _ _ _ => poisonIn s x.loc 16
  | .fe _ => none
  | _ => poisonPart s x.span.1 x.span.2

/-- What a buffered entry without such a mark does at its home (R172, R177, R185). -/
def performOp (p : Nat) (x : PStore) (s : State) : State :=
  let q : Phys := { loc := x.loc, key := x.key }
  let c := some (coreOf p)
  match x.op with
  | .bytes b => homeStore c q b s
  | .bits off w v =>
    let (o, s) := homeView x.spill x.loc 1 x.key s
    let old := ofLe o
    let new := old - bitsN old (off + w - 1) off * 2 ^ off + v % 2 ^ w * 2 ^ off
    homeStore c q (leBytes 1 new) s
  | .atomic op t v =>
    let n := fmtWidth t / 8
    let (o, s) := homeView x.spill x.loc n x.key s
    let (new, fl) := atomicNew op t (ofLe o) v.toNat
    let s := homeStore c q (leBytes n new) s
    if (s.slot p).act = x.act ∧ (s.slot p).st ≠ .free then raiseFlags p fl s else s
  | .fe full => changeFe s x.loc full
  | .cbarm add v rt acore =>
    if add && decide (2 ^ 48 ≤ (Cbar.ofBytes (homeView x.spill x.loc 16 none s).1).expect + v) then
      actFault (some p) (x.launch.getD 0) { cause := Cause.cbar, detail := 0, where_ := p, ginst := (s.ginst x.ginst).num } s
    else cbarmAt (x.launch.getD 0) x.ginst x.vcore x.va x.loc add v rt acore s x.spill

/-- What a buffered entry does at its home; a store allocates its line as a load does (R68). -/
def performAt (p : Nat) (x : PStore) (s : State) : State :=
  match x.marked s with
  | some l => storeFault p x l s
  | none =>
    let s := performOp p x s
    match x.op with
    | .bytes _ | .bits _ _ _ => allocate (coreOf p) x.hint { loc := x.loc, key := x.key } s
    | _ => s

/-- Whether an entry is of a `setfe`. -/
def PStore.isFe (x : PStore) : Bool := match x.op with | .fe _ => true | _ => false

/-- Whether the `i`-th buffered entry may be performed now: no earlier entry touches its bytes or is one that it depends on (R205), those of a `setfe` go in their order, a release store comes after every
earlier entry, and no other slot holds its line. -/
def storeReady (s : State) (p i : Nat) : Bool :=
  let st := (s.slot p).store
  match st[i]? with
  | none => false
  | some x => (st.take i).all (fun y => !x.release && !y.touches x.span.1 x.span.2 && !x.after.contains y.id && !(x.isFe && y.isFe)) && !heldByOther s (some p) x.loc

/-- Perform the `i`-th buffered entry of a slot. -/
def performStore (s : State) (p i : Nat) : Option State :=
  if storeReady s p i then
    match (s.slot p).store[i]? with
    | none => none
    | some x => some (performAt p x (s.modSlot p (fun t => { t with
        store := t.store.eraseIdx i, order := t.order.performed x.id s.cycle, loads := t.loads.map (fun y => { y with floor := y.floor.performed x.id s.cycle }) })))
  else none

/-- An instruction that is a release or a fence waits until the slot's earlier accesses are performed (R180, R181, R205). -/
def storesDone (p : Nat) : Act Unit := do
  let t ← Act.slot p
  Act.ready t.store.isEmpty

/-- An entry put into the slot's store buffer. -/
def bufferStore (p va : Nat) (q : Phys) (op : PendOp) (release : Bool) (hint : Nat := 0) : Act Unit := do
  let k ← Act.fresh
  let s ← Act.look id
  Act.modSlot p (fun t =>
    let x : PStore := { id := k, spill := q.spill, hint := hint, after := t.order.srcs.ids, part := (whoSlot s p).part, launch := t.launch, act := t.act, ginst := t.ginst
                        vcore := t.vcore, va := va, loc := q.loc, key := q.key, level := q.level, op := op, release := release }
    { t with store := t.store ++ [x], order := t.order.access x.span.1 x.span.2 s.cycle { ids := [k] } })

/-- A write that is performed as its instruction completes comes after the buffered ones that its operands or its guards depend on (R205). -/
def pastSources (p : Nat) : Act Unit := do
  let t ← Act.slot p
  Act.ready (t.past t.order.srcs)

/-- The slot has performed a write of `n` bytes now. -/
def noteWrite (p loc n : Nat) : Act Unit := Act.upd (fun s => s.modSlot p (Slot.wrote loc n s.cycle))

/-- An acquire at a scope (R402). -/
def acquireAt (p scope : Nat) : Act Unit := Act.upd (acquired p scope)

/-- The scope of the launch's tier (R140, R191). -/
def acquireTier (p : Nat) : Act Unit := do
  let s ← Act.look id
  acquireAt p (tierOf s (s.slot p))

/-! ### Loads and stores of a slot -/

/-- The region a slot's global accesses belong to (R190). -/
def regionOf (t : Slot) (q : Phys) : Option Nat := if isSpad q.loc then none else t.region

/-- The region that a read by the act of a slot waits for (R281): one it has met with DEPTH 8 and that has neither committed nor left its
domain, be it in RESTART; or one of DEPTH 8 whose value the read would take. DEDUCED (log 87). -/
def readWaits (s : State) (p rs gran : Nat) : Option Nat :=
  let deep := match ownVersion s rs gran, forwardFrom s rs gran with
    | none, some v => if 8 ≤ (s.rslot v.rslot).depth then some v.rslot else none
    | _, _ => none
  match (s.slot p).wait with
  | .behind w g => if (s.rslot w).live && (s.rslot w).gen == g then some w else deep
  | _ => deep

/-- A region read of `n` bytes within one granule (R277): versions first, else the committed value, which may be poisoned. -/
def regionLoad (p rs : Nat) (k : AKind) (va : Nat) (q : Phys) (n : Nat) : Act (List Byte) := do
  if !isHbm q.loc then Act.fault Cause.regionOp
  else
    let s ← Act.look id
    Act.ready (!heldByOther s (some p) q.loc)
    match readWaits s p rs (q.loc / 16) with
    | some w => fun _ => .error (.behind w (s.rslot w).gen)
    | none =>
      match regionRead s rs (q.loc / 16) with
      | none => Act.block
      | some (s', r) =>
        Act.upd (fun _ => s')
        match r with
        | some b => pure ((b.drop (q.loc % 16)).take n)
        | none =>
          Act.upd (dropLine (coreOf p) q.loc)
          homeLoad (some p) k va q n

/-- A region write within one granule (R277, R278): a partial write reads the granule first. -/
def regionStore (p rs : Nat) (k : AKind) (va : Nat) (q : Phys) (b : List Byte) : Act Unit := do
  if !isHbm q.loc then Act.fault Cause.regionOp
  else
    let g := q.loc / 16
    let base ← if b.length = 16 then pure b
               else regionLoad p rs k (va - q.loc % 16) { q with loc := g * 16 } 16
    let s ← Act.look id
    Act.ready (!heldByOther s (some p) q.loc)
    match regionWrite s rs g base q.key (q.loc % 16) b with
    | none => Act.block
    | some s' => Act.upd (fun _ => { s' with versions := s'.versions.map (fun x => if x.rslot == rs && x.gran == g then { x with va := va, level := q.level } else x) })

/-- The bytes, within one granule, that a load of a slot outside regions reads at a place: the slot's own buffered stores are returned, without a read at the home
where one writes the whole granule; an acquire, or a load of an SC page, waits until they are performed (R210); a plain load of a default page may return
a leased value, and one of an SC page passes the core's leases, so that no later load is older than it (R210). DEDUCED (log 114). One whose address is ordered behind `f`
waits for the writes that it names and returns no older lease (log 131). The bytes of a spill area are free values (R122). -/
def loadAt (p : Nat) (k : AKind) (plain : Bool) (va : Nat) (q : Phys) (n : Nat) (hint : Nat := 0) (f : Floor := {}) : Act (List Byte) := do
  let s ← Act.look id
  let t := s.slot p
  Act.ready (t.past f && t.store.all (fun x => match x.op with | .bytes _ => (plain && !q.sc) || !x.touches q.loc n | _ => !x.touches q.loc n))
  if q.spill then spillRead q.loc n
  else do
    let b ← if t.store.any (fun x => x.covers (q.loc / 16)) then pure (List.replicate n 0) else
      match (if plain && !q.sc then leased s (coreOf p) q n f.since else none) with
      | some (b, none) => pure b
      | some (_, some l) => Act.poisonFault k (va + (l - q.loc)) l
      | none => do
        Act.upd (dropLine (coreOf p) q.loc)
        homeLoad (some p) k va q n
    Act.upd (allocate (coreOf p) hint q)
    if q.sc then acquireAt p 3
    Act.upd (hasRead p q.loc n f)
    pure (b.mapIdx (fun i v => forwardByte t.store (q.loc + i) v))

/-- A load of `n` bytes that lie in one granule (R171 to R173): the slot's own buffered stores are returned; a plain load of a default page
may return a leased value. -/
def loadPiece (p : Nat) (k : AKind) (plain : Bool) (va n : Nat) (hint : Nat := 0) : Act (List Byte) := do
  let s ← Act.look id
  let q ← resolve (whoSlot s p) k Need.read va n
  let t := s.slot p
  match regionOf t q with
  | some rs => do
    Act.ready (t.past t.order.addr)
    let b ← regionLoad p rs k va q n
    Act.upd (hintLine (dieOf p) hint q.loc)
    pure b
  | none =>
    Act.ready (t.loads.all (fun x => !overlaps x.loc x.bytes q.loc n && !(q.sc && x.sc)))
    loadAt p k plain va q n hint t.order.addr

/-- The pieces of a range that do not cross a 16-byte boundary. `fuel` is the number of granules. -/
def pieces : Nat → Nat → Nat → List (Nat × Nat)
  | 0, _, _ => []
  | f + 1, va, n =>
    if n = 0 then []
    else
      let k := if n < 16 - va % 16 then n else 16 - va % 16
      (va, k) :: pieces f (va + k) (n - k)

def piecesOf (va n : Nat) : List (Nat × Nat) := pieces (n / 16 + 2) va n

/-- An ordinary load of any number of bytes (R130, R163, R359). -/
def loadBytes (p va n : Nat) : Act (List Byte) := do
  let parts ← (piecesOf va n).mapM (fun x => loadPiece p .load true x.1 x.2)
  pure parts.flatten

/-- A store of bytes that lie in one granule (R173, R190): into the store buffer; performed at once in a region's granule, in scratchpad while a
region is open, and on an SC page. -/
def storePiece (p va : Nat) (b : List Byte) (release : Bool) (hint : Nat := 0) : Act Unit := do
  let s ← Act.look id
  let q ← resolve (whoSlot s p) .store Need.write va b.length
  let t := s.slot p
  match regionOf t q with
  | some rs => do
    Act.ready ((!release || t.store.isEmpty) && t.past t.order.srcs)
    regionStore p rs .store va q b
  | none =>
    Act.ready (t.loads.all (fun x => !overlaps x.loc x.bytes q.loc b.length && !(q.sc && x.sc)))
    poisonGuard .store va q b.length t.store
    if q.sc || t.region.isSome then
      Act.ready (t.store.all (fun x => !x.touches q.loc b.length) && (!release || t.store.isEmpty) && !heldByOther s (some p) q.loc)
      pastSources p
      Act.upd (fun s => allocate (coreOf p) hint q (homeStore (some (coreOf p)) q b s))
      noteWrite p q.loc b.length
    else bufferStore p va q (.bytes b) release hint

/-- A sub-byte store (R172): one masked read-modify-write at the home of its byte. -/
def subByteStore (p va off w v : Nat) (hint : Nat := 0) : Act Unit := do
  let s ← Act.look id
  let q ← resolve (whoSlot s p) .atomic Need.both va 1
  let t := s.slot p
  match regionOf t q with
  | some rs =>
    pastSources p
    let b ← regionLoad p rs .atomic va q 1
    let old := ofLe b
    regionStore p rs .atomic va q (leBytes 1 (old - bitsN old (off + w - 1) off * 2 ^ off + v % 2 ^ w * 2 ^ off))
  | none =>
    Act.ready (t.loads.all (fun x => !overlaps x.loc x.bytes q.loc 1 && !(q.sc && x.sc)))
    poisonGuard .atomic va q 1 t.store
    if q.sc || t.region.isSome then
      Act.ready (t.store.all (fun x => !x.touches q.loc 1) && !heldByOther s (some p) q.loc)
      pastSources p
      Act.upd (fun s => allocate (coreOf p) hint q (performOp p { loc := q.loc, spill := q.spill, key := q.key, op := .bits off w v } s))
      noteWrite p q.loc 1
    else bufferStore p va q (.bits off w v) false hint

/-- An atomic read-modify-write performed at the home now (R177): the old bytes. On an SC page it passes the core's leases, as a load of one does (R210). -/
def atomicNow (p va n : Nat) (f : List Byte → List Byte) : Act (List Byte) := do
  let s ← Act.look id
  let q ← resolve (whoSlot s p) .atomic Need.both va n
  pastSources p
  let t := s.slot p
  match regionOf t q with
  | some rs =>
    let b ← regionLoad p rs .atomic va q n
    regionStore p rs .atomic va q (f b)
    pure b
  | none =>
    Act.ready (t.store.all (fun x => !x.touches q.loc n))
    let b ← homeLoad (some p) .atomic va q n
    Act.upd (homeStore (some (coreOf p)) q (f b))
    if q.sc then acquireAt p 3
    Act.upd (hasRead p q.loc n t.order.addr)
    noteWrite p q.loc n
    pure b

/-! ### Engine accesses -/

/-- The die from which a unit's access comes; Ringmasters, Carousels and ports stand at the home. -/
def Who.dieAt (w : Who) (loc : Nat) : Nat := if w.unit == engineUnit 4 0 then homeDie loc else dieOf w.core

/-- An engine's read of any number of bytes (kind engine). -/
def engineRead (w : Who) (va n : Nat) : Act (List Byte) := do
  let parts ← (piecesOf va n).mapM (fun x => do
    let q ← resolve w .engine Need.read x.1 x.2
    let b ← homeLoad none .engine x.1 q x.2
    Act.upd (dirRequest (w.dieAt q.loc) false q.loc)
    pure b)
  pure parts.flatten

/-- A run of an engine's beat, bytes that lie together: every granule is checked before any is written; `whole` tells the granules, by address, of which the beat
writes every byte; `hint` is the HINT that governs its lines (R68, R182). Gives the granules written. -/
def engineRun1 (w : Who) (whole : Nat → Bool) (va : Nat) (b : List Byte) (hint : Option Nat := none) : Act (List (Nat × Nat)) := do
  let qs ← (piecesOf va b.length).mapM (fun x => do
    let q ← resolve w .engine Need.write x.1 x.2
    let s ← Act.look id
    Act.ready (!heldByOther s none q.loc)
    if s.poison.isEmpty || whole (x.1 / 16) then pure () else poisonGuard .engine x.1 q x.2
    pure (q, x))
  qs.forM (fun y => Act.upd (fun s =>
    let s := homeStoreFrom (w.dieAt y.1.loc) none y.1 ((b.drop (y.2.1 - va)).take y.2.2) s (if w.unit == engineUnit 4 0 then 256 else writerOf w.core)
    match hint with | some h => hintLine (w.dieAt y.1.loc) h y.1.loc s | none => s))
  pure (qs.map (fun y => (y.2.1 / 16, y.1.loc / 16 * 16)))

/-- An engine's beat of any number of runs. When all its bytes are written, the scratchpad granules it touches become full, and the marks of those it writes whole
are cleared (R174, R430). -/
def engineBeat (w : Who) (runs : List (Nat × List Byte)) (hint : Option Nat := none) : Act Unit := do
  let whole := fun (g : Nat) => (List.range 16).all (fun i => runs.any (fun r => decide (r.1 ≤ 16 * g + i) && decide (16 * g + i < r.1 + r.2.length)))
  let gs ← runs.mapM (fun r => engineRun1 w whole r.1 r.2 hint)
  Act.upd (fun s => gs.flatten.foldl (fun s g =>
    let s := if s.poison.isEmpty || !whole g.1 then s else clearPoison s g.2 16
    if isSpad g.2 then changeFe s g.2 true else s) s)

/-- An engine's beat of one run. -/
def engineWrite (w : Who) (va : Nat) (b : List Byte) (hint : Option Nat := none) : Act Unit := engineBeat w [(va, b)] hint

/-- An engine's read from an own-scratchpad offset: no other window is reached. -/
def ownRead (w : Who) (va n : Nat) : Act (List Byte) :=
  if peerBase ≤ va then Act.accessFault Cause.space .engine va else engineRead w va n

/-- An engine's beat at own-scratchpad offsets. -/
def ownBeat (w : Who) (runs : List (Nat × List Byte)) : Act Unit :=
  match runs.find? (fun r => decide (peerBase ≤ r.1)) with
  | some r => Act.accessFault Cause.space .engine r.1
  | none => engineBeat w runs

/-- The credit of a beat's bytes to the entry's object; all ones names none (R186). -/
def engineCredit (w : Who) (launch va n : Nat) : Act Unit := do
  let q ← resolve w .engine Need.both va 16
  let s ← Act.look id
  match poisonIn s q.loc 16 with
  | some l => Act.poisonFault .engine va l
  | none => Act.upd (fun s => creditAt launch w.ginst w.vcore va q.loc n s q.spill)

end Sys2Proof.Machine
end

