-- ==== Sys2Proof/Machine/Operands.lean ====
section
/-! DEFINITION. Operand forms (R70 to R73): registers, channel entries and stream vectors as sources and destinations, immediates; and the
stream registers themselves (R130 to R132). -/

namespace Sys2Proof.Machine

/-! ### Streams -/

/-- The fields of a stream descriptor (R130). -/
structure SDesc where
  base : Nat
  fmt : Nat
  ndim : Nat
  stride : List Int
  extent : List Nat
  deriving DecidableEq, Repr

def SDesc.ofBytes (b : List Byte) : SDesc :=
  { base := fieldAt b 0 8, fmt := fieldAt b 8 1, ndim := fieldAt b 9 1
    stride := (List.range 5).map (fun d => valN true 32 (fieldAt b (16 + 4 * d) 4))
    extent := (List.range 5).map (fun d => fieldAt b (36 + 4 * d) 4) }

/-- Formats whose vectors are rows of payload bytes (R131). -/
def rowMode (f : Nat) : Bool := f == 0x08 || isLb f

/-- The checks of `sset` on a descriptor (R130). -/
def sdescOk (b : List Byte) : Bool :=
  let d := SDesc.ofBytes b
  let used := List.range d.ndim
  zeroAt b 10 6 && zeroAt b 56 8 && (typW d.fmt || rowMode d.fmt) && decide (1 ≤ d.ndim) && decide (d.ndim ≤ 5) &&
  used.all (fun k => d.extent.getD k 0 != 0) &&
  (if rowMode d.fmt then d.stride.getD 0 0 == 0 && decide (d.extent.getD 0 0 ≤ 16)
   else used.all (fun k => d.stride.getD k 0 % (fmtWidth d.fmt / 8 : Nat) == 0))

/-- Elements in all (R131). -/
def SDesc.total (d : SDesc) : Nat := (List.range d.ndim).foldl (fun t k => t * d.extent.getD k 0) 1

/-- The position of indices in index order. -/
def SDesc.position (d : SDesc) (idx : List Nat) : Nat :=
  ((List.range d.ndim).foldl (fun (a : Nat × Nat) k => (a.1 + a.2 * idx.getD k 0, a.2 * d.extent.getD k 0)) (0, 1)).1

/-- The indices of a position; the last dimension holds its extent at the end. -/
def SDesc.indices (d : SDesc) (n : Nat) : List Nat :=
  ((List.range 5).foldl (fun (a : List Nat × Nat) k =>
    if k + 1 < d.ndim then (a.1 ++ [a.2 % d.extent.getD k 0], a.2 / d.extent.getD k 0)
    else if k + 1 = d.ndim then (a.1 ++ [a.2], 0) else (a.1 ++ [0], 0)) ([], n)).1

/-- The address of the element or row vector at a position (R131). -/
def SDesc.address (d : SDesc) (n : Nat) : Nat :=
  let idx := d.indices n
  let off : Int := (List.range d.ndim).foldl (fun a k =>
    let i : Int := (idx.getD k 0 : Nat)
    if rowMode d.fmt then (if k = 0 then a + 16 * i else a + 256 * i * d.stride.getD k 0)
    else a + i * d.stride.getD k 0) 0
  (((d.base : Int) + off) % ((2 ^ 64 : Nat) : Int)).toNat

/-- Elements one vector takes: one row vector, or 16, 8, 4 or 2 elements. -/
def SDesc.perVector (d : SDesc) : Nat := if rowMode d.fmt then 1 else 128 / fmtWidth d.fmt
/-- Bytes of one access. -/
def SDesc.accessBytes (d : SDesc) : Nat := if rowMode d.fmt then 16 else fmtWidth d.fmt / 8

def Slot.strm (t : Slot) (n : Nat) : Strm := KV.get {} t.strms n
def Slot.setStrm (t : Slot) (n : Nat) (x : Strm) : Slot := { t with strms := KV.set t.strms n x }

/-- A stream advanced by `k` vectors; past its end it is empty (R132). -/
def Strm.advance (x : Strm) (k : Nat) : Strm :=
  if !x.valid then x
  else
    let d := SDesc.ofBytes x.desc
    let n := d.position x.idx + k * d.perVector
    { x with idx := d.indices (if n < d.total then n else d.total) }

/-- The addresses of the next vector's elements; STREAM when none is left (R131). -/
def streamNext (p n : Nat) : Act (SDesc × List Nat) := do
  let t ← Act.slot p
  let x := t.strm n
  let d := SDesc.ofBytes x.desc
  let pos := d.position x.idx
  Act.require (x.valid && decide (pos < d.total)) Cause.stream
  let count := if d.total - pos < d.perVector then d.total - pos else d.perVector
  pure (d, (List.range count).map (fun j => d.address (pos + j)))

/-- The next vector of a stream as a source: missing lanes are zero; the stream advances (R72, R131). -/
def streamGet (p n : Nat) : Act Vec := do
  let (d, addrs) ← streamNext p n
  let parts ← addrs.mapM (fun a => do
    if a % d.accessBytes != 0 then Act.accessFault Cause.misalign .load a else loadPiece p .load true a d.accessBytes)
  Act.modSlot p (fun t => t.setStrm n ((t.strm n).advance 1))
  pure (vecOfBytes parts.flatten)

/-- A vector stored through a stream: only the remaining elements are written (R131). -/
def streamPut (p n : Nat) (v : Vec) : Act Unit := do
  let (d, addrs) ← streamNext p n
  let bytes := bytesOfVec v
  (addrs.mapIdx (fun j a => (j, a))).forM (fun x => do
    if x.2 % d.accessBytes != 0 then Act.accessFault Cause.misalign .store x.2
    else storePiece p x.2 ((bytes.drop (x.1 * d.accessBytes)).take d.accessBytes) false)
  Act.modSlot p (fun t => t.setStrm n ((t.strm n).advance 1))

/-! ### Sources and destinations (R71, R72) -/

/-- A scalar source: a register, or bits [63:0] of the next entry of a channel. -/
def readX (p : Nat) (o : Opnd) : Act Word :=
  match o with
  | .reg n => Act.look (fun s => (s.slot p).x n.val)
  | .chan q => do let v ← chanHead p q.val true; pure (v.setWidth 64)
  | _ => pure 0

/-- A scalar destination: a register, or one channel entry. -/
def writeX (p : Nat) (o : Opnd) (w : Word) : Act Unit :=
  match o with
  | .reg n => Act.modSlot p (fun t => t.setX n.val w)
  | .chan q => chanPut p q.val (w.setWidth 128)
  | _ => pure ()

/-- A vector source: a register, a channel entry, or a stream vector. -/
def readV (p : Nat) (o : Opnd) : Act Vec :=
  match o with
  | .reg n => Act.look (fun s => (s.slot p).vreg n.val)
  | .chan q => chanHead p q.val true
  | .strm n => streamGet p n.val
  | .none => pure 0

/-- The value of a vector source that is not taken yet. -/
def peekV (p : Nat) (o : Opnd) : Act Vec := fun s => (readV p o s).map (fun r => (r.1, s))

/-- A vector source whose value has been used is taken: the channel entry is removed, the stream advances. -/
def takeV (p : Nat) (o : Opnd) : Act Unit :=
  match o with
  | .chan q => do let _ ← chanHead p q.val true; pure ()
  | .strm n => Act.modSlot p (fun t => t.setStrm n.val ((t.strm n.val).advance 1))
  | _ => pure ()

/-- A vector destination. -/
def writeV (p : Nat) (o : Opnd) (v : Vec) : Act Unit :=
  match o with
  | .reg n => Act.modSlot p (fun t => t.setV n.val v)
  | .chan q => chanPut p q.val v
  | .strm n => streamPut p n.val v
  | .none => pure ()

/-- `m` vectors of one wide operand (R151): consecutive registers, successive entries, or successive stream vectors. -/
def readWide (p m : Nat) (o : Opnd) : Act (List Vec) :=
  match o with
  | .reg n => Act.look (fun s => (List.range m).map (fun i => (s.slot p).vreg (n.val + i)))
  | _ => (List.range m).mapM (fun _ => readV p o)

def readP (p : Nat) (o : Opnd) : Act Bool :=
  match o with
  | .reg n => Act.look (fun s => (s.slot p).p n.val)
  | _ => pure false

def writeP (p : Nat) (o : Opnd) (b : Bool) : Act Unit :=
  match o with
  | .reg n => Act.modSlot p (fun t => t.setP n.val b)
  | _ => pure ()

/-- The register number of an operand; 0 for another operand. -/
def regNo : Opnd → Nat | .reg n => n.val | _ => 0
def chanNo : Opnd → Nat | .chan q => q.val | _ => 0
def strmNo : Opnd → Nat | .strm n => n.val | _ => 0

/-- The sign-extended IMM32 (R73). -/
def sextImm (e : Enc) : Word := BitVec.ofInt 64 (valN true 32 e.imm32)

/-- opB (R111): X(B) in the 64-bit form, the sign-extended IMM32 in the 96-bit form. -/
def readB (p : Nat) (e : Enc) : Act Word := if e.isImm32 then pure (sextImm e) else readX p e.b

/-- The index operand of class 5 (R153): IMM32 zero-extended, or X of a field. -/
def readIdx (p : Nat) (e : Enc) (o : Opnd) : Act Nat :=
  if e.isImm32 then pure e.imm32 else do let w ← readX p o; pure w.toNat

/-- Flags raised by the instruction as it completes (R52). -/
def raise (p : Nat) (f : Fl) : Act Unit := Act.upd (raiseFlags p f)

/-- The channel faults of all operand fields of an instruction whose D is a destination (R128), and then the readiness of its channels (R72);
A and B each take `m` entries. -/
def operandsWide (p m : Nat) (e : Enc) : Act Unit := do
  chanCheck p [e.a, e.b, e.c, e.e] [e.d]
  let s ← Act.look id
  Act.ready (chansReady s p [(e.a, m), (e.b, m), (e.c, 1), (e.e, 1)] e.d)

/-- The same where every source takes one entry. -/
def operandsBound (p : Nat) (e : Enc) : Act Unit := operandsWide p 1 e

end Sys2Proof.Machine
end

