-- ==== Sys2Proof/Machine/Scalar.lean ====
section
/-! DEFINITION. Class 0: scalar arithmetic, logic, compare, select, address and bit instructions (R112 to R118). -/

namespace Sys2Proof.Machine

/-- The outcome type of every meaning. -/
abbrev Out := Host.Outcome State Fault Refusal

/-! ### Values -/

/-- val(v) of R113 for a word under a TYP. -/
def valW (t : Nat) (w : Word) : Int := valN (fmtSigned t) (fmtWidth t) w.toNat

/-- The exact integer of an arithmetic stem, and its flag (R113): DZ on a division by zero. -/
inductive Arith where
  | add | sub | mul | mulh | div | rem
  deriving DecidableEq, Repr

def Arith.exact (k : Arith) (n : Nat) (a b : Int) : Int × Fl :=
  match k with
  | .add => (a + b, Fl.none)
  | .sub => (a - b, Fl.none)
  | .mul => (a * b, Fl.none)
  | .mulh => (a * b / ((2 ^ n : Nat) : Int), Fl.none)
  | .div => if b = 0 then (-1, Fl.dz) else (Int.tdiv a b, Fl.none)
  | .rem => if b = 0 then (a, Fl.dz) else (a - b * Int.tdiv a b, Fl.none)

/-- The result register and the flags of a typed arithmetic instruction (R113). -/
def arith (k : Arith) (t : Nat) (sat : Bool) (a b : Word) : Word × Fl :=
  let n := fmtWidth t
  let sg := fmtSigned t
  let (x, f) := k.exact n (valW t a) (valW t b)
  let (y, g) := if sat then satInt sg n x else (x, Fl.none)
  (extend sg n (wrapN n y), f ||| g)

/-- The 64-bit logical and shift operations (R114). -/
inductive Logic where
  | and | or | xor | shl | shr | sra
  deriving DecidableEq, Repr

def logic (k : Logic) (inv : Bool) (a b : Word) : Word :=
  let b := if inv then ~~~b else b
  let n := b.toNat % 64
  match k with
  | .and => a &&& b
  | .or => a ||| b
  | .xor => a ^^^ b
  | .shl => a <<< n
  | .shr => a >>> n
  | .sra => a.sshiftRight n

/-- The comparison a VAR of `cmp` names (R115). -/
def compare (v t : Nat) (a b : Word) : Bool :=
  let x := valW t a
  let y := valW t b
  match v with
  | 0 => decide (x = y)
  | 1 => decide (x ≠ y)
  | 2 => decide (x < y)
  | 3 => decide (x ≤ y)
  | 4 => decide (y < x)
  | 5 => decide (y ≤ x)
  | 6 => (a &&& b).toNat % 2 ^ fmtWidth t != 0
  | _ => (a &&& b).toNat % 2 ^ fmtWidth t == 0

/-- The number of 1 bits among the low `n`. -/
def popcount : Nat → Nat → Nat
  | 0, _ => 0
  | n + 1, v => v % 2 + popcount n (v / 2)

/-- Leading zeros of an `n`-bit value; n when it is 0. -/
def clz (n v : Nat) : Nat := if v = 0 then n else n - 1 - Nat.log2 v

/-- Trailing zeros of an `n`-bit value; n when it is 0. -/
def ctz : Nat → Nat → Nat
  | 0, _ => 0
  | n + 1, v => if v % 2 = 1 then 0 else 1 + ctz n (v / 2)

/-- The result of `bit` (R118): `b` is opB and `c` is X(C). -/
def bitOp (v : Nat) (a b c : Word) : Word :=
  let pos := b.toNat % 64
  let w := b.toNat / 256 % 128
  let wd := if w < 64 - pos then w else 64 - pos
  let field := a.toNat / 2 ^ pos % 2 ^ wd
  match v with
  | 0 => BitVec.ofNat 64 field
  | 1 => if wd = 0 then 0 else extend true wd field
  | 2 => BitVec.ofNat 64 (c.toNat - c.toNat / 2 ^ pos % 2 ^ wd * 2 ^ pos + a.toNat % 2 ^ wd * 2 ^ pos)
  | 3 => BitVec.ofNat 64 (popcount 64 a.toNat)
  | 4 => BitVec.ofNat 64 (clz 64 a.toNat)
  | _ => BitVec.ofNat 64 (ctz 64 a.toNat)

/-! ### Shared bodies -/

/-- X(D) := f(X(A), opB), raising flags. -/
def scalarBody (e : Enc) (f : Word → Word → Word × Fl) (p : Nat) : Act Flow := do
  operandsBound p e
  let a ← readX p e.a
  let b ← readB p e
  let r := f a b
  raise p r.2
  writeX p e.d r.1
  pure .next

def arithBody (k : Arith) (e : Enc) : Nat → Act Flow := scalarBody e (arith k e.t (e.v == 1))
def logicBody (k : Logic) (e : Enc) : Nat → Act Flow := scalarBody e (fun a b => (logic k (e.v == 1) a b, Fl.none))

/-! ### Meanings -/

/-- `nop` only advances the program counter (R112). -/
def execNop (e : Enc) (s : State) : Out := issue 0x00 e (fun _ => pure .next) s

/-- `li` (R112). -/
def execLi (e : Enc) (s : State) : Out := issue 0x01 e (fun p => do
  writeX p e.d (match e.ext with | .imm64 v => v | _ => sextImm e)
  pure .next) s

def execAdd (e : Enc) (s : State) : Out := issue 0x02 e (arithBody .add e) s
def execSub (e : Enc) (s : State) : Out := issue 0x03 e (arithBody .sub e) s
def execMul (e : Enc) (s : State) : Out := issue 0x04 e (arithBody .mul e) s
def execMulh (e : Enc) (s : State) : Out := issue 0x05 e (arithBody .mulh e) s
def execDiv (e : Enc) (s : State) : Out := issue 0x06 e (arithBody .div e) s
def execRem (e : Enc) (s : State) : Out := issue 0x07 e (arithBody .rem e) s
def execAnd (e : Enc) (s : State) : Out := issue 0x08 e (logicBody .and e) s
def execOr (e : Enc) (s : State) : Out := issue 0x09 e (logicBody .or e) s
def execXor (e : Enc) (s : State) : Out := issue 0x0A e (logicBody .xor e) s
def execShl (e : Enc) (s : State) : Out := issue 0x0B e (logicBody .shl e) s
def execShr (e : Enc) (s : State) : Out := issue 0x0C e (logicBody .shr e) s
def execSra (e : Enc) (s : State) : Out := issue 0x0D e (logicBody .sra e) s

/-- `cmp` writes a predicate (R115). -/
def execCmp (e : Enc) (s : State) : Out := issue 0x0E e (fun p => do
  operandsBound p e
  let a ← readX p e.a
  let b ← readB p e
  writeP p e.d (compare e.v e.t a b)
  pure .next) s

/-- `sel` (R116): both sources are read, so a channel is consumed whichever is chosen. -/
def execSel (e : Enc) (s : State) : Out := issue 0x0F e (fun p => do
  operandsBound p e
  let a ← readX p e.a
  let b ← readX p e.b
  let c ← readP p e.c
  writeX p e.d (if c then a else b)
  pure .next) s

/-- `lea` (R117): with no A, the base is the instruction's own address. The spec gives the inbox buffer of code from a `sendc` payload no address: there the
base is the offset in the payload. DESIGN CHOICE (log 105). -/
def execLea (e : Enc) (s : State) : Out := issue 0x10 e (fun p => do
  let t ← Act.slot p
  let base ← if e.a == .none then pure (BitVec.ofNat 64 t.pc) else readX p e.a
  let b ← readB p e
  writeX p e.d (base + b * BitVec.ofNat 64 (2 ^ e.v))
  pure .next) s

/-- `bit` (R118). -/
def execBit (e : Enc) (s : State) : Out := issue 0x11 e (fun p => do
  operandsBound p e
  let a ← readX p e.a
  let b ← readB p e
  let c ← readX p e.c
  writeX p e.d (bitOp e.v a b c)
  pure .next) s

end Sys2Proof.Machine
end

