-- ==== Sys2Proof/Machine/Control.lean ====
section
/-! DEFINITION. Class 1: control transfer, the register window, the end of an act, waiting, trapping and the unprivileged control registers
(R13, R119 to R124). -/

namespace Sys2Proof.Machine

/-! ### Unbinding channels and ending an act (R13, R127) -/

/-- A channel's entries put at the head of its core's tag parking buffer, ahead of later arrivals for the same tag (R13). -/
def parkEntries (p : Nat) (c : Chan) (s : State) : State :=
  let t := s.slot p
  if c.entries.isEmpty then s
  else s.modCore (coreOf p) (fun x => { x with
    parking := ((List.zip c.entries c.arrivals).map (fun v => { ginst := t.ginst, tag := c.tag, data := v.1, launch := t.launch.getD 0, at_ := v.2 })) ++ x.parking })

/-- A channel becomes unbound: entries of an `.in` binding return to the parking buffer; those of an `.out` binding are still sent. -/
def unbindChan (p q : Nat) (s : State) : State :=
  let c := (s.slot p).chan q
  let s := if c.kind == .input && !isCtl p then parkEntries p c s else s
  s.modSlot p (fun t => { t with chans := KV.erase t.chans q })

def unbindAll (p : Nat) (s : State) : State := (List.range 8).foldr (fun q s => unbindChan p q s) s

/-- The view of an act closes (R244). -/
def closeView (p : Nat) (s : State) : State :=
  let t := s.slot p
  match t.view with
  | none => s
  | some (tab, _, _) =>
    (s.modTable tab (fun x => { x with views := x.views.filter (fun v => v.act != t.act) })).modSlot p (fun t => { t with view := none })

/-- Whether a slot's act belongs to a group copy and is live on the core (R380): ACTIVE, PARKED or HALTED, not a boundary context. -/
def Slot.liveIn (g : Nat) (t : Slot) : Bool := t.st != .free && !t.boundary && t.launch.isSome && t.ginst == g
def otherActs (s : State) (p : Nat) : Bool :=
  s.slots.any (fun e => e.1 != p && coreOf e.1 == coreOf p && e.2.liveIn (s.slot p).ginst)

/-- The record a FREE slot keeps: buffered stores of acts that have ended, and the context saved from it (R25, R372). -/
def Slot.freed (t : Slot) : Slot := { store := t.store, savedFrom := t.savedFrom, ctl := { level := 0 } }

/-- A boundary context: PARKED, with no act; it carries the core's share of the group copy (R380). -/
def Slot.boundaryCtx (t : Slot) : Slot :=
  { t.freed with st := .parked, boundary := true, launch := t.launch, ginst := t.ginst, vcore := t.vcore, act := t.act
                 actid := t.actid, actln := t.actln, feat := t.feat, tier := t.tier }

/-- The formula act of a wave has ended: its region waits for its commit point (R228, R276). -/
def formulaEnded (p : Nat) (s : State) : State :=
  let t := s.slot p
  match t.formula, t.region with
  | some f, some rs =>
    let s := s.modRslot rs (fun r => { r with st := .ending })
    s.modTable f.table (fun x => { x with waves := x.waves.map (fun w =>
      if w.num == f.wave then { w with acts := w.acts.map (fun a => if a.cell == f.cell then { a with st := .ended rs } else a) } else w) })
  | _, _ => s

/-- A tile row set to +0. -/
def clearRow (tile row : Nat) (m : Matrix) : Matrix :=
  { m with
    tiles := (List.range 16).foldl (fun t j => KV.erase t (tile * 256 + row * 16 + j)) m.tiles
    errs := List.filter (fun (x : Nat × Bool) => x.1 / 8 != tile * 16 + row) m.errs }

/-- Whether an entry is the drain that dispatched a row-handler act of a slot, and still waits for its row. -/
def Entry.awaits (t : Slot) (row : Nat) (e : Entry) : Bool :=
  e.dispatched && some e.org.launch == t.launch && e.org.ginst == t.ginst && e.org.vcore == t.vcore && e.rows.contains row

/-- KEEP of a drain. -/
def Entry.keeps (e : Entry) : Bool := testBit (fieldAt e.msg 59 1) 3

/-- A drain no longer waits for a row, whose act has ended. -/
def Entry.rowDone (row act : Nat) (e : Entry) : Entry := { e with rows := e.rows.filter (· != row), acts := e.acts ++ [act] }

/-- The core whose matrix unit works on the drain of a row-handler act: the act's own, where it does, or another, to which the unit has gone with another instance's
core part (R257, R272). -/
def drainCore (s : State) (p row : Nat) : Option Nat :=
  let t := s.slot p
  let here := fun (f : Entry → Bool) (c : Core) => match c.mx.queue with | e :: _ => f e | [] => false
  if here (Entry.awaits t row) (s.core (coreOf p)) then some (coreOf p)
  else match List.find? (fun (c : Nat × Core) => here (Entry.awaits t row) c.2) s.cores with
    | some c => some c.1
    | none => if here (fun e => e.dispatched && some e.org.launch == t.launch && e.rows.contains row) (s.core (coreOf p)) then some (coreOf p) else none

/-- The end of a row-handler act (R257): its row is +0 unless KEEP is set, and the drain no longer waits for it, on whatever core. A drain that is recorded with a saved
unit has its row cleared when the unit is restored. -/
def rowEnded (p : Nat) (s : State) : State :=
  let t := s.slot p
  match t.row with
  | none => s
  | some (row, tile) =>
    match drainCore s p row with
    | some core =>
      let keep := match (s.core core).mx.queue with | e :: _ => e.keeps | [] => true
      s.modCore core (fun c =>
        let m := if keep then c.mx else clearRow tile row c.mx
        { c with mx := { m with queue := match c.mx.queue with | e :: r => e.rowDone row t.act :: r | [] => [] } })
    | none =>
      if s.ginsts.any (fun (g : Nat × GInst) => g.2.heldMx.any (fun x => x.2.awaits t row)) then
        { s with ginsts := s.ginsts.map (fun (g : Nat × GInst) => (g.1, { g.2 with heldMx := g.2.heldMx.map (fun x => if x.2.awaits t row then (x.1, x.2.rowDone row t.act) else x) })) }
      else s

/-- Whether an act of a launch is live: on a slot, or saved and not yet restored (R25, R392). -/
def launchLive (s : State) (l : Nat) : Bool :=
  s.slots.any (fun e => e.2.ofLaunch l && !e.2.boundary) || s.saved.any (fun v => v.launch == l && !v.boundary) || decide (0 < (s.launch l).away)

/-- A launch whose instances are all placed is RUNNING with a live act and DRAINING without one (R24). -/
def launchSettle (l : Nat) (s : State) : State :=
  let live := launchLive s l
  s.modLaunch l (fun x => match x.st with
    | .running => if live then x else { x with st := .draining }
    | .draining => if live then { x with st := .running } else x
    | _ => x)

/-- The end of an act by `endact` (R13). -/
def endAct (p : Nat) (s : State) : State :=
  let s := rowEnded p (formulaEnded p s)
  let s := dropStaging [(s.slot p).act] (closeView p (unbindAll p s))
  let t := s.slot p
  match t.launch with
  | none => s.modSlot p Slot.freed
  | some l =>
    let park := (s.ginst t.ginst).parkReq && !otherActs s p
    launchSettle l (s.modSlot p (if park then Slot.boundaryCtx else Slot.freed))

/-! ### Control registers (R123) -/

/-- An unprivileged control register. ACTID and ACTLN read as zero on a control core (R338). -/
def crdValue (s : State) (p n : Nat) : Word :=
  let t := s.slot p
  match n with
  | 0 => if isCtl p then 0 else t.actid
  | 1 => if isCtl p then 0 else t.actln
  | 2 => t.fcs
  | 3 => t.wp
  | 4 => BitVec.ofNat 64 s.cycle
  | _ => t.rto

/-- The value a `cwr` or `pcwr` writes: whole, with bits set, or with bits cleared. -/
def cwrValue (v : Nat) (old w : Word) : Word := match v with | 0 => w | 1 => old ||| w | _ => old &&& ~~~w

/-- A write to RTO: TIMEOUT in bits [31:0], at least 16. -/
def rtoWrite (w : Word) : Word := let n := w.toNat % 2 ^ 32; BitVec.ofNat 64 (if n < 16 then 16 else n)

/-- A write of an unprivileged control register; read-only registers ignore it. -/
def cwrTo (n : Nat) (w : Word) (t : Slot) : Slot :=
  match n with
  | 2 => { t with fcs := w &&& Fcs.mask }
  | 5 => { t with rto := rtoWrite w }
  | _ => t

/-- The write made in a slot: a flag that it sets in FCS, clear before, also sets the sticky bit of the cluster (R53). That a flag written as 1 over 1
is not set anew is the model's choice. DESIGN CHOICE (log 103). -/
def cwrIn (p n : Nat) (w : Word) (s : State) : State :=
  let t := s.slot p
  let new : BitVec 6 := ((cwrTo n w t).fcs &&& ~~~t.fcs).extractLsb' 4 6
  let s := s.modSlot p (cwrTo n w)
  if new = 0 || isCtl p then s else s.modCluster (clusterOf p) (fun c => { c with sticky := c.sticky ||| new })

/-! ### The register window (R120 to R122) -/

/-- The slot after `call` with frame F (R121): a record pushed, the window moved, its new registers zero. -/
def Slot.called (t : Slot) (link f : Nat) : Slot :=
  let t := { t with frames := { link := link, callee := f, caller := t.frame } :: t.frames, offs := t.offs + f, frame := f }
  ((List.range f).map (fun i => 31 - i)).foldl (fun t n => t.setX n 0) t

/-- The slot after `ret`, and the link. -/
def Slot.returned (t : Slot) : Option (Nat × Slot) :=
  match t.frames with
  | [] => none
  | r :: rest => some (r.link, { t with frames := rest, offs := t.offs - r.callee, frame := r.caller })

/-- The act's live region. -/
def liveRegion (s : State) (t : Slot) : Option Nat := match t.region with
  | some rs => if (s.rslot rs).live && (s.rslot rs).act == t.act then some rs else none
  | none => none

/-! ### Meanings -/

/-- `br` (R119). -/
def execBr (e : Enc) (s : State) : Out := issue 0x20 e (fun p => do
  let t ← Act.slot p
  let a ← readX p e.a
  let taken := match e.v with | 0 => true | 1 => a == 0 | _ => a != 0
  if taken then goTo p (t.pc + (sextImm e).toNat) else pure .next) s

/-- `jmp` (R119). -/
def execJmp (e : Enc) (s : State) : Out := issue 0x21 e (fun p => do
  let t ← Act.slot p
  match e.ext with
  | .imm64 v => goTo p (t.pc + v.toNat)
  | _ => do let a ← readX p e.a; goTo p a.toNat) s

/-- `call` (R121). -/
def execCall (e : Enc) (s : State) : Out := issue 0x22 e (fun p => do
  let t ← Act.slot p
  let w := e.imm64
  let f := 4 * (w / 2 ^ 32 % 8)
  let off := (extend true 32 (w % 2 ^ 32)).toNat
  let base ← if testBit w 35 then readX p e.a else pure (BitVec.ofNat 64 t.pc)
  let flow ← goTo p (base.toNat + off)
  Act.require (t.frames.length != 32 && decide (24 + t.offs + f ≤ 192)) Cause.stack
  Act.modSlot p (fun t => t.called (nextOf e t.pc) f)
  pure flow) s

/-- `ret` (R121, R290). -/
def execRet (e : Enc) (s : State) : Out := issue 0x23 e (fun p => do
  let t ← Act.slot p
  match t.returned with
  | none => Act.fault Cause.stack
  | some (link, t') => do
    let low ← Act.look (fun s => match liveRegion s t with | some rs => decide (t'.frames.length < (s.rslot rs).callDepth) | none => false)
    Act.require (!low) Cause.regionOp
    Act.modSlot p (fun _ => t')
    goTo p link) s

/-- `loop` (R119). -/
def execLoop (e : Enc) (s : State) : Out := issue 0x24 e (fun p => do
  let t ← Act.slot p
  let x ← readX p e.d
  if x == 0 then pure .next
  else do
    writeX p e.d (x - 1)
    if x - 1 == 0 || regNo e.d == 0 then pure .next else goTo p (t.pc + (sextImm e).toNat)) s

/-- `endact` (R13). -/
def execEndact (e : Enc) (s : State) : Out := issue 0x25 e (fun p => do
  let s ← Act.look id
  let t := s.slot p
  Act.require ((liveRegion s t).isNone || t.formula.isSome) Cause.openRegion
  Act.upd (endAct p)
  pure .settled) s

/-- `yield` (R124): as SCH bit 63. -/
def execYield (e : Enc) (s : State) : Out :=
  issue 0x26 (if (s.slot s.cur).guards e then { e with yield := true } else e) (fun _ => pure .next) s

/-- The value of a scalar source that is not consumed yet. -/
def peekX (p : Nat) (o : Opnd) : Act Word :=
  match o with
  | .chan q => do let v ← chanHead p q.val false; pure (v.setWidth 64)
  | _ => readX p o

/-- `wait` (R124): not ready until its cycles from issue have passed. -/
def execWait (e : Enc) (s : State) : Out := issue 0x27 e (fun p => do
  operandsBound p e
  let s ← Act.look id
  let a ← peekX p e.a
  let n := if a.toNat < 2 ^ 32 - 1 then a.toNat else 2 ^ 32 - 1
  match (s.slot p).wait with
  | .until c =>
    Act.ready (decide (c ≤ s.cycle))
    let _ ← readX p e.a
    pure .next
  | _ =>
    if n = 0 then do
      let _ ← readX p e.a
      pure .next
    else do
      Act.modSlot p (fun t => { t with wait := .until (s.cycle + n) })
      Act.blockKeeping) s

/-- `wait.rep` (R124). -/
def execWaitRep (e : Enc) (s : State) : Out := issue 0x27 e (fun p => do
  operandsBound p e
  let t ← Act.slot p
  let a ← readX p e.a
  Act.ready (decide (t.replies ≤ a.toNat))
  pure .next) s

/-- `trap` (R124): the launch's status carries IMM32. -/
def execTrap (e : Enc) (s : State) : Out := issue 0x28 e (fun _ => Act.fault Cause.trap (BitVec.ofNat 64 e.imm32)) s

/-- `trap.brk` (R124): HALTED, with a debug event for the partition's scheduler level. The event's IMM32 is kept until the next one. DESIGN CHOICE (log 137). -/
def execTrapBrk (e : Enc) (s : State) : Out := issue 0x28 e (fun p => do
  Act.upd (fun s => s.modPart (partOf s p) (fun x => { x with pendDebug := true, debugValue := e.imm32 }))
  Act.upd (fun s => s.modSlot p (fun t => { t with st := .halted, halt := .brk, wdSaved := s.cycle }))
  pure .next) s

/-- `crd` (R123). -/
def execCrd (e : Enc) (s : State) : Out := issue 0x29 e (fun p => do
  let v ← Act.look (fun s => crdValue s p e.imm32)
  writeX p e.d v
  pure .next) s

/-- `cwr` (R123). -/
def execCwr (e : Enc) (s : State) : Out := issue 0x2A e (fun p => do
  operandsBound p e
  let a ← readX p e.a
  let old ← Act.look (fun s => crdValue s p e.imm32)
  Act.upd (cwrIn p e.imm32 (cwrValue e.v old a))
  pure .next) s

end Sys2Proof.Machine
end

