-- ==== Sys2Proof/Machine/Messages.lean ====
section
/-! DEFINITION. Class 2: route tags, channels, stream registers, messages and remote register access (R126 to R139). -/

namespace Sys2Proof.Machine

/-! ### Route tags (R125, R126) -/

/-- The most tags a core holds. -/
def maxTags : Nat := 1024

/-- The tag record of a number in a group copy's space on a core. -/
def tagOf (s : State) (core g n : Nat) : Option Tag := (s.core core).tags.find? (fun x => x.ginst == g && x.tag == n)

/-- Whether a tag is allocated to the launch of a slot's act on its core. -/
def ownsTag (s : State) (p n : Nat) : Bool :=
  let t := s.slot p
  match tagOf s (coreOf p) t.ginst n with
  | some x => some x.launch == t.launch
  | none => false

/-- The lowest free tag of the act's space; at most 1,024 are taken, so the first 1,025 numbers hold a free one. -/
def freeTag (s : State) (p : Nat) : Nat :=
  ((List.range (maxTags + 1)).find? (fun n => (tagOf s (coreOf p) (s.slot p).ginst n).isNone)).getD 0

/-- The route word of the act's own virtual core with a tag. -/
def ownRoute (t : Slot) (tag : Nat) : Nat := t.vcore * 2 ^ 16 + tag

/-- The channel of a slot on the core that a tag of a group copy is bound to: the slot and the channel. -/
def boundAt (s : State) (core g tag : Nat) : Option (Nat × Nat) :=
  ((List.range 4).flatMap (fun k => (List.range 8).map (fun q => (core + k, q)))).find? (fun x =>
    let t := s.slot x.1
    let c := t.chan x.2
    t.st != .free && t.ginst == g && c.kind == .input && c.tag == tag)

/-- A tag freed (R126): its bindings go, and the packets parked for it are discarded and counted. -/
def freeTagOn (core g tag : Nat) (s : State) : State :=
  let s := match boundAt s core g tag with
    | some (p, q) => unbindChan p q s
    | none => s
  s.modCore core (fun c =>
    let kept := c.parking.filter (fun x => !(x.ginst == g && x.tag == tag))
    { c with tags := c.tags.filter (fun x => !(x.ginst == g && x.tag == tag)), parking := kept
             discarded := c.discarded + (c.parking.length - kept.length) })

/-- `tagal` (R126). -/
def execTagal (e : Enc) (s : State) : Out := issue 0x4B e (fun p => do
  let s ← Act.look id
  let t := s.slot p
  if maxTags ≤ (s.core (coreOf p)).tags.length then writeX p e.d (BitVec.allOnes 64)
  else do
    let n := freeTag s p
    Act.upd (fun s => s.modCore (coreOf p) (fun c => { c with
      tags := c.tags ++ [{ ginst := t.ginst, tag := n, launch := t.launch.getD 0 }] }))
    writeX p e.d (BitVec.ofNat 64 (ownRoute t n))
  pure .next) s

/-- `tagal.free` (R126). -/
def execTagalFree (e : Enc) (s : State) : Out := issue 0x4B e (fun p => do
  let a ← readX p e.a
  let n := a.toNat % 2 ^ 16
  let s ← Act.look id
  Act.require (ownsTag s p n) Cause.tag
  Act.upd (freeTagOn (coreOf p) (s.slot p).ginst n)
  pure .next) s

/-! ### Channel bindings (R127) -/

/-- The word a `qbind` names: X(A), or the own core with TAG. -/
def bindWord (p : Nat) (e : Enc) : Act Nat :=
  if e.a == .none then do
    let t ← Act.slot p
    pure (ownRoute t (e.imm32 % 2 ^ 16))
  else do
    let a ← readX p e.a
    pure a.toNat

/-- Packets parked for a tag, moved into a channel while it has room, in arrival order (R20, R127). -/
def deliverParked (p q : Nat) (s : State) : State :=
  let t := s.slot p
  let c := t.chan q
  let mine := fun (x : Parked) => x.ginst == t.ginst && x.tag == c.tag
  let core := s.core (coreOf p)
  let taken := (core.parking.filter mine).take (chanDepth - c.entries.length)
  let rest := core.parking.foldl (fun (a : List Parked × Nat) x => if mine x && decide (0 < a.2) then (a.1, a.2 - 1) else (a.1 ++ [x], a.2))
    ([], taken.length)
  (s.modCore (coreOf p) (fun x => { x with parking := rest.1 })).modSlot p (fun t => t.setChan q (taken.foldl (fun c x => c.push x.at_ x.data) c))

/-- `qbind.in`. -/
def execQbindIn (e : Enc) (s : State) : Out := issue 0x40 e (fun p => do
  let w ← bindWord p e
  let s ← Act.look id
  let t := s.slot p
  let q := chanNo e.d
  let n := w % 2 ^ 16
  Act.require ((t.chan q).kind == .unbound) Cause.channel
  Act.require (ownsTag s p n && (boundAt s (coreOf p) t.ginst n).isNone) Cause.tag
  Act.modSlot p (fun t => t.setChan q { kind := .input, tag := n })
  Act.upd (deliverParked p q)
  pure .next) s

/-- A route word names a core of the act's group copy, with no reserved bit set (R125). -/
def routeOk (s : State) (t : Slot) (w : Nat) : Bool := routeReservedOk w && (destOf s t.ginst (routeVcore w)).isSome

/-- `qbind.out`. -/
def execQbindOut (e : Enc) (s : State) : Out := issue 0x40 e (fun p => do
  let w ← bindWord p e
  let s ← Act.look id
  let t := s.slot p
  let q := chanNo e.d
  Act.require ((t.chan q).kind == .unbound) Cause.channel
  Act.require (routeOk s t w) Cause.route
  Act.modSlot p (fun t => t.setChan q { kind := .output, tag := w % 2 ^ 16, route := w })
  pure .next) s

/-- `qbind.hnd`: packets for the tag that no channel takes start acts of handler X(B). -/
def execQbindHnd (e : Enc) (s : State) : Out := issue 0x40 e (fun p => do
  let w ← bindWord p e
  let b ← readX p e.b
  let s ← Act.look id
  let t := s.slot p
  let n := w % 2 ^ 16
  let free := match tagOf s (coreOf p) t.ginst n with | some x => x.handler.isNone | none => false
  let handlers := (s.obj (s.launch (t.launch.getD 0)).objKey).handlers.length
  Act.require (ownsTag s p n && free && decide (b.toNat < handlers)) Cause.tag
  Act.upd (fun s => s.modCore (coreOf p) (fun c => { c with
    tags := c.tags.map (fun x => if x.ginst == t.ginst && x.tag == n then { x with handler := some b.toNat } else x) }))
  pure .next) s

/-- `qbind.un`. On a control core q7 stays bound (R338). -/
def execQbindUn (e : Enc) (s : State) : Out := issue 0x40 e (fun p => do
  let q := chanNo e.d
  Act.require (!(isCtl p && q == 7)) Cause.channel
  Act.upd (unbindChan p q)
  pure .next) s

/-! ### Channel instructions (R128) -/

/-- `qput`: a channel in A moves its whole head entry. -/
def execQput (e : Enc) (s : State) : Out := issue 0x41 e (fun p => do
  operandsBound p e
  let v ← match e.a with
    | .chan q => chanHead p q.val true
    | _ => if e.v == 1 then readV p e.a else do
        let x ← readX p e.a
        pure (x.setWidth 128)
  chanPut p (chanNo e.d) v
  pure .next) s

/-- The result of a `qget` or `qpeek`: V(D), or X(D) with bits [63:0]. -/
def headTo (take : Bool) (e : Enc) (p : Nat) : Act Flow := do
  operandsBound p e
  let v ← chanHead p (chanNo e.a) take
  if e.v == 1 then writeV p e.d v else writeX p e.d (v.setWidth 64)
  pure .next

def execQget (e : Enc) (s : State) : Out := issue 0x42 e (headTo true e) s
def execQpeek (e : Enc) (s : State) : Out := issue 0x43 e (headTo false e) s

/-- The word `qstat` reports. -/
def qstatWord (s : State) (p q : Nat) : Word :=
  let c := (s.slot p).chan q
  let kind := match c.kind with | .unbound => 0 | .input => 1 | .output => 2
  BitVec.ofNat 64 ((if kind = 0 then 0 else c.tag * 2 ^ 16) + kind * 2 ^ 4 + chanCount s p q)

def execQstat (e : Enc) (s : State) : Out := issue 0x44 e (fun p => do
  let w ← Act.look (fun s => qstatWord s p (chanNo e.a))
  writeX p e.d w
  pure .next) s

/-! ### Stream registers (R130, R132) -/

/-- `sset`. -/
def execSset (e : Enc) (s : State) : Out := issue 0x45 e (fun p => do
  let a ← readX p e.a
  if a.toNat % 64 != 0 then Act.accessFault Cause.misalign .load a.toNat
  else do
    let b ← loadBytes p a.toNat 64
    Act.require (sdescOk b) Cause.stream
    Act.modSlot p (fun t => t.setStrm (strmNo e.d) { valid := true, desc := b })
    pure .next) s

/-- `sadv`. -/
def execSadv (e : Enc) (s : State) : Out := issue 0x46 e (fun p => do
  let k ← if e.isImm32 then pure e.imm32 else do
    let a ← readX p e.a
    pure a.toNat
  Act.modSlot p (fun t => t.setStrm (strmNo e.d) ((t.strm (strmNo e.d)).advance k))
  pure .next) s

/-- `sadv.rst`. -/
def execSadvRst (e : Enc) (s : State) : Out := issue 0x46 e (fun p => do
  Act.modSlot p (fun t => t.setStrm (strmNo e.d) { t.strm (strmNo e.d) with idx := [0, 0, 0, 0, 0] })
  pure .next) s

/-! ### Messages (R133 to R137) -/

/-- The 64 bytes of v(n) to v(n + 3). -/
def msgBytes (t : Slot) (n : Nat) : List Byte := (List.range 4).flatMap (fun k => bytesOfVec (t.vreg (n + k)))

def msgTgt (b : List Byte) : Nat := fieldAt b 0 1
def msgEop (b : List Byte) : Nat := fieldAt b 1 1
def msgRtag (b : List Byte) : Nat := fieldAt b 2 2
def msgReply (b : List Byte) : Bool := testBit (fieldAt b 4 1) 0
/-- A payload field of a message: its byte offset in the 48 payload bytes. -/
def payAt (b : List Byte) (off n : Nat) : Nat := fieldAt b (16 + off) n

/-- Check 1 of R134. -/
def headerOk (b : List Byte) : Bool :=
  decide (1 ≤ msgTgt b) && decide (msgTgt b ≤ 5) && fieldAt b 4 1 / 2 == 0 && zeroAt b 5 3 &&
  (msgTgt b == 4 || zeroAt b 8 8) && !(msgReply b && msgRtag b == 0xFFFF)

/-- The stack a stack dot command selects (R267): that of the page of BBASE, or that of the own stack domain; none where BBASE lies on none. -/
def dotStack (s : State) (w : Who) (b : List Byte) : Option Nat :=
  match fieldAt b 8 1 with
  | 0 =>
    match resolve w .engine Need.read (payAt b 0 8) 1 false s with
    | .ok (q, _) => if isHbm q.loc then some (q.loc / 2 ^ 37) else none
    | .error _ => none
  | 1 => some (clusterOf w.core / 32)
  | _ => none

/-- Check 3 of R134: the permission bit of each target; STACKS selects among the stacks (R348). -/
def targetPermitted (s : State) (p : Nat) (b : List Byte) : Bool :=
  let w := (s.cluster (clusterOf p)).clperm.toNat
  match msgTgt b with
  | 1 => testBit w 0
  | 2 => testBit w 1
  | 3 => testBit w 2
  | 4 => testBit w 3 && (match dotStack s (whoSlot s p) b with | some k => testBit w (8 + k) | none => true)
  | 5 => testBit w 4
  | _ => false

/-- The checks of R134. -/
def sendChecks (p : Nat) (b : List Byte) : Act Unit := do
  let s ← Act.look id
  Act.require (headerOk b) Cause.msg
  Act.require (!msgReply b || ownsTag s p (msgRtag b)) Cause.tag
  Act.require (targetPermitted s p b) Cause.denied

/-- The waits of R134: the outbound buffer, and the reply count. -/
def sendReady (p : Nat) (reply : Bool) : Act Unit := do
  let s ← Act.look id
  Act.ready (decide (outbound s p < outboundDepth) && (!reply || (s.slot p).replies != 255))

/-- The reset value of TCFG (R249). -/
def tcfgReset : Word := 0xFFFF000000000F0F

/-- The claim of an act on the matrix unit (R247): a wait for another owner; else ownership, with the unit at reset when it had no owner. -/
def ownMatrix (p : Nat) : Act Unit := do
  let s ← Act.look id
  let t := s.slot p
  let l := t.launch.getD 0
  match (s.core (coreOf p)).mx.owner with
  | some o => Act.ready (o == l)
  | none => Act.upd (fun s => s.modCore (coreOf p) (fun c => { c with mx := { owner := some l } }))

/-- A matrix instruction's claim: a fault in a row-handler act (R257). -/
def claimMatrix (p : Nat) : Act Unit := do
  let t ← Act.slot p
  Act.require (t.origin != 3) Cause.matrixOp
  ownMatrix p

/-- No `tcfg.set` of another slot is pending (R251). -/
def tcfgFree (p : Nat) : Act Unit := do
  let s ← Act.look id
  Act.ready (match (s.core (coreOf p)).mx.tcfgPending with | none => true | some q => q == p)

/-- The next matrix ticket, taken (R262). -/
def takeTicket (p : Nat) : Act Nat := do
  let k ← Act.look (fun s => (s.core (coreOf p)).mx.next)
  Act.upd (fun s => s.modCore (coreOf p) (fun c => { c with mx := { c.mx with next := (c.mx.next + 1) % 2 ^ 32 } }))
  Act.modSlot p (fun t => { t with mxLast := some k })
  pure k

/-- Whether a group copy's Juggler counter on a core is released (R313): no ACTIVE act, no PARKED act, no entry, and none on its way. -/
def jugIdle (s : State) (core g : Nat) : Bool :=
  !((List.range 4).any (fun k => let t := s.slot (core + k); (t.st == .active || t.st == .parked) && !t.boundary && t.launch.isSome && t.ginst == g)) &&
  !((s.core core).jug.queue.any (fun e => e.org.ginst == g)) &&
  !(s.net.any (fun i => i.kind == .command && i.ginst == g && i.dst == core && msgTgt i.data == 3))

/-- Counters a core holds (R313). -/
def jugCounters : Nat := 8

/-- Counters are released with their retained words (R313): no act reaches them, and their storage keeps the words until as many others have been released. -/
def jugRelease (core : Nat) (s : State) : State :=
  if (s.core core).jug.counts.isEmpty then s
  else s.modCore core (fun c =>
    let gone := c.jug.counts.filter (fun e => jugIdle s core e.1)
    { c with jug := { c.jug with
        counts := c.jug.counts.filter (fun e => !jugIdle s core e.1)
        past := if gone.isEmpty then c.jug.past else (gone ++ c.jug.past.filter (fun e => !gone.any (fun x => x.1 == e.1))).take jugCounters } })

/-- The next Juggler ticket of the slot's group copy, taken (R313); a ninth counter must wait. -/
def takeJugTicket (p : Nat) : Act Nat := do
  Act.upd (jugRelease (coreOf p))
  let s ← Act.look id
  let g := (s.slot p).ginst
  let counts := (s.core (coreOf p)).jug.counts
  Act.ready ((KV.find? counts g).isSome || decide (counts.length < jugCounters))
  let k := (KV.get {} (s.core (coreOf p)).jug.counts g).next
  Act.upd (fun s => s.modCore (coreOf p) (fun c => { c with jug := { c.jug with
    counts := KV.modify {} c.jug.counts g (fun j => { j with next := (j.next + 1) % 2 ^ 32 }) } }))
  Act.modSlot p (fun t => { t with jqLast := some k })
  pure k

/-- Copies a message into the outbound buffer: where it goes by its target, with the ticket its engine gives it (R134, R262, R313). -/
def postMessage (p : Nat) (b : List Byte) : Act Nat := do
  let k ← match msgTgt b with
    | 1 => takeTicket p
    | 3 => takeJugTicket p
    | _ => pure 0
  Act.upd (fun s =>
    let dst := match msgTgt b with
      | 4 => clusterOf p
      | 5 => dieOf p
      | _ => coreOf p
    let s := netPush { itemFrom s p .command dst (s.slot p).vcore with data := b, ticket := k, isMessage := true } s
    if msgReply b then s.modSlot p (fun t => { t with replies := t.replies + 1 }) else s)
  pure k

/-- A message sent as `send` sends it: checks, the matrix unit's claim, waits, and the outbound buffer. Gives its ticket. -/
def sendMessage (p : Nat) (b : List Byte) : Act Nat := do
  sendChecks p b
  if msgTgt b == 1 then
    claimMatrix p
    tcfgFree p
  sendReady p (msgReply b)
  postMessage p b

/-- `send`. -/
def execSend (e : Enc) (s : State) : Out := issue 0x47 e (fun p => do
  let t ← Act.slot p
  let _ ← sendMessage p (msgBytes t (regNo e.a))
  pure .next) s

/-- The header `sendc` requires (R136), but for the names in SEL. -/
def codeHeaderOk (b : List Byte) : Bool :=
  zeroAt b 0 2 && msgRtag b == 0xFFFF && zeroAt b 4 4 && zeroAt b 8 2

/-- `sendc`: a code-bearing message to a core of the group copy. -/
def execSendc (e : Enc) (s : State) : Out := issue 0x48 e (fun p => do
  let s ← Act.look id
  let t := s.slot p
  let b := msgBytes t (regNo e.a)
  let sel := fieldAt b 8 8
  Act.require (codeHeaderOk b) Cause.msg
  Act.require (routeOk s t sel) Cause.route
  let dst := (destOf s t.ginst (routeVcore sel)).getD 0
  Act.require (permitsCore s p dst) Cause.denied
  sendReady p false
  Act.upd (netPush { itemFrom s p .code dst (routeVcore sel) with
    data := b.drop 16, regs := [BitVec.ofNat 64 (fieldAt b 56 8), BitVec.ofNat 64 (fieldAt b 0 8)], isMessage := true })
  pure .next) s

/-! ### Remote register access (R138, R139) -/

/-- Requests a remote-access buffer holds. -/
def remoteDepth : Nat := 4

/-- The request of an `rget` or `rput`: answered, waiting for its answer, or placed in the target core's buffer. Gives status and value. -/
def remoteAccess (p : Nat) (put : Bool) (w : Nat) (spec : Nat) (value : Word) : Act (Nat × Word) := do
  let s ← Act.look id
  let t := s.slot p
  match t.wait with
  | .remoteDone st v => pure (st, v)
  | .remote _ _ => Act.block
  | .remoteAsk r u =>
    if s.cycle < u then Act.block else place p r
  | _ =>
    Act.require (routeOk s t w && bitsN w 15 2 == 0) Cause.route
    let core := (destOf s t.ginst (routeVcore w)).getD 0
    if farBase ≤ core then
      -- The request goes to another device, and its answer comes from there.
      Act.modSlot p (fun t => { t with wait := .remote core s.cycle })
      Act.blockKeeping
    else
    let target := core + w % 4
    place p { from_ := p, act := t.act, since := s.cycle, put := put, target := target, spec := spec, value := value
              timeout := t.rto.toNat % 2 ^ 32 }
where
  /-- A request placed in the target core's buffer, or refused by a full one and retried after 64 cycles with the operands it has (R20, R139). -/
  place (p : Nat) (r : Remote) : Act (Nat × Word) := do
    let s ← Act.look id
    let x := s.slot r.target
    let held := (x.st == .halted || x.st == .parked) && !x.boundary && x.launch == (s.slot p).launch
    if (s.core (coreOf r.target)).remote.length < remoteDepth then do
      Act.upd (fun s => s.modCore (coreOf r.target) (fun c => { c with remote := c.remote ++ [{ r with since := s.cycle, tact := if held then x.act else 0 }] }))
      Act.modSlot p (fun t => { t with wait := .remote r.target s.cycle })
    else Act.modSlot p (fun t => { t with wait := .remoteAsk r (s.cycle + retryCycles) })
    Act.blockKeeping

/-- `rget`. -/
def execRget (e : Enc) (s : State) : Out := issue 0x49 e (fun p => do
  let a ← readX p e.a
  let (st, v) ← remoteAccess p false a.toNat e.imm32 0
  writeX p e.d (if st = 0 then v else BitVec.ofNat 64 st)
  writeP p e.c (st == 0)
  pure .next) s

/-- `rput`. -/
def execRput (e : Enc) (s : State) : Out := issue 0x4A e (fun p => do
  let a ← readX p e.a
  let c ← readX p e.c
  let (st, _) ← remoteAccess p true a.toNat e.imm32 c
  writeP p e.d (st == 0)
  pure .next) s

/-- The answer of a request as the target stands now (R138): its status, its value, and the target slot after it; none while it waits, as it does for an instruction
boundary of the target. -/
def remoteAnswer (s : State) (r : Remote) : Option (Nat × Word × Slot) :=
  let x := s.slot r.target
  let l := (s.slot r.from_).launch
  if r.tact != 0 && (x.st != .active || x.act != r.tact) then none
  else if x.st == .free || x.boundary || x.launch != l then some (1, 0, x)
  else if x.st != .active || !x.atBoundary then none
  else if r.spec < 32 then
    if r.put then some (0, 0, x.setX r.spec r.value) else some (0, x.x r.spec, x)
  else
    let q := r.spec - 32
    let c := x.chan q
    if c.kind != .input then some (5, 0, x)
    else if r.put then
      if c.entries.length < chanDepth then some (0, 0, x.setChan q (c.push s.cycle (r.value.setWidth 128))) else none
    else match c.entries with
      | [] => some (3, 0, x)
      | v :: _ => some (0, v.setWidth 64, x)

/-- A request leaves its buffer with an answer. -/
def remoteClose (core : Nat) (r : Remote) (st : Nat) (v : Word) (s : State) : State :=
  (s.modCore core (fun c => { c with remote := c.remote.filter (fun x => x.from_ != r.from_) })).modSlot r.from_
    (fun t => { t with wait := .remoteDone st v })

/-- Event REMOTE_REQUEST: the first request that can be answered is; else the first that finds its target HALTED or PARKED notes its act. -/
def execRemoteRequest (core : Nat) (s : State) : Out := event (fun s =>
  let rs := (s.core core).remote
  match rs.find? (fun r => (remoteAnswer s r).isSome) with
  | some r =>
    match remoteAnswer s r with
    | some (st, v, x) => some (remoteClose core r st v (s.setSlot r.target x))
    | none => none
  | none =>
    match rs.find? (fun r => let x := s.slot r.target; r.tact == 0 && (x.st == .parked || x.st == .halted)) with
    | some r => some (s.modCore core (fun c => { c with
        remote := c.remote.map (fun x => if x.from_ == r.from_ then { x with tact := (s.slot r.target).act } else x) }))
    | none => none) s

/-- Event REMOTE_TIMEOUT: status 2, or 4 where only a full channel held the request. -/
def execRemoteTimeout (pslot : Nat) (s : State) : Out := event (fun s =>
  match (s.slot pslot).wait with
  | .remote target since =>
    match (s.core (coreOf target)).remote.find? (fun r => r.from_ == pslot) with
    | some r =>
      let x := s.slot target
      let full := x.st == .active && (r.tact == 0 || x.act == r.tact)
      if (remoteAnswer s r).isNone && (x.st != .active || x.atBoundary) && decide (since + r.timeout ≤ s.cycle) then some (remoteClose (coreOf target) r (if full then 4 else 2) 0 s)
      else none
    | none => none
  | _ => none) s

end Sys2Proof.Machine
end

