-- ==== Sys2Proof/Machine/MemInstr.lean ====
section
/-! DEFINITION. Class 3 but for the copy engine and queue fences: loads, stores, full-empty granules, atomics, holds, fences, barriers,
byte-counting barriers, chunks and prefetches (R170 to R191). -/

namespace Sys2Proof.Machine

/-! ### Addresses (R171) -/

/-- The width of the element an instruction moves. -/
def elemWidth (e : Enc) : Nat := if e.v == 1 then 2 else fmtWidth e.t

/-- Address, bit offset and bytes of an element: an index in units of elements below 8 bits, a byte offset otherwise. -/
def elemAddr (w : Nat) (a b : Word) : Nat × Nat × Nat :=
  if w < 8 then
    let bit : Int := b.toInt * ((w : Nat) : Int)
    ((a + BitVec.ofInt 64 (bit / 8)).toNat, (bit % 8).toNat, 1)
  else ((a + b).toNat, 0, w / 8)

/-- Check 1 of R169. -/
def aligned (k : AKind) (va n : Nat) : Act Unit := if va % n != 0 then Act.accessFault Cause.misalign k va else pure ()

/-- The scope of an acquire or release variant (R170). -/
def scopeOf (e : Enc) : Option Nat := if 8 ≤ e.v then some (e.v - 8) else none

/-- The instruction is not permitted while the act has a region open (R190). -/
def outsideRegion (p : Nat) : Act Unit := do
  let t ← Act.slot p
  Act.require t.region.isNone Cause.regionOp

/-- Not inside an ordinary region (R295); the region of a formula act is none. -/
def notOrdinary (p : Nat) : Act Unit := do
  let t ← Act.slot p
  Act.require (t.region.isNone || t.formula.isSome) Cause.regionOp

/-- An acquire variant passes the core's leases (R402). -/
def acquireVar (p : Nat) (e : Enc) : Act Unit := match scopeOf e with | some k => acquireAt p k | none => pure ()

/-! ### Loads and stores -/

/-- `ld`. -/
def execLd (e : Enc) (s : State) : Out := issue 0x60 e (fun p => do
  operandsBound p e
  let a ← readX p e.a
  let b ← readB p e
  let w := elemWidth e
  let (va, off, n) := elemAddr w a b
  aligned .load va n
  let bytes ← loadPiece p .load (scopeOf e).isNone va n e.hint.toNat
  acquireVar p e
  writeX p e.d (extend (decide (e.t < 4) || e.t == 8) w (ofLe bytes / 2 ^ off % 2 ^ w))
  pure .next) s

/-- `st`. -/
def execSt (e : Enc) (s : State) : Out := issue 0x61 e (fun p => do
  operandsBound p e
  let a ← readX p e.a
  let b ← readB p e
  let c ← readX p e.c
  let w := elemWidth e
  let (va, off, n) := elemAddr w a b
  aligned (if w < 8 then .atomic else .store) va n
  if w < 8 then subByteStore p va off w (c.toNat % 2 ^ w) e.hint.toNat
  else storePiece p va (leBytes n (c.toNat % 2 ^ w)) (scopeOf e).isSome e.hint.toNat
  pure .next) s

/-- `sts`. -/
def execSts (e : Enc) (s : State) : Out := issue 0x62 e (fun p => do
  operandsBound p e
  let a ← readX p e.a
  let b ← readB p e
  aligned .store (a + b).toNat 16
  let c ← readV p e.c
  storePiece p (a + b).toNat (bytesOfVec c) (scopeOf e).isSome e.hint.toNat
  pure .next) s

/-- `lds`. -/
def execLds (e : Enc) (s : State) : Out := issue 0x73 e (fun p => do
  operandsBound p e
  let a ← readX p e.a
  let b ← readB p e
  aligned .load (a + b).toNat 16
  let bytes ← loadPiece p .load (scopeOf e).isNone (a + b).toNat 16 e.hint.toNat
  acquireVar p e
  writeV p e.d (vecOfBytes bytes)
  pure .next) s

/-! ### Full-empty granules (R174 to R176) -/

/-- An address that must be scratchpad: its core and its location. -/
def spadOnly (p : Nat) (k : AKind) (va n : Nat) : Act (Nat × Phys) := do
  let s ← Act.look id
  match placeOf s (whoSlot s p) va n with
  | .spad _ c _ => do
    let q ← resolve (whoSlot s p) k Need.both va n
    pure (c, q)
  | _ => Act.accessFault Cause.space k va

/-- The entries of a controller's wait list (R176). -/
def waitEntries : Nat := 16

/-- The requests a core's controller holds. -/
def listedAt (s : State) (core : Nat) : Nat := (s.slots.filter (fun x => match x.2.wait with | .listed _ _ c _ => c == core | _ => false)).length

/-- A request to a granule's controller (R176): what it gives. One whose condition holds is performed at once; another enters the wait list, where
the controller performs it later; a full list refuses it, and it is retried after 64 cycles (R20). -/
def request (p core loc : Nat) (k : AKind) (va : Nat) (w : Waiter) : Act Vec := do
  let s ← Act.look id
  match (s.slot p).wait with
  | .served l v bad => if bad then Act.poisonFault k va l else pure v
  | .refused u => if s.cycle < u then Act.block else ask p core loc k va w
  | _ => ask p core loc k va w
where
  /-- The request reaches the controller. -/
  ask (p core loc : Nat) (k : AKind) (va : Nat) (w : Waiter) : Act Vec := do
    let s ← Act.look id
    let wt := (s.slot p).wait
    if w.ready s loc then
      let (v, bad, s') := w.perform (coreOf p) loc s
      if bad then Act.poisonFault k va loc
      else do
        let s' := match wt with | .listed _ _ _ _ => s'.modSlot p (fun t => { t with wait := .none }) | _ => s'
        Act.upd (fun _ => if feOf s' loc == feOf s loc then s' else serve loc s')
        pure v
    else match wt with
      | .listed _ _ _ _ => Act.block
      | _ => enlist p core loc w
  /-- Entry into the wait list, or refusal by a full one. -/
  enlist (p core loc : Nat) (w : Waiter) : Act Vec := do
    let s ← Act.look id
    if listedAt s core < waitEntries then do
      let n ← Act.fresh
      Act.modSlot p (fun t => { t with wait := .listed n loc core w })
    else Act.modSlot p (fun t => { t with wait := .refused (s.cycle + retryCycles) })
    Act.blockKeeping

/-- `ldfe`; the bytes of a spill area are free values (R122). -/
def execLdfe (e : Enc) (s : State) : Out := issue 0x63 e (fun p => do
  operandsBound p e
  let a ← readX p e.a
  let b ← readB p e
  let va := (a + b).toNat
  outsideRegion p
  aligned .load va 16
  let (core, q) ← spadOnly p .load va 16
  let t ← Act.slot p
  Act.ready (t.store.all (fun x => !x.touches q.loc 16))
  let v ← request p core q.loc .load va (.ldfe (e.v == 1))
  let v ← if q.spill then (do let b ← spillRead q.loc 16; pure (vecOfBytes b)) else pure v
  acquireTier p
  writeV p e.d v
  pure .next) s

/-- `stfe`: a release, so it is performed after the slot's earlier accesses. -/
def execStfe (e : Enc) (s : State) : Out := issue 0x64 e (fun p => do
  operandsBound p e
  let a ← readX p e.a
  let b ← readB p e
  let va := (a + b).toNat
  outsideRegion p
  aligned .store va 16
  let (core, q) ← spadOnly p .store va 16
  storesDone p
  let t ← Act.slot p
  let c ← if t.wait.over then pure 0 else peekV p e.c
  let _ ← request p core q.loc .store va (.stfe c)
  noteWrite p q.loc 16
  takeV p e.c
  pure .next) s

/-- `setfe`: the whole range lies in one window, and where the slot has buffered writes of its granules, it takes its
turn behind them without waiting (R212; log 132). With X(B) = 0 it has no effect, whatever
window X(A) names. DESIGN CHOICE (log 132). -/
def setfeBody (full : Bool) (e : Enc) (p : Nat) : Act Flow := do
  let a ← readX p e.a
  let n ← readX p e.b
  outsideRegion p
  aligned .store a.toNat 16
  if n.toNat == 0 then pure .next
  else do
    let s ← Act.look id
    match placeOf s (whoSlot s p) a.toNat (16 * n.toNat) with
    | .spad v c off =>
      let t := s.slot p
      let at_ := fun (i : Nat) => if isCtl p then spadLoc c (off + 16 * i) else spadAt s t.ginst v c (off + 16 * i)
      let gs := (List.range n.toNat).map at_
      if t.store.any (fun x => gs.any (fun l => x.touches l 16)) then gs.forM (fun l => bufferStore p a.toNat { loc := l } (.fe full) false)
      else Act.upd (fun s => gs.foldl (fun s l => changeFe s l full) s)
      pure .next
    | _ =>
      -- DETAIL is the first byte outside the window's valid bytes (R378).
      Act.accessFault Cause.space .store (match placeOf s (whoSlot s p) a.toNat 16 with
        | .spad _ _ off => a.toNat + (spadSize (whoSlot s p) - off)
        | _ => a.toNat)

def execSetfeEmpty (e : Enc) (s : State) : Out := issue 0x65 e (setfeBody false e) s
def execSetfeFull (e : Enc) (s : State) : Out := issue 0x65 e (setfeBody true e) s

/-! ### Atomics (R177) and chunks (R188) -/

/-- The value an atomic returns. -/
def oldWord (t : Nat) (b : List Byte) : Word := extend (fmtSigned t) (fmtWidth t) (ofLe b)

/-- Whether an `amo` is posted: no destination, not `.ar`, outside regions, and not on an SC page. One with TYP f32 other than `.swap` raises its flags when it
completes (R52, R177), and so is performed as it completes. DEDUCED (log 89). -/
def amoPosted (p va n : Nat) (e : Enc) : Act (Option Phys) := do
  let s ← Act.look id
  if e.d == .none && e.v < 8 && (e.t != 0xD || e.v == 6) && (s.slot p).region.isNone then do
    let q ← resolve (whoSlot s p) .atomic Need.both va n
    pure (if q.sc then none else some q)
  else pure none

/-- `amo`. -/
def execAmo (e : Enc) (s : State) : Out := issue 0x66 e (fun p => do
  operandsBound p e
  let a ← readX p e.a
  let b ← readX p e.b
  let va := a.toNat
  let n := fmtWidth e.t / 8
  aligned .atomic va n
  let ar := decide (8 ≤ e.v)
  match ← amoPosted p va n e with
  | some q =>
    let t ← Act.slot p
    poisonGuard .atomic va q n t.store
    bufferStore p va q (.atomic (e.v % 8) e.t b) false
  | none =>
    if ar then storesDone p
    let old ← atomicNow p va n (fun o => leBytes n (atomicNew (e.v % 8) e.t (ofLe o) b.toNat).1)
    raise p (atomicNew (e.v % 8) e.t (ofLe old) b.toNat).2
    if ar then acquireTier p
    writeX p e.d (oldWord e.t old)
  pure .next) s

/-- `cas`: the location is written even when the comparison fails. -/
def execCas (e : Enc) (s : State) : Out := issue 0x67 e (fun p => do
  operandsBound p e
  let a ← readX p e.a
  let b ← readX p e.b
  let c ← readX p e.c
  let w := fmtWidth e.t
  let n := w / 8
  aligned .atomic a.toNat n
  if e.v == 1 then storesDone p
  let old ← atomicNow p a.toNat n (fun o => if ofLe o = b.toNat % 2 ^ w then leBytes n (c.toNat % 2 ^ w) else o)
  if e.v == 1 then acquireTier p
  writeX p e.d (oldWord e.t old)
  pure .next) s

/-- The chunk a counter word gives (R188): its count. -/
def chunkCount (b : List Byte) : Nat :=
  let next := fieldAt b 0 4
  let total := fieldAt b 4 4
  let m := if fieldAt b 8 4 = 0 then 1 else fieldAt b 8 4
  let q := if fieldAt b 12 2 = 0 then 1 else fieldAt b 12 2
  let rem := total - next
  let share := (rem + 2 * q - 1) / (2 * q)
  let c := if m < share then share else m
  if rem < c then rem else c

/-- `chunk`. -/
def execChunk (e : Enc) (s : State) : Out := issue 0x71 e (fun p => do
  let a ← readX p e.a
  outsideRegion p
  aligned .atomic a.toNat 16
  let old ← atomicNow p a.toNat 16 (fun b => patch b 0 (leBytes 4 (fieldAt b 0 4 + chunkCount b)))
  writeX p e.d (BitVec.ofNat 64 (fieldAt old 0 4 + chunkCount old * 2 ^ 32))
  pure .next) s

/-! ### Holds (R179) -/

/-- Whether a slot holds a line now. -/
def holdsNow (s : State) (p : Nat) : Bool := match (s.slot p).hold with | some (_, c) => decide (s.cycle < c) | none => false

/-- Whether another slot waits for the line from before. -/
def earlierHold (s : State) (p line : Nat) (mine : Option Nat) : Bool :=
  s.slots.any (fun x => x.1 != p && x.2.st == .active && (match x.2.wait with
    | .line k l => l == line && (match mine with | some m => decide (k < m) | none => true)
    | _ => false))

/-- `hold`. -/
def execHold (e : Enc) (s : State) : Out := issue 0x68 e (fun p => do
  let a ← readX p e.a
  let b ← readB p e
  outsideRegion p
  let s ← Act.look id
  match placeOf s (whoSlot s p) a.toNat 1 with
  | .spad _ _ _ => Act.accessFault Cause.space .atomic a.toNat
  | _ =>
    let q ← resolve (whoSlot s p) .atomic Need.both a.toNat 1
    Act.require (!holdsNow s p) Cause.hold
    let line := q.loc / 64
    let mine := match (s.slot p).wait with | .line k l => if l == line then some k else none | _ => none
    if heldByOther s (some p) q.loc || earlierHold s p line mine then
      if mine.isSome then Act.block
      else do
        let k ← Act.fresh
        Act.modSlot p (fun t => { t with wait := .line k line })
        Act.blockKeeping
    else do
      let n := if b.toNat < 1 then 1 else if 4096 < b.toNat then 4096 else b.toNat
      Act.modSlot p (fun t => { t with hold := some (line, s.cycle + n) })
      Act.upd (dropLine (coreOf p) q.loc)
      acquireTier p
      pure .next) s

/-- The line an address names for `rel`; none where the address does not translate. -/
def lineOf (p va : Nat) : Act (Option Nat) := fun s =>
  match resolve (whoSlot s p) .atomic Need.both va 1 false s with
  | .ok (q, s') => .ok (some (q.loc / 64), s')
  | .error _ => .ok (none, s)

/-- `rel`: a release; a line the slot does not hold is left alone. -/
def execRel (e : Enc) (s : State) : Out := issue 0x69 e (fun p => do
  let a ← readX p e.a
  outsideRegion p
  storesDone p
  let l ← lineOf p a.toNat
  Act.modSlot p (fun t => match t.hold, l with
    | some (x, _), some y => if x == y then { t with hold := none } else t
    | _, _ => t)
  pure .next) s

/-- Event HOLD_EXPIRY. -/
def execHoldExpiry (pslot : Nat) (s : State) : Out := event (fun s =>
  match (s.slot pslot).hold with
  | some (_, c) => if c ≤ s.cycle then some (s.modSlot pslot (fun t => { t with hold := none })) else none
  | none => none) s

/-- Event STORE_PERFORM. -/
def execStorePerform (pslot index : Nat) (s : State) : Out := event (fun s => performStore s pslot index) s

/-! ### Fences and barriers (R180, R181) -/

/-- `fence`. -/
def execFence (e : Enc) (s : State) : Out := issue 0x6A e (fun p => do
  outsideRegion p
  storesDone p
  acquireAt p e.v
  pure .next) s

/-- The number of a barrier within its group copy: scope, the unit of that tier, and ID. -/
def barrierKey (scope vcore id : Nat) : Nat :=
  let bits := match scope with | 0 => 0 | 1 => 3 | 2 => 8 | 3 => 11 | _ => 21
  (scope * 2 ^ 21 + vcore / 2 ^ bits) * 16 + id

/-- A barrier after one arrival of `n`; none when `n` disagrees with the phase. -/
def Barrier.arrive (b : Barrier) (n : Nat) : Option Barrier :=
  if b.count != 0 && b.n != n then none
  else if b.count + 1 = n then some { phase := (b.phase + 1) % 2 ^ 32, n := 0, count := 0 }
  else some { b with n := n, count := b.count + 1 }

/-- `bara`; a formula act has barriers of core scope (R228), though R190 names `bara` and `barw` among what an open region forbids. DEDUCED (log 102). -/
def execBara (e : Enc) (s : State) : Out := issue 0x6B e (fun p => do
  let a ← readX p e.a
  notOrdinary p
  let s ← Act.look id
  let t := s.slot p
  Act.require (decide (e.v ≤ tierOf s t)) Cause.scope
  let n := bitsN a.toNat 31 16
  Act.require (bitsN a.toNat 15 4 == 0 && bitsN a.toNat 63 32 == 0 && n != 0) Cause.barrier
  storesDone p
  let k := barrierKey e.v t.vcore (a.toNat % 16)
  let b := KV.get {} (s.ginst t.ginst).barriers k
  match b.arrive n with
  | none => Act.fault Cause.barrier
  | some b' =>
    Act.upd (fun s => s.modGinst t.ginst (fun g => { g with barriers := KV.set g.barriers k b' }))
    writeX p e.d (BitVec.ofNat 64 (b.phase * 2 ^ 32 + e.v * 16 + a.toNat % 16))
    pure .next) s

/-- `barw`: waits while the phase of its token is not complete. -/
def execBarw (e : Enc) (s : State) : Out := issue 0x6C e (fun p => do
  let a ← readX p e.a
  notOrdinary p
  let s ← Act.look id
  let t := s.slot p
  let scope := bitsN a.toNat 6 4
  Act.require (bitsN a.toNat 31 7 == 0 && decide (scope ≤ tierOf s t)) Cause.barrier
  let c := (KV.get {} (s.ginst t.ginst).barriers (barrierKey scope t.vcore (a.toNat % 16))).phase
  let d := (c + 2 ^ 32 - a.toNat / 2 ^ 32) % 2 ^ 32
  Act.ready (d != 0 && decide (d < 2 ^ 31))
  acquireAt p scope
  pure .next) s

/-! ### Byte-counting barriers (R185, R186) -/

/-- EXPECT of an object as the slot's own buffered operations leave it. -/
def expectAfter (st : List PStore) (loc e : Nat) : Nat :=
  st.foldl (fun n x => if x.loc == loc then (match x.op with
    | .cbarm add v _ _ => if add then n + v else v
    | _ => n) else n) e

/-- `cbarm`. -/
def cbarmBody (add : Bool) (e : Enc) (p : Nat) : Act Flow := do
  operandsBound p e
  let a ← readX p e.a
  let b ← readB p e
  let c ← readX p e.c
  let va := a.toNat
  outsideRegion p
  aligned .store va 16
  let (_, q) ← spadOnly p .store va 16
  let o ← if add then homeLoad (some p) .store va q 16 else pure []
  let t ← Act.slot p
  let v := b.toNat
  let base := if add then expectAfter t.store q.loc (Cbar.ofBytes o).expect else 0
  Act.require (decide (v < 2 ^ 48) && decide (base + v < 2 ^ 48)) Cause.cbar
  bufferStore p va q (.cbarm add v (if e.c == .none then 0xFFFF else c.toNat % 2 ^ 16) (vcoreCorev t.vcore)) false
  pure .next

def execCbarmSet (e : Enc) (s : State) : Out := issue 0x6E e (cbarmBody false e) s
def execCbarmAdd (e : Enc) (s : State) : Out := issue 0x6E e (cbarmBody true e) s

/-- The object that `cbwait` reads in a spill area is a free value each time it looks (R122). -/
def spillObject (q : Phys) : Act Vec := do
  let b ← spillRead q.loc 16
  if (Cbar.ofBytes b).met then pure (vecOfBytes b) else Act.blockKeeping

/-- `cbwait`: waits while EXPECT exceeds ARRIVED or the object was never armed. -/
def execCbwait (e : Enc) (s : State) : Out := issue 0x6F e (fun p => do
  let a ← readX p e.a
  let va := a.toNat
  outsideRegion p
  aligned .load va 16
  let (core, q) ← spadOnly p .load va 16
  let t ← Act.slot p
  Act.ready (t.store.all (fun x => !x.touches q.loc 16))
  let v ← if q.spill then spillObject q else request p core q.loc .load va .cbwait
  acquireTier p
  writeP p e.d (!(Cbar.ofBytes (bytesOfVec v)).overrun)
  pure .next) s

/-- A line brought to the level a hint names (R68, R189): `.stm` the L2 alone, the others the L1 too; `.w` makes the die its owner. -/
def prefetch (p : Nat) (write : Bool) (hint : Nat) (q : Phys) (s : State) : State :=
  allocate (coreOf p) hint q (if write then dirOwn (dieOf p) q.loc s else dirRequest (dieOf p) false q.loc s)

/-- `pref` changes no value and no ordering, and never waits or faults: an address that would fault, a scratchpad address, a cell page, or a line that
another slot holds makes it do nothing (R189), and so does an open region (R190). -/
def execPref (e : Enc) (s : State) : Out := issue 0x72 e (fun p => do
  let a ← readX p e.a
  let b ← readB p e
  let s ← Act.look id
  match resolve (whoSlot s p) .load (if e.v == 1 then Need.both else Need.read) (a + b).toNat 1 false s with
  | .ok (q, _) => if (s.slot p).region.isSome || isSpad q.loc || heldByOther s (some p) q.loc then pure () else Act.upd (prefetch p (e.v == 1) e.hint.toNat q)
  | .error _ => pure ()
  pure .next) s

end Sys2Proof.Machine
end

