-- ==== Sys2Proof/Machine/Engines.lean ====
section
/-! DEFINITION. What the engines share: their queues, replies, output beats and joins (R135, R174, R183, R187), and the copy engine (R182, R183,
R444). -/

namespace Sys2Proof.Machine

/-! ### Queues -/

/-- An engine queue: of a core's matrix unit, of a core at the copy engine or the Juggler, or of a cluster's stack dot units. -/
inductive EngQ where
  | matrix (core : Nat)
  | copy (core : Nat)
  | jug (core : Nat)
  | dot (cluster : Nat)
  deriving DecidableEq, Repr

def EngQ.depth : EngQ → Nat | .matrix _ => 8 | .copy _ => 16 | .jug _ => 4 | .dot _ => 8

def EngQ.get (s : State) : EngQ → List Entry
  | .matrix c => (s.core c).mx.queue
  | .copy c => (s.core c).copyq
  | .jug c => (s.core c).jug.queue
  | .dot c => (s.cluster c).sdq

def EngQ.upd (f : List Entry → List Entry) (s : State) : EngQ → State
  | .matrix c => s.modCore c (fun x => { x with mx := { x.mx with queue := f x.mx.queue } })
  | .copy c => s.modCore c (fun x => { x with copyq := f x.copyq })
  | .jug c => s.modCore c (fun x => { x with jug := { x.jug with queue := f x.jug.queue } })
  | .dot c => s.modCluster c (fun x => { x with sdq := f x.sdq })

/-- The head entry of a queue when it is not a join. -/
def EngQ.head (q : EngQ) (s : State) : Option Entry :=
  match q.get s with
  | e :: _ => if e.join.isNone then some e else none
  | [] => none

/-- The accesses that a queue's engine makes for an entry. -/
def EngQ.who (s : State) (o : Origin) : EngQ → Who
  | .matrix _ => whoOrigin s o
  | .copy c => whoEngine s 0 (clusterOf c) o
  | .jug c => whoEngine s 1 (clusterOf c) o
  | .dot k => whoEngine s 2 k o

def EngQ.modHead (q : EngQ) (f : Entry → Entry) (s : State) : State :=
  q.upd (fun l => match l with | e :: r => f e :: r | [] => []) s
def EngQ.pop (q : EngQ) (s : State) : State := q.upd (fun l => l.drop 1) s
def EngQ.push (q : EngQ) (e : Entry) (s : State) : State := q.upd (fun l => l ++ [e]) s

/-- Whether an engine may work for a launch's entry: not after a fatal error, nor for a group copy at its quiesce point (R382, R433). -/
def engineOn (s : State) (o : Origin) : Bool := !s.board.fatal && !(s.ginst o.ginst).quiesced

/-- The entry a message becomes. -/
def entryOf (i : NetItem) : Entry :=
  { org := { launch := i.launch, ginst := i.ginst, vcore := i.vcore, pslot := i.src, act := i.act }, msg := i.data, ticket := i.ticket }

/-- The sender number of an engine's packets. -/
def engineSrc : Nat := 0x20000

/-- One reply of 16 bytes to the sender's virtual core, when the command asks for one (R135). Where that core's part is saved, it waits with the packets that
the part's restoring parks (R418). -/
def engineReply (e : Entry) (data : List Byte) (s : State) : State :=
  if msgReply e.msg then
    if (s.ginst e.org.ginst).savedCores.contains e.org.vcore && (coreOfV s e.org.ginst e.org.vcore).isNone then
      s.modGinst e.org.ginst (fun g => { g with heldParked := g.heldParked ++
        [(e.org.vcore, { ginst := e.org.ginst, tag := msgRtag e.msg, data := vecOfBytes data, launch := e.org.launch, at_ := s.cycle })] })
    else
    netPush { kind := .reply, src := engineSrc, launch := e.org.launch, ginst := e.org.ginst, dst := (coreOfV s e.org.ginst e.org.vcore).getD 0
              vcore := e.org.vcore, tag := msgRtag e.msg, prio := (s.launch e.org.launch).prio, data := data, act := e.org.act } s
  else s

/-- The object a field of four bytes names; all ones names none. -/
def objField (v : Nat) : Option Nat := if v = 0xFFFFFFFF then none else some v

/-- A credit to an object, if one is named. -/
def creditObj (w : Who) (launch : Nat) (obj : Option Nat) (n : Nat) : Act Unit :=
  match obj with | some va => engineCredit w launch va n | none => pure ()

/-- Output bytes cut into beats at 64-byte boundaries of the destination. -/
def cutBeats : Nat → Nat → List Byte → List (List (Nat × List Byte))
  | 0, _, _ => []
  | f + 1, va, b =>
    if b.isEmpty then []
    else
      let k := 64 - va % 64
      [(va, b.take k)] :: cutBeats f (va + k) (b.drop k)

def beatsOf (va : Nat) (b : List Byte) : List (List (Nat × List Byte)) := cutBeats (b.length / 64 + 2) va b

/-- Whether an engine that performs one entry at a time, and serves the queues of a cluster's cores in rotation, now serves this core's queue: `turn`
is the core it looks at first (R35). -/
def engineTurn (q : Nat → EngQ) (turn : Nat) (s : State) (core : Nat) : Bool :=
  let runnable := fun (c : Nat) => match (q c).head s with | some e => engineOn s e.org | none => false
  let busy := (clusterCores (clusterOf core)).find? (fun c => match (q c).head s with | some e => e.started && engineOn s e.org | none => false)
  match busy with
  | some c => c == core
  | none => ((List.range 8).map (fun i => pslotOf (clusterOf core) ((turn + i) % 8))).find? runnable == some core

/-- The bytes of a beat. -/
def beatBytes (x : List (Nat × List Byte)) : Nat := x.foldl (fun n r => n + r.2.length) 0

/-- The next output beat of a queue's head: written, its granules set full, its bytes credited (R183, R256, R269, R308). -/
def writeBeat (q : EngQ) (e : Entry) (x : List (Nat × List Byte)) : Act Unit := do
  let s ← Act.look id
  let w := EngQ.who s e.org q
  ownBeat w x
  creditObj w e.org.launch e.obj (beatBytes x)
  Act.upd (q.modHead (fun e => { e with beats := e.beats.drop 1 }))

/-! ### The copy engine -/

/-- Whether an address is a 16-byte aligned scratchpad address of the sender's windows. -/
def spadObject (s : State) (w : Who) (va : Nat) : Bool :=
  va % 16 == 0 && (match placeOf s w va 16 with | .spad _ _ _ => true | _ => false)

/-- The checks of R444 on a copy command. -/
def copyOk (s : State) (w : Who) (b : List Byte) : Bool :=
  let obj := payAt b 24 8
  msgEop b == 1 && zeroAt b (16 + 33) 15 && payAt b 32 1 / 4 == 0 && decide (payAt b 16 8 < 2 ^ 32) &&
  (obj == 2 ^ 64 - 1 || spadObject s w obj)

/-- The object of a copy command. -/
def copyObj (b : List Byte) : Option Nat := if payAt b 24 8 = 2 ^ 64 - 1 then none else some (payAt b 24 8)

/-- A copy entry completes: it leaves its queue, its reply is sent, and the turn passes. -/
def copyDone (core : Nat) (e : Entry) (s : State) : State :=
  engineReply e (leBytes 16 0) (((EngQ.copy core).pop s).modCluster (clusterOf core) (fun c => { c with copyTurn := (coreInCluster core + 1) % 8 }))

/-- The copy engine serves a core's queue now. -/
def copyTurnOf (s : State) (core : Nat) : Bool := engineTurn EngQ.copy (s.cluster (clusterOf core)).copyTurn s core

/-- Event COPY_COMMAND. -/
def execCopyCommand (core : Nat) (s : State) : Out := event (fun s =>
  match (EngQ.copy core).head s with
  | some e =>
    if e.started || !engineOn s e.org || !copyTurnOf s core then none
    else engineRun e.org s (do
      let w := EngQ.who s e.org (.copy core)
      Act.require (copyOk s w e.msg) Cause.copy
      let n := payAt e.msg 16 8
      if n = 0 then
        creditObj w e.org.launch (copyObj e.msg) 0
        Act.upd (copyDone core e)
      else Act.upd ((EngQ.copy core).modHead (fun e => { e with
        started := true, src := payAt e.msg 0 8, dst := payAt e.msg 8 8, len := n, obj := copyObj e.msg })))
  | none => none) s

/-- Event COPY_BEAT. -/
def execCopyBeat (core : Nat) (s : State) : Out := event (fun s =>
  match (EngQ.copy core).head s with
  | some e =>
    if !e.started || !engineOn s e.org || !copyTurnOf s core then none
    else engineRun e.org s (do
      let w := EngQ.who s e.org (.copy core)
      let room := 64 - e.dst % 64
      let n := if e.len < room then e.len else room
      let b ← engineRead w e.src n
      engineWrite w e.dst b (some (payAt e.msg 32 1 % 4))
      creditObj w e.org.launch e.obj n
      if e.len = n then Act.upd (copyDone core e)
      else Act.upd ((EngQ.copy core).modHead (fun e => { e with
        src := (e.src + n) % 2 ^ 64, dst := (e.dst + n) % 2 ^ 64, len := e.len - n })))
  | none => none) s

/-- The message `copy` builds (R444). -/
def copyMessage (src dst len obj : Word) (hint : Nat) : List Byte :=
  leBytes 1 2 ++ leBytes 1 1 ++ leBytes 2 0xFFFF ++ leBytes 12 0 ++ bytesOfWord src ++ bytesOfWord dst ++ bytesOfWord len ++ bytesOfWord obj ++
  leBytes 1 hint ++ leBytes 15 0

/-- `copy`. -/
def execCopy (e : Enc) (s : State) : Out := issue 0x6D e (fun p => do
  let a ← readX p e.a
  let b ← readX p e.b
  let c ← readX p e.c
  let x ← readX p e.e
  outsideRegion p
  let _ ← sendMessage p (copyMessage a b c (if e.e == .none then BitVec.allOnes 64 else x) e.hint.toNat)
  pure .next) s

/-! ### Queue fences (R187) -/

/-- The queues a QSET names, for a slot. -/
def joinSet (p qset : Nat) : List EngQ :=
  (if testBit qset 0 then [.matrix (coreOf p)] else []) ++ (if testBit qset 1 then [.copy (coreOf p)] else []) ++
  (if testBit qset 2 then [.jug (coreOf p)] else []) ++ (if testBit qset 3 then [.dot (clusterOf p)] else [])

/-- Whether a message on its way goes to a queue. -/
def goesTo (i : NetItem) : EngQ → Bool
  | .matrix c => i.kind == .command && msgTgt i.data == 1 && i.dst == c
  | .copy c => i.kind == .command && msgTgt i.data == 2 && i.dst == c
  | .jug c => i.kind == .command && msgTgt i.data == 3 && i.dst == c
  | .dot c => i.kind == .command && msgTgt i.data == 4 && i.dst == c

/-- A queue has room for an entry of the slot placed directly, behind the slot's own messages to it; matrix entries enter in ticket order. -/
def placeReady (s : State) (p : Nat) (q : EngQ) : Bool :=
  decide ((q.get s).length < q.depth) && !(s.net.any (fun i => i.src == p && goesTo i q)) &&
  (match q with
   | .matrix c => (s.core c).mx.accepted == (s.core c).mx.next && (match (s.core c).mx.tcfgPending with | none => true | some x => x == p)
   | .jug c => !(s.net.any (fun i => goesTo i (.jug c) && i.ginst == (s.slot p).ginst))
   | _ => true)

/-- An entry placed directly in a queue by a slot, with its ticket. -/
def placeEntry (p : Nat) (q : EngQ) (e : Entry) : Act Nat := do
  let k ← match q with
    | .matrix _ => takeTicket p
    | .jug _ => takeJugTicket p
    | _ => pure 0
  Act.upd (q.push { e with ticket := k })
  match q with
  | .matrix c => Act.upd (fun s => s.modCore c (fun x => { x with mx := { x.mx with accepted := x.mx.next } }))
  | _ => pure ()
  pure k

/-- The origin of what a slot places. -/
def originOf (p : Nat) (t : Slot) : Origin := { launch := t.launch.getD 0, ginst := t.ginst, vcore := t.vcore, pslot := p, act := t.act }

/-- The cores whose queues hold an entry of a join. -/
def joinHolds (l : List Entry) (id : Nat) : Bool := l.any (fun e => e.join == some id)
def joinQueues (s : State) (id : Nat) : List EngQ :=
  (s.cores.flatMap (fun x => (if joinHolds x.2.mx.queue id then [EngQ.matrix x.1] else []) ++
    (if joinHolds x.2.copyq id then [EngQ.copy x.1] else []) ++ (if joinHolds x.2.jug.queue id then [EngQ.jug x.1] else []))) ++
  s.clusters.flatMap (fun x => if joinHolds x.2.sdq id then [EngQ.dot x.1] else [])

/-- `qfence` and `qfence.wait`. -/
def execQfence (e : Enc) (s : State) : Out := issue 0x70 e (fun p => do
  outsideRegion p
  let s ← Act.look id
  let t := s.slot p
  match t.wait with
  | .join id => do
    Act.ready (joinQueues s id).isEmpty
    acquireTier p
    pure .next
  | _ =>
    let qs := joinSet p (e.imm32 % 16)
    if qs.isEmpty then pure .next
    else do
      if testBit e.imm32 0 then ownMatrix p
      let s ← Act.look id
      Act.ready (qs.all (placeReady s p))
      let id ← Act.fresh
      qs.forM (fun q => do let _ ← placeEntry p q { org := originOf p t, join := some id })
      if e.v == 1 then do
        Act.modSlot p (fun t => { t with wait := .join id })
        Act.blockKeeping
      else pure .next) s

/-! ### Retained words -/

/-- Whether a ticket is one of the last 64 that a counter has given out (R263, R313). -/
def lastTicket (next k : Nat) : Bool :=
  let d := (next + 2 ^ 32 - k % 2 ^ 32) % 2 ^ 32
  decide (k < 2 ^ 32) && decide (1 ≤ d) && decide (d ≤ 64)

/-- The last 64 words kept. -/
def keepLast {α : Type} (l : List α) : List α := l.drop (l.length - 64)

/-- A matrix entry's status word retained (R263). -/
def mxRecord (core ticket : Nat) (w : Word) (s : State) : State :=
  s.modCore core (fun c => { c with mx := { c.mx with status := keepLast (c.mx.status ++ [(ticket, w)]) } })

/-- A Juggler entry's words retained for its group copy (R313). -/
def jugRecord (core : Nat) (e : Entry) (w r : Word) (s : State) : State :=
  s.modCore core (fun c => { c with jug := { c.jug with
    counts := KV.modify {} c.jug.counts e.org.ginst (fun j => { j with kept := keepLast (j.kept ++ [(e.ticket, w, r, e.org.launch)]) }) } })

/-- A join entry leaves a queue whose head it is; where the queue keeps status words it leaves an OK word under its ticket. -/
def joinLeaves (id : Nat) (s : State) (q : EngQ) : State :=
  match q.get s with
  | e :: _ =>
    if e.join != some id then s
    else
      let s := q.pop s
      match q with
      | .matrix c => mxRecord c e.ticket (BitVec.ofNat 64 (e.ticket * 2 ^ 32)) s
      | .jug c => jugRecord c e (BitVec.ofNat 64 (e.ticket * 2 ^ 32)) 0 s
      | _ => s
  | [] => s

/-- Event QFENCE_JOIN_COMPLETE: every entry ahead of the join in every joined queue has completed. -/
def execQfenceJoinComplete (join : Nat) (s : State) : Out := event (fun s =>
  let qs := joinQueues s join
  if !qs.isEmpty && qs.all (fun q => match q.get s with | e :: _ => e.join == some join | [] => false) then
    some (qs.foldl (joinLeaves join) s)
  else none) s

end Sys2Proof.Machine
end

