-- ==== Sys2Proof/Machine/Lanes.lean ====
section
/-! DEFINITION. Class 4: lane arithmetic (R142 to R152). -/

namespace Sys2Proof.Machine

/-! ### Lanes (R142) -/

/-- The lanes of a vector, of the width of a format, lane 0 first. -/
def lanesOf (t : Nat) (v : Vec) : List Nat := splitBits (fmtWidth t) (128 / fmtWidth t) v.toNat
/-- A vector made of lanes. -/
def ofLanes (t : Nat) (l : List Nat) : Vec := BitVec.ofNat 128 (joinBits (fmtWidth t) l)
/-- The lanes a format has. -/
def laneCount (t : Nat) : Nat := 128 / fmtWidth t

/-- A lane operation over three operands, and the flags of all lanes ORed (R143). -/
def mapLanes (t : Nat) (f : Nat → Nat → Nat → Nat × Fl) (a b c : Vec) : Vec × Fl :=
  let r := List.zipWith (fun x (y : Nat × Nat) => f x y.1 y.2) (lanesOf t a) (List.zip (lanesOf t b) (lanesOf t c))
  (ofLanes t (r.map Prod.fst), r.foldl (fun l x => l ||| x.2) Fl.none)

/-- The lane stems that compute on values. -/
inductive LaneOp where
  | add | sub | mul | mulh | fma | fms | min | max | abs | neg | avg | avgDn | clz | popc
  deriving DecidableEq, Repr

/-- The exact value of an integer lane (R146); `u` is the raw lane. -/
def LaneOp.exact (k : LaneOp) (w u : Nat) (a b c : Int) : Int :=
  match k with
  | .add => a + b
  | .sub => a - b
  | .mul => a * b
  | .mulh => a * b / ((2 ^ w : Nat) : Int)
  | .fma => a * b + c
  | .fms => a * b - c
  | .min => if a ≤ b then a else b
  | .max => if a ≤ b then b else a
  | .abs => if a < 0 then -a else a
  | .neg => -a
  | .avg => (a + b + 1) / 2
  | .avgDn => (a + b) / 2
  | .clz => ((Machine.clz w u : Nat) : Int)
  | .popc => ((popcount w u : Nat) : Int)

/-- An integer lane (R146). -/
def intLane (k : LaneOp) (t : Nat) (sat : Bool) (x y z : Nat) : Nat × Fl :=
  let w := fmtWidth t
  let sg := fmtSigned t
  let e := k.exact w x (valN sg w x) (valN sg w y) (valN sg w z)
  let r := if sat then satInt sg w e else (e, Fl.none)
  (wrapN w r.1, r.2)

/-- A floating-point lane (R147). -/
def fltLane (k : LaneOp) (t : Nat) (rm : Rm) (x y z : Nat) : Nat × Fl :=
  let top := 2 ^ (fmtWidth t - 1)
  match k with
  | .add => addFlt t rm x y
  | .sub => subFlt t rm x y
  | .mul => mulFlt t rm x y
  | .fma => fmaFlt t rm false x y z
  | .fms => fmaFlt t rm true x y z
  | .min => minmaxFlt t false x y
  | .max => minmaxFlt t true x y
  | .abs => (x % top, Fl.none)
  | .neg => (if x < top then x + top else x - top, Fl.none)
  | _ => (x, Fl.none)

/-- A lane of either set. -/
def laneOp (k : LaneOp) (t : Nat) (sat : Bool) (rm : Rm) (x y z : Nat) : Nat × Fl :=
  if typFlt t then fltLane k t rm x y z else intLane k t sat x y z

/-- The condition of `vcmp` on an integer lane. -/
def intCompare (v : Nat) (a b : Int) : Bool :=
  match v with
  | 0 => decide (a = b)
  | 1 => decide (a ≠ b)
  | 2 => decide (a < b)
  | 3 => decide (a ≤ b)
  | 4 => decide (b < a)
  | _ => decide (b ≤ a)

/-- The condition of `vcmp` on a floating-point lane, and NV for a signalling NaN (R148). -/
def fltCompare (v : Nat) (a b : FVal) : Bool × Fl :=
  let un := a.isNan || b.isNan
  let c := match v with
    | 0 => !un && eqVal a b
    | 1 => un || !eqVal a b
    | 2 => !un && ltVal a b
    | 3 => !un && !ltVal b a
    | 4 => !un && ltVal b a
    | 5 => !un && !ltVal a b
    | _ => un
  (c, Fl.when (a.isSnan || b.isSnan) Fl.nv)

/-- All ones or all zeros of a lane. -/
def maskLane (t : Nat) (c : Bool) : Nat := if c then 2 ^ fmtWidth t - 1 else 0

def cmpLane (v t x y : Nat) : Nat × Fl :=
  if typFlt t then
    let r := fltCompare v (decodeFlt t x) (decodeFlt t y)
    (maskLane t r.1, r.2)
  else (maskLane t (intCompare v (valN (fmtSigned t) (fmtWidth t) x) (valN (fmtSigned t) (fmtWidth t) y)), Fl.none)

/-- A shifted lane (R150); `k` is reduced modulo the width. -/
def shiftLane (s : Logic) (t x k : Nat) : Nat :=
  let w := fmtWidth t
  let n := k % w
  match s with
  | .shl => x * 2 ^ n % 2 ^ w
  | .shr => x / 2 ^ n
  | _ => wrapN w (valN true w x / ((2 ^ n : Nat) : Int))

/-! ### Shared bodies -/

/-- Reads A, B and C, computes V(D), raises flags, writes V(D). Fields an opcode leaves unused read as zero. -/
def vecBody (e : Enc) (f : Slot → Vec → Vec → Vec → Vec × Fl) (p : Nat) : Act Flow := do
  operandsBound p e
  let a ← readV p e.a
  let b ← readV p e.b
  let c ← readV p e.c
  let t ← Act.slot p
  let r := f t a b c
  raise p r.2
  writeV p e.d r.1
  pure .next

def laneBody (k : LaneOp) (e : Enc) : Nat → Act Flow :=
  vecBody e (fun t a b c => mapLanes e.t (laneOp k e.t (e.v == 1) t.rm) a b c)

/-- Logical operations on all 128 bits (R149). -/
def vecLogic (k : Logic) (inv : Bool) (a b : Vec) : Vec :=
  let b := if inv then ~~~b else b
  match k with
  | .and => a &&& b
  | .or => a ||| b
  | _ => a ^^^ b

def vlogicBody (k : Logic) (e : Enc) : Nat → Act Flow := vecBody e (fun _ a b _ => (vecLogic k (e.v == 1) a b, Fl.none))

def vshiftBody (k : Logic) (e : Enc) : Nat → Act Flow :=
  vecBody e (fun _ a b _ => mapLanes e.t (fun x y _ => (shiftLane k e.t x (if e.isImm32 then e.imm32 else y), Fl.none)) a b 0)

/-- A special function on each f32 lane (R152). -/
def funBody (f : Nat → Nat × Fl) (e : Enc) : Nat → Act Flow := vecBody e (fun _ a _ _ => mapLanes e.t (fun x _ _ => f x) a 0 0)

/-- The value `vdot` puts in lane 0 (R151). -/
def vdotValue (t : Nat) (a b : List Vec) (acc : Nat) : Nat × Fl :=
  let n := if t == 0x8 then 32 else 16
  let elems := fun (l : List Vec) => ((l.flatMap (lanesOf t)).take n).map (elemVal t)
  dotFixed 0 (n / 16) (elems a) (elems b) acc

/-! ### Meanings -/

def execVadd (e : Enc) (s : State) : Out := issue 0x80 e (laneBody .add e) s
def execVsub (e : Enc) (s : State) : Out := issue 0x81 e (laneBody .sub e) s
def execVmul (e : Enc) (s : State) : Out := issue 0x82 e (laneBody .mul e) s
def execVmulh (e : Enc) (s : State) : Out := issue 0x83 e (laneBody .mulh e) s
def execVfma (e : Enc) (s : State) : Out := issue 0x84 e (laneBody .fma e) s
def execVfms (e : Enc) (s : State) : Out := issue 0x85 e (laneBody .fms e) s
def execVmin (e : Enc) (s : State) : Out := issue 0x86 e (laneBody .min e) s
def execVmax (e : Enc) (s : State) : Out := issue 0x87 e (laneBody .max e) s
def execVabs (e : Enc) (s : State) : Out := issue 0x88 e (laneBody .abs e) s
def execVneg (e : Enc) (s : State) : Out := issue 0x89 e (laneBody .neg e) s
def execVand (e : Enc) (s : State) : Out := issue 0x8A e (vlogicBody .and e) s
def execVor (e : Enc) (s : State) : Out := issue 0x8B e (vlogicBody .or e) s
def execVxor (e : Enc) (s : State) : Out := issue 0x8C e (vlogicBody .xor e) s
def execVshl (e : Enc) (s : State) : Out := issue 0x8D e (vshiftBody .shl e) s
def execVshr (e : Enc) (s : State) : Out := issue 0x8E e (vshiftBody .shr e) s
def execVsra (e : Enc) (s : State) : Out := issue 0x8F e (vshiftBody .sra e) s

/-- `vcmp` (R148). -/
def execVcmp (e : Enc) (s : State) : Out :=
  issue 0x90 e (vecBody e (fun _ a b _ => mapLanes e.t (fun x y _ => cmpLane e.v e.t x y) a b 0)) s

/-- `vsel` (R149). -/
def execVsel (e : Enc) (s : State) : Out :=
  issue 0x91 e (vecBody e (fun _ a b c => mapLanes e.t (fun x y z => (if z != 0 then x else y, Fl.none)) a b c)) s

/-- `vdot` (R151): lanes 1 to 3 of D are those of C. -/
def execVdot (e : Enc) (s : State) : Out := issue 0x92 e (fun p => do
  let m := dotVectors e.t
  operandsWide p m e
  let a ← readWide p m e.a
  let b ← readWide p m e.b
  let c ← readV p e.c
  let r := vdotValue e.t a b (c.toNat % 2 ^ 32)
  raise p r.2
  writeV p e.d (BitVec.ofNat 128 (c.toNat / 2 ^ 32 * 2 ^ 32 + r.1))
  pure .next) s

/-- `vavg` (R146). -/
def execVavg (e : Enc) (s : State) : Out := issue 0x93 e
  (vecBody e (fun _ a b _ => mapLanes e.t (intLane (if e.v == 1 then .avgDn else .avg) e.t false) a b 0)) s

def execVclz (e : Enc) (s : State) : Out := issue 0x94 e (laneBody .clz e) s
def execVpopc (e : Enc) (s : State) : Out := issue 0x95 e (laneBody .popc e) s
def execVrcp (e : Enc) (s : State) : Out := issue 0x96 e (funBody rcpF32 e) s
def execVrsq (e : Enc) (s : State) : Out := issue 0x97 e (funBody rsqF32 e) s
def execVexp2 (e : Enc) (s : State) : Out := issue 0x98 e (funBody exp2F32 e) s
def execVlog2 (e : Enc) (s : State) : Out := issue 0x99 e (funBody log2F32 e) s

end Sys2Proof.Machine
end

