-- ==== Sys2Proof/Machine/MatrixUnit.lean ====
section
/-! DEFINITION. The matrix unit and the stack dot units (R247 to R273). -/

namespace Sys2Proof.Machine

/-! ### Configuration (R249 to R251) -/

/-- The width class of an operand format (R250); none for a format that is not accepted. -/
def opndClass (f : Nat) : Option Nat :=
  match f with
  | 0x0B | 0x0C => some 16
  | 0x00 | 0x09 | 0x0A | 0x12 => some 8
  | 0x08 | 0x11 | 0x13 => some 4
  | 0x10 => some 2
  | _ => none

/-- SC: bytes of scale plane for one operand row (R250). -/
def scaleBytes (f : Nat) : Nat := match f with | 0x12 => 32 | 0x11 => 64 | 0x13 => 8 | 0x10 => 128 | _ => 0
/-- E: elements of one 256-byte operand row. -/
def rowElems (f : Nat) : Nat := 2048 / fmtWidth f

def classesOk (a b : Nat) : Bool := (opndClass a).isSome && opndClass a == opndClass b

def tcRhnd (w : Word) : Nat := bitsN w.toNat 63 48
def tcTrim (w : Word) : Nat := bitsN w.toNat 43 42
def tcLayout (w : Word) : Nat := bitsN w.toNat 41 40
def tcAfmt (w : Word) : Nat := bitsN w.toNat 39 35
def tcBfmt (w : Word) : Nat := bitsN w.toNat 34 30
def tcM (w : Word) : Nat := bitsN w.toNat 11 8 + 1
def tcN (w : Word) : Nat := bitsN w.toNat 3 0 + 1

/-- Status codes of R260. -/
def mxBadFmt : Nat := 1
def mxBadCmd : Nat := 2
def mxBadStack : Nat := 3
def mxNoHandler : Nat := 4
def mxUnavailable : Nat := 0xFF

/-- The checks of `tcfg.set` in order (R251): the status. -/
def tcfgCheck (w : Word) (handlers : Nat) : Nat :=
  let n := w.toNat
  if bitsN n 47 44 != 0 || bitsN n 29 12 != 0 || bitsN n 7 4 != 0 || tcLayout w == 3 then mxBadCmd
  else if !classesOk (tcAfmt w) (tcBfmt w) then mxBadFmt
  else if tcRhnd w != 0xFFFF && decide (handlers ≤ tcRhnd w) then mxBadCmd
  else 0

/-- Entries of the unit not yet complete, those on their way included: their tickets. -/
def mxOpen (s : State) (core : Nat) : List Nat :=
  (s.core core).mx.queue.map (fun e => e.ticket) ++
  ((s.net.filter (fun i => goesTo i (.matrix core))).map (fun i => i.ticket))

/-- Tiles written whole carry no uncorrectable error (R248, R430). -/
def tilesClean (core mask : Nat) (s : State) : State :=
  s.modCore core (fun c => { c with mx := { c.mx with errs := List.filter (fun (x : Nat × Bool) => !testBit mask (x.1 / 128)) c.mx.errs } })

/-- The check of R169, step 6, for `n` elements of a tile from element (i, 0) on (R248): a word of them with an uncorrectable error ends the launch, with the cause that
the error has (log 84). -/
def tileGuard (core : Nat) (k : AKind) (tile i n : Nat) : Act Unit := do
  let s ← Act.look id
  let w := (tile * 256 + i * 16) / 2
  match List.find? (fun (x : Nat × Bool) => decide (w ≤ x.1) && decide (2 * x.1 < 2 * w + n)) (s.core core).mx.errs with
  | some x => fun _ => .error (.fault (if x.2 then Cause.poison + k.code else Cause.dataIntegrity) 0 (some (tileLoc core (2 * x.1))))
  | none => pure ()

/-- `tcfg.set` (R251, R266): pending until the pipeline is empty. -/
def execTcfgSet (e : Enc) (s : State) : Out := issue 0xC0 e (fun p => do
  operandsBound p e
  claimMatrix p
  tcfgFree p
  let t0 ← Act.slot p
  let a ← readX p e.a
  let s ← Act.look id
  let core := coreOf p
  if !(mxOpen s core).isEmpty then do
    Act.modSlot p (fun t => { t with chans := t0.chans })
    Act.upd (fun s => s.modCore core (fun c => { c with mx := { c.mx with tcfgPending := some p } }))
    Act.blockKeeping
  else do
    let st := tcfgCheck a (s.obj (s.launch ((s.slot p).launch.getD 0)).objKey).handlers.length
    Act.upd (fun s => s.modCore core (fun c => { c with mx :=
      if st = 0 then { c.mx with tcfg := a, tiles := [], tcfgPending := none } else { c.mx with tcfgPending := none } }))
    Act.upd (fun s => if st = 0 then tilesClean core 15 s else s)
    writeX p e.d (BitVec.ofNat 64 st)
    pure .next) s

/-- `tcfg.get` (R266). -/
def execTcfgGet (e : Enc) (s : State) : Out := issue 0xC0 e (fun p => do
  claimMatrix p
  let w ← Act.look (fun s => (s.core (coreOf p)).mx.tcfg)
  writeX p e.d w
  pure .next) s

/-! ### Instructions (R262 to R265) -/

/-- `mxq`: byte 0 of the message is 1. -/
def execMxq (e : Enc) (s : State) : Out := issue 0xC1 e (fun p => do
  let t ← Act.slot p
  let k ← sendMessage p (patch (msgBytes t (regNo e.a)) 0 (leBytes 1 1))
  writeX p e.d (BitVec.ofNat 64 k)
  pure .next) s

/-- `sdq`: byte 0 of the message is 4. -/
def execSdq (e : Enc) (s : State) : Out := issue 0xC5 e (fun p => do
  let t ← Act.slot p
  let _ ← sendMessage p (patch (msgBytes t (regNo e.a)) 0 (leBytes 1 4))
  pure .next) s

/-- The status word that a core keeps of a ticket (R263). -/
def mxKept (m : Matrix) (k : Nat) : Option Word :=
  if lastTicket m.next k then (m.status.find? (fun x => x.1 == k)).map Prod.snd else none

/-- `mxwait`. -/
def execMxwait (e : Enc) (s : State) : Out := issue 0xC2 e (fun p => do
  operandsBound p e
  claimMatrix p
  let a ← readX p e.a
  let s ← Act.look id
  let want := if e.a == .none then (s.slot p).mxLast else some a.toNat
  match want with
  | none => writeX p e.d (BitVec.ofNat 64 mxUnavailable)
  | some k =>
    Act.ready (!(mxOpen s (coreOf p)).contains k)
    acquireTier p
    writeX p e.d ((mxKept (s.core (coreOf p)).mx k).getD (BitVec.ofNat 64 mxUnavailable))
  pure .next) s

/-- An element of a tile. -/
def tileAt (m : Matrix) (tile i j : Nat) : BitVec 32 := KV.get 0 m.tiles (tile * 256 + i * 16 + j)
/-- Four elements of a tile row as a vector. -/
def tileVec (m : Matrix) (tile i k : Nat) : Vec := ofLanes 0x6 ((List.range 4).map (fun h => (tileAt m tile i (4 * k + h)).toNat))

/-- `trow`: after every entry placed before it. -/
def execTrow (e : Enc) (s : State) : Out := issue 0xC3 e (fun p => do
  operandsBound p e
  claimMatrix p
  let t0 ← Act.slot p
  let a ← readX p e.a
  Act.require (a.toNat / 64 == 0) Cause.illegalOperand
  let s ← Act.look id
  let m := (s.core (coreOf p)).mx
  let bound := match t0.wait with | .tickets b => b | _ => m.next
  let earlier := (mxOpen s (coreOf p)).any (fun k => decide (0 < (bound + 2 ^ 32 - k) % 2 ^ 32) && decide ((bound + 2 ^ 32 - k) % 2 ^ 32 ≤ 2 ^ 31))
  if earlier then do
    Act.modSlot p (fun t => { t with chans := t0.chans, wait := .tickets bound })
    Act.blockKeeping
  else do
    let tile := bitsN a.toNat 5 4
    let row := a.toNat % 16
    tileGuard (coreOf p) .load tile row 16
    Act.modSlot p (fun t => (List.range 4).foldl (fun t k => t.setV (regNo e.d + k) (tileVec m tile row k)) t)
    pure .next) s

/-- The message of a ZERO entry (R265). -/
def zeroMessage (mask : Nat) : List Byte :=
  leBytes 1 1 ++ leBytes 1 5 ++ leBytes 2 0xFFFF ++ leBytes 12 0 ++ leBytes 36 0 ++ leBytes 4 0xFFFFFFFF ++ leBytes 2 0 ++ leBytes 1 mask ++ leBytes 5 0

/-- `tzero`. -/
def execTzero (e : Enc) (s : State) : Out := issue 0xC4 e (fun p => do
  operandsBound p e
  claimMatrix p
  let a ← readX p e.a
  Act.require (a.toNat / 16 == 0) Cause.illegalOperand
  let s ← Act.look id
  Act.ready (placeReady s p (.matrix (coreOf p)))
  let k ← placeEntry p (.matrix (coreOf p)) { org := originOf p (s.slot p), msg := zeroMessage (a.toNat % 16) }
  writeX p e.d (BitVec.ofNat 64 k)
  pure .next) s

/-! ### Ownership (R247) -/

/-- The unit without its owner, when the owner has no ACTIVE or PARKED act on the core and nothing open, or has ended. -/
def matrixRelease (core : Nat) (s : State) : Option State :=
  match (s.core core).mx.owner with
  | none => none
  | some l =>
    let acts := (List.range 4).any (fun k => let t := s.slot (core + k); (t.st == .active || t.st == .parked) && !t.boundary && t.launch == some l)
    if ((s.launch l).st.terminal) || (s.launch l).st == .ending || (!acts && (mxOpen s core).isEmpty) then
      some (tilesClean core 15 (s.modCore core (fun c => { c with mx := {} })))
    else none

/-- Every unit whose owner keeps it no longer is released, in the cycle in which that comes about (R247). -/
def releaseUnits (s : State) : State :=
  s.cores.foldl (fun s (e : Nat × Core) => if e.2.mx.owner.isNone then s else (matrixRelease e.1 s).getD s) s

/-- Event MATRIX_OWNER_RELEASE. -/
def execMatrixOwnerRelease (core : Nat) (s : State) : Out := event (matrixRelease core) s

/-! ### Matrix entries (R252, R253, R260) -/

/-- Payload bytes [7:0] to [44] of an entry, by name. -/
def mxAaddr (b : List Byte) : Nat := payAt b 0 8
def mxBaddr (b : List Byte) : Nat := payAt b 8 8
def mxAstride (b : List Byte) : Nat := payAt b 16 4
def mxBstride (b : List Byte) : Nat := payAt b 20 4
def mxAscl (b : List Byte) : Nat := payAt b 24 4
def mxBscl (b : List Byte) : Nat := payAt b 28 4
def mxDst (b : List Byte) : Nat := payAt b 32 4
def mxObj (b : List Byte) : Nat := payAt b 36 4
def mxKsteps (b : List Byte) : Nat := payAt b 40 2
def mxTile (b : List Byte) : Nat := payAt b 42 1
def mxFlags (b : List Byte) : Nat := payAt b 43 1
def mxOfmt (b : List Byte) : Nat := payAt b 44 1

def mult16 (v : Nat) : Bool := v % 16 == 0
/-- A scale-plane field agrees with its operand's SC. -/
def sclOk (f v : Nat) : Bool := if scaleBytes f = 0 then v == 0xFFFFFFFF else v != 0xFFFFFFFF && mult16 v
def objOk (v : Nat) : Bool := v == 0xFFFFFFFF || mult16 v

/-- The checks of R252 and R253 when an entry starts: its status. -/
def mxCheck (tc : Word) (b : List Byte) : Nat :=
  let common := zeroAt b (16 + 45) 3 && objOk (mxObj b)
  let operands := zeroAt b 16 32
  let bad := fun (c : Bool) => if c then 0 else mxBadCmd
  match msgEop b with
  | 1 | 2 =>
    let f := mxFlags b
    bad (common && mxDst b == 0 && mxOfmt b == 0 && mult16 (mxAaddr b) && mult16 (mxBaddr b) && mult16 (mxAstride b) &&
      (!testBit f 0 || mxAaddr b % 64 == 0) && (!testBit f 1 || mxBaddr b % 64 == 0) && decide (1 ≤ mxKsteps b) && decide (mxKsteps b ≤ 4096) &&
      sclOk (tcAfmt tc) (mxAscl b) && sclOk (tcBfmt tc) (mxBscl b) && decide (mxTile b < 4) && decide (f < 16))
  | 3 =>
    if !(common && zeroAt b 16 20 && mxAscl b == 0 && mxBscl b == 0 && mult16 (mxDst b) && mxKsteps b == 0 && decide (mxTile b < 4) && mxFlags b == 0) then mxBadCmd
    else if mxOfmt b == 0x0B || mxOfmt b == 0x0C || mxOfmt b == 0x0D then 0 else mxBadFmt
  | 4 => bad (common && operands && mxDst b == 0 && mxKsteps b == 0 && mxOfmt b == 0 && decide (mxTile b < 4) && (mxFlags b == 0 || mxFlags b == 8))
  | 5 => bad (common && operands && mxDst b == 0 && mxKsteps b == 0 && mxOfmt b == 0 && decide (mxTile b < 16) && mxFlags b == 0)
  | _ => mxBadCmd

/-- The status word of an entry (R260); `fl` are its flags. -/
def entryWord (ticket retry fl st : Nat) : Word := BitVec.ofNat 64 (ticket * 2 ^ 32 + (if retry < 255 then retry else 255) * 2 ^ 16 + fl % 64 * 2 ^ 8 + st)

/-- A matrix entry completes: a credit of 0 bytes when `credit`, its status retained, its reply sent. -/
def mxFinish (core : Nat) (e : Entry) (st : Nat) (credit : Bool) : Act Unit := do
  let s ← Act.look id
  let w := entryWord e.ticket e.retry e.status.toNat st
  if credit then creditObj (whoOrigin s e.org) e.org.launch (objField (mxObj e.msg)) 0
  Act.upd (fun s => engineReply e (bytesOfWord w ++ leBytes 8 0) (mxRecord core e.ticket w ((EngQ.matrix core).pop s)))

/-- An event of the matrix unit on its head entry: checked when it starts, refused with a status, or worked on. -/
def mxEvent (core : Nat) (mine : Entry → Bool) (body : Entry → Matrix → Act Unit) (s : State) : Option State :=
  match (EngQ.matrix core).head s with
  | some e =>
    let m := (s.core core).mx
    if !mine e || !engineOn s e.org then none
    else engineRun e.org s (do
      let st := if e.started then 0 else mxCheck m.tcfg e.msg
      if st != 0 then mxFinish core e st false else body { e with started := true } m)
  | none => none

/-! ### MMA and MMAZ (R253 to R259) -/

/-- The elements of an operand row: each a value and an exact scale (R43, R46, R49). A signalling scale makes signalling elements. DESIGN CHOICE: an
element 0 under an infinite scale is a quiet NaN that raises no NV by itself (log 91). -/
def rowValues (f : Nat) (row scale : List Byte) : List (FVal × FVal) :=
  let one : FVal := .fin false 1 0
  let els := row.flatMap (fun b => splitBits (fmtWidth f) (8 / fmtWidth f) b.toNat)
  if f = 0x0B ∨ f = 0x0C then (List.range 128).map (fun i => (decodeFlt f (fieldAt row (2 * i) 2), one))
  else els.mapIdx (fun i x =>
    if isLb f then
      let b := i / 16
      (lbDecode f (fieldAt scale (2 * b) 1) (fieldAt scale (2 * b + 1) 1 / 2 ^ (i % 16 / 2) % 2) x, one)
    else if f = 0x13 then
      let q := elemVal 0x8 x
      match decodeFlt 0x0C (fieldAt scale (2 * (i / 128)) 2) with
      | .nan sig => (.nan sig, one)
      | .inf neg => if q.isZero then (.nan false, one) else (.inf (neg != q.negative), one)
      | c => (q, c)
    else (elemVal f x, one))

/-- One group's products: magnitudes trimmed, scales applied exactly (R57). -/
def scaledProducts (c : Nat) (as bs : List (FVal × FVal)) : List FVal × Fl :=
  (List.zipWith (fun a b =>
    let p := mulTrim c a.1 b.1
    let x := mulExact p.1 a.2
    let y := mulExact x.1 b.2
    (y.1, p.2 ||| x.2 ||| y.2)) as bs).foldr (fun p q => (p.1 :: q.1, p.2 ||| q.2)) ([], Fl.none)

/-- `dot_fixed` over `n` groups of 16 elements with scales (R54). -/
def dotScaled (c : Nat) : Nat → List (FVal × FVal) → List (FVal × FVal) → Nat → Nat × Fl
  | 0, _, _, acc => (acc, Fl.none)
  | n + 1, as, bs, acc =>
    let (ps, l) := scaledProducts c (as.take 16) (bs.take 16)
    let (v, l1) := sumExact ps
    let (g, l2) := encodeFlt 0x0D .rne false (if v.isZero then .fin false 0 0 else v)
    let (a, l3) := addFlt 0x0D .rne acc g
    let (r, l4) := dotScaled c n (as.drop 16) (bs.drop 16) a
    (r, l ||| l1 ||| l2 ||| l3 ||| l4)

/-- 256 bytes of an operand stream from its `k`-th on (R131, R253). -/
def streamRow (w : Who) (desc : List Byte) (k : Nat) : Act (List Byte) := do
  let d := SDesc.ofBytes desc
  let n := 256 / d.accessBytes
  Act.require (sdescOk desc && decide (k * n + n ≤ d.total)) Cause.stream
  let parts ← ((List.range n).map (fun j => d.address (k * n + j))).mapM (fun va =>
    if va % d.accessBytes != 0 then Act.accessFault Cause.misalign .engine va else engineRead w va d.accessBytes)
  pure parts.flatten

/-- Row `i` of an operand at step `k`: A when `isA`, else B. An AADDR or BADDR that names another window than the own scratchpad is read there. DESIGN CHOICE
(log 143). -/
def operandRow (w : Who) (tc : Word) (e : Entry) (isA : Bool) (i k : Nat) : Act (List (FVal × FVal)) := do
  let b := e.msg
  let f := if isA then tcAfmt tc else tcBfmt tc
  let rows := if isA then tcM tc else tcN tc
  let strm := testBit (mxFlags b) (if isA then 0 else 1)
  let row ←
    if strm then streamRow w (if isA then e.descA else e.descB) (k * rows + i)
    else engineRead w (((if isA then mxAaddr b else mxBaddr b) + i * (if isA then mxAstride b else mxBstride b) + 256 * k) % 2 ^ 64) 256
  let sc := scaleBytes f
  let scale ← if sc = 0 then pure [] else ownRead w ((if isA then mxAscl b else mxBscl b) + (i * mxKsteps b + k) * sc) sc
  pure (rowValues f row scale)

/-- The stream descriptors, read at the start of the command; one that R130 refuses is a fault. -/
def readDescs (w : Who) (e : Entry) : Act Entry := do
  let one := fun (strm : Bool) (old : List Byte) (va : Nat) => do
    if strm && old.isEmpty then
      let d ← engineRead w va 64
      Act.require (sdescOk d) Cause.stream
      pure d
    else pure old
  let a ← one (testBit (mxFlags e.msg) 0) e.descA (mxAaddr e.msg)
  let b ← one (testBit (mxFlags e.msg) 1) e.descB (mxBaddr e.msg)
  pure { e with descA := a, descB := b }

/-- One K step of an MMA: the tile, and the flags. -/
def kStep (tc : Word) (tile : Nat) (as bs : List (List (FVal × FVal))) (tiles : KV (BitVec 32)) : KV (BitVec 32) × Fl :=
  let c := pairColumn (tcAfmt tc) (tcBfmt tc) (tcTrim tc)
  let n := rowElems (tcAfmt tc) / 16
  (as.mapIdx (fun i a => (i, a))).foldl (fun acc x =>
    (bs.mapIdx (fun j b => (j, b))).foldl (fun acc y =>
      let k := tile * 256 + x.1 * 16 + y.1
      let r := dotScaled c n x.2 y.2 (KV.get (0 : BitVec 32) acc.1 k).toNat
      (KV.set acc.1 k (BitVec.ofNat 32 r.1), acc.2 ||| r.2)) acc) (tiles, Fl.none)

/-- A tile set to +0. -/
def zeroTile (tile : Nat) (t : KV (BitVec 32)) : KV (BitVec 32) := t.filter (fun x => x.1 / 256 != tile)

/-- Whether a drain follows the last K step. -/
def wantsDrain (b : List Byte) : Bool := testBit (mxFlags b) 2

/-! ### Residue check (R258, R259) -/

/-- The products of a group as signed integers and exponents; none when one of them is NaN or infinite. -/
def groupTerms (ps : List FVal) : Option (List (Int × Int)) :=
  ps.mapM (fun x => match x with | .fin neg m e => some (if neg then -(m : Int) else (m : Int), e) | _ => none)

/-- e0 of a group. -/
def lowExponent (l : List (Int × Int)) : Int := l.foldl (fun e x => if x.2 < e then x.2 else e) ((l.map Prod.snd).headD 0)

/-- T: the exact sum of a group. -/
def adderSum (l : List (Int × Int)) : Int := l.foldl (fun t x => t + x.1 * (2 : Int) ^ (x.2 - lowExponent l).toNat) 0

/-- r: the residue of a group, from its products and exponents alone. -/
def groupResidue (l : List (Int × Int)) : Nat :=
  l.foldl (fun r x => r + (x.1 % 255).toNat * 2 ^ ((x.2 - lowExponent l).toNat % 8)) 0 % 255

/-- A number with one bit flipped. -/
def flipBit (t : Int) (k : Nat) : Int := if t / (2 : Int) ^ k % 2 = 0 then t + (2 : Int) ^ k else t - (2 : Int) ^ k

/-- The check of a group in whose exact sum a fault has flipped a bit: SYND of the mismatch, or none when the residues agree. -/
def checkFlipped (l : List (Int × Int)) (k : Nat) : Option Nat :=
  let r := groupResidue l
  let t := (flipBit (adderSum l) k % 255).toNat
  if r = t then none else some (r + 256 * t)

/-- The first group of operand rows that the check covers. -/
def firstCovered (c : Nat) : Nat → List (FVal × FVal) → List (FVal × FVal) → Option (List (Int × Int))
  | 0, _, _ => none
  | n + 1, as, bs =>
    match groupTerms (scaledProducts c (as.take 16) (bs.take 16)).1 with
    | some l => some l
    | none => firstCovered c n (as.drop 16) (bs.drop 16)

/-- The mismatches of the computations of a step, as the SYND of each: `flips` gives, for each computation, the bit that a fault flips in the exact sum
of the step's first covered group, if it has one (log 35). -/
def stepMismatches (c n : Nat) (as bs : List (List (FVal × FVal))) (flips : List Nat) : List Nat :=
  if flips.isEmpty then []
  else match as.findSome? (fun a => bs.findSome? (fun b => firstCovered c n a b)) with
    | none => []
    | some l => flips.filterMap (checkFlipped l)

/-- The machine check of a second residue mismatch (R259, R432), and the end of the launch. -/
def residueFault (e : Entry) (core die unit synd : Nat) (s : State) : State :=
  let l := s.launch e.org.launch
  let s := machineCheck s { source := 5, sev := 2, die := die, part := l.part, launch := l.lid, pslot := core, unit := unit, synd := synd }
  actFault none e.org.launch { cause := Cause.dataIntegrity, detail := 0, where_ := whereOf s e.org, ginst := (s.ginst e.org.ginst).num } s

/-- The number of a core within its die. -/
def coreNumber (core : Nat) : Nat := clusterOf core % 64 * 8 + coreInCluster core

/-- The entry after a K step, and what follows the last (R254, R257, R272). -/
def mmaDone (core : Nat) (tc : Word) (e : Entry) : Act Unit := do
  if e.done = mxKsteps e.msg then
    if wantsDrain e.msg then
      if tcRhnd tc = 0xFFFF then mxFinish core e mxNoHandler true else pure ()
    else mxFinish core e 0 true

/-- One K step of the head entry; a step that the residue check finds wrong is computed again, and a second mismatch ends the launch (R259). -/
def mmaStep (core : Nat) (flips : List Nat) (e : Entry) (m : Matrix) : Act Unit := do
  let s ← Act.look id
  let w := whoOrigin s e.org
  let tc := m.tcfg
  let tile := mxTile e.msg
  let e ← readDescs w e
  let as ← (List.range (tcM tc)).mapM (fun i => operandRow w tc e true i e.done)
  let bs ← (List.range (tcN tc)).mapM (fun j => operandRow w tc e false j e.done)
  if msgEop e.msg == 2 then Act.upd (tilesClean core (2 ^ tile))
  else (List.range (tcM tc)).forM (fun i => tileGuard core .engine tile i (tcN tc))
  match stepMismatches (pairColumn (tcAfmt tc) (tcBfmt tc) (tcTrim tc)) (rowElems (tcAfmt tc) / 16) as bs (flips.take 2) with
  | [_, v] => Act.upd (residueFault e core (dieOf core) (coreNumber core) v)
  | l => do
    let tiles := if msgEop e.msg == 2 then zeroTile tile m.tiles else m.tiles
    let r := kStep tc tile as bs tiles
    let e := { e with done := e.done + 1, status := e.status ||| r.2.setWidth 64, retry := e.retry + l.length, msg := patch e.msg 1 (leBytes 1 1) }
    Act.upd (fun s => (EngQ.matrix core).modHead (fun _ => e) (s.modCore core (fun c => { c with mx := { c.mx with tiles := r.1 } })))
    mmaDone core tc e

/-- A K step event. `flips` lists, for the step's computation and for its recomputation, the bit that a fault flips (R258, R259). -/
def mmaEvent (core : Nat) (flips : List Nat) (mine : Nat → Bool) (s : State) : Option State :=
  mxEvent core (fun e => mine (msgEop e.msg) && !e.dispatched && !(e.started && e.done == mxKsteps e.msg)) (mmaStep core flips) s

/-- Event MMA: one K step. It also refuses an entry whose EOP is reserved. -/
def execMma (core : Nat) (flips : List Nat) (s : State) : Out :=
  event (mmaEvent core flips (fun o => o == 1 || o == 0 || decide (6 ≤ o))) s

/-- Event MMAZ: the tile is set to +0, and the entry goes on as MMA. -/
def execMmaz (core : Nat) (flips : List Nat) (s : State) : Out := event (mmaEvent core flips (fun o => o == 2)) s

/-! ### STORE, ZERO and DRAIN (R251, R256, R257) -/

/-- The offset of element (i, j) of `n` bytes from a store's destination (R251). -/
def layoutOffset (layout pitch n i j : Nat) : Nat :=
  match layout with
  | 0 => i * pitch + j * n
  | 1 => j * pitch + i * n
  | _ => i / 4 * pitch + (j / 4 * 16 + i % 4 * 4 + j % 4) * n

/-- Bytes by address, in rising order, as runs of consecutive addresses within one 64-byte line. -/
def runsOf : List (Nat × Byte) → List (Nat × List Byte)
  | [] => []
  | (a, b) :: r =>
    match runsOf r with
    | (x, l) :: rest => if x = a + 1 ∧ x / 64 = a / 64 then (a, b :: l) :: rest else (a, [b]) :: (x, l) :: rest
    | [] => [(a, [b])]

/-- Runs of one line joined into a beat. -/
def lineBeats : List (Nat × List Byte) → List (List (Nat × List Byte))
  | [] => []
  | r :: rest =>
    match lineBeats rest with
    | (x :: g) :: more => if x.1 / 64 = r.1 / 64 then (r :: x :: g) :: more else [r] :: (x :: g) :: more
    | l => [r] :: l

/-- A byte put among bytes in rising order of address, after those of its own address. -/
def placeByte (a : Nat) (b : Byte) : List (Nat × Byte) → List (Nat × Byte)
  | [] => [(a, b)]
  | x :: r => if x.1 ≤ a then x :: placeByte a b r else (a, b) :: x :: r

/-- The beats of a STORE, and its conversion flags (R256). Positions that a PITCH lays over one another are all written, and all counted; the last
element in row order stays. DEDUCED (log 92). -/
def storeBeats (tc : Word) (b : List Byte) (m : Matrix) : List (List (Nat × List Byte)) × Fl :=
  let f := mxOfmt b
  let n := fmtWidth f / 8
  let els := (List.range (tcM tc)).flatMap (fun i => (List.range (tcN tc)).map (fun j => (i, j)))
  let conv := els.map (fun x => (x, encodeFlt f .rne false (decodeFlt 0x0D (tileAt m (mxTile b) x.1 x.2).toNat)))
  let bytes : List (Nat × Byte) := conv.foldl (fun l x =>
    let at_ := mxDst b + layoutOffset (tcLayout tc) (mxBstride b) n x.1.1 x.1.2
    ((leBytes n x.2.1).mapIdx (fun k y => (at_ + k, y))).foldl (fun l y => placeByte y.1 y.2 l) l) []
  (lineBeats (runsOf bytes), conv.foldl (fun l x => l ||| x.2.2) Fl.none)

/-- Event STORE: the entry starts, and its beats are written one by one. -/
def execStore (core : Nat) (s : State) : Out := event (mxEvent core (fun e => msgEop e.msg == 3) (fun e m => do
  if e.done = 0 then (List.range (tcM m.tcfg)).forM (fun i => tileGuard core .engine (mxTile e.msg) i (tcN m.tcfg))
  let e := if e.done = 0 then
      let r := storeBeats m.tcfg e.msg m
      { e with done := 1, beats := r.1, status := r.2.setWidth 64, obj := objField (mxObj e.msg) }
    else e
  Act.upd ((EngQ.matrix core).modHead (fun _ => e))
  match e.beats with
  | x :: r =>
    writeBeat (.matrix core) e x
    if r.isEmpty then mxFinish core e 0 false
  | [] => mxFinish core e 0 false)) s

/-- Event ZERO. -/
def execZero (core : Nat) (s : State) : Out := event (mxEvent core (fun e => msgEop e.msg == 5) (fun e _ => do
  let mask := mxTile e.msg
  Act.upd (fun s => tilesClean core mask (s.modCore core (fun c => { c with mx := { c.mx with tiles := c.mx.tiles.filter (fun x => !testBit mask (x.1 / 256)) } })))
  mxFinish core e 0 true)) s

/-- The row-handler dispatch of one row (R10, R257). -/
def rowItem (s : State) (core : Nat) (e : Entry) (m : Matrix) (tile i : Nat) : NetItem :=
  { kind := .row, src := engineSrc, launch := e.org.launch, ginst := e.org.ginst, dst := core, vcore := e.org.vcore
    prio := (s.launch e.org.launch).prio, handler := tcRhnd m.tcfg, regs := [BitVec.ofNat 64 i, BitVec.ofNat 64 tile]
    data := (List.range 4).flatMap (fun k => bytesOfVec (tileVec m tile i k)), row := some (i, tile) }

/-- Event DRAIN: every row's act is dispatched in ascending order; NOHANDLER when RHND names none. -/
def execDrain (core : Nat) (s : State) : Out := event (mxEvent core
  (fun e => !e.dispatched && (msgEop e.msg == 4 || (msgEop e.msg == 1 && e.started && e.done == mxKsteps e.msg && wantsDrain e.msg)))
  (fun e m => do
    if tcRhnd m.tcfg = 0xFFFF then mxFinish core e mxNoHandler false
    else
      let rows := List.range (tcM m.tcfg)
      rows.forM (fun i => tileGuard core .engine (mxTile e.msg) i 16)
      Act.upd ((EngQ.matrix core).modHead (fun _ => { e with dispatched := true, rows := rows }))
      Act.upd (fun s => rows.foldl (fun s i => netPush (rowItem s core e m (mxTile e.msg) i) s) s))) s

/-- Whether an ended act still has buffered stores. -/
def storesOf (s : State) (act : Nat) : Bool := s.slots.any (fun x => x.2.store.any (fun y => y.act == act))

/-- Event DRAIN_COMPLETE: every dispatched act has ended, and its accesses are performed. -/
def execDrainComplete (core : Nat) (s : State) : Out := event (mxEvent core
  (fun e => e.dispatched && e.rows.isEmpty && !(e.acts.any (storesOf s))) (fun e _ => mxFinish core e 0 true)) s

/-! ### Stack dot units (R267 to R270) -/

def sdBbase (b : List Byte) : Nat := payAt b 0 8
def sdBscale (b : List Byte) : Nat := payAt b 8 8
def sdAbase (b : List Byte) : Nat := payAt b 16 4
def sdAscale (b : List Byte) : Nat := payAt b 20 4
def sdDst (b : List Byte) : Nat := payAt b 24 4
def sdObj (b : List Byte) : Nat := payAt b 28 4
def sdBstride (b : List Byte) : Nat := payAt b 32 4
def sdN (b : List Byte) : Nat := payAt b 36 2
def sdK (b : List Byte) : Nat := payAt b 38 1
def sdAfmt (b : List Byte) : Nat := payAt b 39 1
def sdBfmt (b : List Byte) : Nat := payAt b 40 1
def sdFlags (b : List Byte) : Nat := payAt b 41 1

/-- Formats of B (R268). -/
def sdFormat (f : Nat) : Bool := isLb f || f == 0x09 || f == 0x0A || f == 0x13

/-- The checks of R267 and R268 but for the stack: the status. -/
def sdCheck (b : List Byte) : Nat :=
  if !(decide (fieldAt b 8 1 ≤ 1) && zeroAt b 9 7 && msgEop b == 1 && zeroAt b (16 + 42) 6 && sdBbase b % 256 == 0 && mult16 (sdBscale b) &&
      mult16 (sdAbase b) && mult16 (sdDst b) && objOk (sdObj b) && sdBstride b % 256 == 0 && decide (256 * sdK b ≤ sdBstride b) &&
      decide (1 ≤ sdN b) && decide (sdN b ≤ 4096) && decide (1 ≤ sdK b) && decide (sdK b ≤ 64) && decide (sdFlags b < 8)) then mxBadCmd
  else if !(sdFormat (sdBfmt b) && classesOk (sdAfmt b) (sdBfmt b)) then mxBadFmt
  else if (scaleBytes (sdBfmt b) == 0 && sdBscale b != 0) || (scaleBytes (sdAfmt b) == 0) != (sdAscale b == 0xFFFFFFFF) then mxBadCmd
  else 0

/-- Whether `n` bytes from an address lie on a stack; an address that does not translate is a fault of the launch. -/
def onStack (w : Who) (stack va n : Nat) : Act Bool := do
  let l ← (piecesOf va n).mapM (fun x => do
    let q ← resolve w .engine Need.read x.1 x.2
    pure (isHbm q.loc && q.loc / 2 ^ 37 == stack))
  pure (l.all id)

/-- Every B and B-scale byte lies on the selected stack (R267). -/
def sdOnStack (w : Who) (stack : Nat) (b : List Byte) : Act Bool := do
  let sc := scaleBytes (sdBfmt b)
  let l ← (List.range (sdN b)).mapM (fun j => do
    let x ← onStack w stack (sdBbase b + j * sdBstride b) (256 * sdK b)
    let y ← if sc = 0 then pure true else onStack w stack (sdBscale b + j * sdK b * sc) (sdK b * sc)
    pure (x && y))
  pure (l.all id)

/-- A stack dot entry ends with a status: a refused one without REPLY ends the launch (R260). -/
def sdFinish (cl : Nat) (e : Entry) (st : Nat) : Act Unit := do
  Act.require (st == 0 || msgReply e.msg) Cause.engineCmd
  let w := entryWord 0 e.retry e.status.toNat st
  let stack ← Act.look (fun s => dotStack s (EngQ.who s e.org (.dot cl)) e.msg)
  match stack with
  | some k => Act.upd (fun s => s.modDie (k / 2) (fun d => { d with dotTurn := KV.set d.dotTurn (k % 2) ((cl + 1) % 256) }))
  | none => pure ()
  Act.upd (fun s => engineReply e (bytesOfWord w ++ leBytes 8 0) ((EngQ.dot cl).pop s))

/-- The residue mismatches of an MV command, as step and SYND: each of `flips` names a K step (its value mod 64) and the bit (its value div 64) that a
fault flips in the exact sum of the step's first covered group, in one computation of the step (R258, R259). -/
def mvMismatches (c n : Nat) (as : List (List (FVal × FVal))) (rows : List (List (List (FVal × FVal)))) (flips : List Nat) : List (Nat × Nat) :=
  flips.filterMap (fun f =>
    match stepMismatches c n [as.getD (f % 64) []] (rows.map (fun r => r.getD (f % 64) [])) [f / 64] with
    | v :: _ => if f % 64 < as.length then some (f % 64, v) else none
    | [] => none)

/-- The SYND of the second mismatch of a step, if there is one. -/
def secondMismatch : List (Nat × Nat) → Option Nat
  | [] => none
  | x :: r => match r.find? (fun y => y.1 == x.1) with | some y => some y.2 | none => secondMismatch r

/-- The results of an MV command (R269) as bytes, its flags, and its residue mismatches. -/
def mvResults (w : Who) (b : List Byte) (flips : List Nat) : Act (List Byte × Fl × List (Nat × Nat)) := do
  let fa := sdAfmt b
  let fb := sdBfmt b
  let c := pairColumn fa fb (sdFlags b % 4)
  let n := rowElems fa / 16
  let scaleOf := fun (own : Bool) (f base k : Nat) =>
    if scaleBytes f = 0 then pure []
    else if own then ownRead w (base + k * scaleBytes f) (scaleBytes f) else engineRead w (base + k * scaleBytes f) (scaleBytes f)
  let as ← (List.range (sdK b)).mapM (fun k => do
    let row ← ownRead w (sdAbase b + 256 * k) 256
    let sc ← scaleOf true fa (sdAscale b) k
    pure (rowValues fa row sc))
  let acc0 ← if testBit (sdFlags b) 2 then ownRead w (sdDst b) (4 * sdN b) else pure []
  let rows ← (List.range (sdN b)).mapM (fun j =>
    (List.range (sdK b)).mapM (fun k => do
      let row ← engineRead w (sdBbase b + j * sdBstride b + 256 * k) 256
      let sc ← scaleOf false fb (sdBscale b) (j * sdK b + k)
      pure (rowValues fb row sc)))
  let rs := rows.mapIdx (fun j bs => (List.zip as bs).foldl (fun (a : Nat × Fl) x =>
    let r := dotScaled c n x.1 x.2 a.1
    (r.1, a.2 ||| r.2)) (if acc0.isEmpty then 0 else fieldAt acc0 (4 * j) 4, Fl.none))
  pure (rs.flatMap (fun r => leBytes 4 r.1), rs.foldl (fun l r => l ||| r.2) Fl.none, mvMismatches c n as rows flips)

/-- Whether the dot units of the stack that the head of a cluster's queue names serve it now: they perform one command at a time, and serve the queues of the clusters in
rotation (R35, R269). A command that names no stack uses none. -/
def dotTurnOf (s : State) (cluster : Nat) (e : Entry) : Bool :=
  let stackOf := fun (c : Nat) (e : Entry) => dotStack s (EngQ.who s e.org (.dot c)) e.msg
  match stackOf cluster e with
  | none => true
  | some k =>
    let asking := s.clusters.filterMap (fun c => match (EngQ.dot c.1).head s with
      | some x => if engineOn s x.org && stackOf c.1 x == some k then some (c.1, x.started) else none
      | none => none)
    match asking.find? (fun c => c.2) with
    | some c => c.1 == cluster
    | none =>
      let turn := KV.get 0 (s.die (k / 2)).dotTurn (k % 2)
      let place := fun (c : Nat) => (c + 256 - turn) % 256
      asking.all (fun c => decide (place cluster ≤ place c.1))

/-- Event MV: the command is checked and computed; its result beats are written one by one. `flips` lists the faults
of its computation: a step with two of them ends the launch (R259). -/
def execMv (cluster : Nat) (flips : List Nat) (s : State) : Out := event (fun s =>
  match (EngQ.dot cluster).head s with
  | none => none
  | some e =>
    if !engineOn s e.org || !dotTurnOf s cluster e then none
    else engineRun e.org s (do
      let w := EngQ.who s e.org (.dot cluster)
      if e.started then
        match e.beats with
        | x :: r =>
          writeBeat (.dot cluster) e x
          if r.isEmpty then sdFinish cluster e 0
        | [] => sdFinish cluster e 0
      else
        let st := sdCheck e.msg
        if st != 0 then sdFinish cluster e st
        else
          let on ← match dotStack s w e.msg with
            | some k => sdOnStack w k e.msg
            | none => do
              let _ ← resolve w .engine Need.read (sdBbase e.msg) 1
              pure false
          if !on then sdFinish cluster e mxBadStack
          else
            let r ← mvResults w e.msg flips
            match secondMismatch r.2.2 with
            | some v =>
              let k := (dotStack s w e.msg).getD 0
              Act.upd (residueFault e (coreOf e.org.pslot) (k / 2) (k % 2) v)
            | none => Act.upd ((EngQ.dot cluster).modHead (fun e => { e with
                started := true, beats := beatsOf (sdDst e.msg) r.1, obj := objField (sdObj e.msg), status := r.2.1.setWidth 64
                retry := r.2.2.length })))) s

end Sys2Proof.Machine
end

