-- ==== Sys2Proof/Machine/JugglerUnit.lean ====
section
/-! DEFINITION. The Juggler map-composition engine (R296 to R320). -/

namespace Sys2Proof.Machine

/-! ### Maps (R296, R304, R305) -/

/-- A map: the byte for each state. -/
abbrev JMap := List Nat

def jIdentity (m : JMap) : Bool := m == List.range m.length
/-- The value of a map that is constant over the live states. -/
def jConstant (m : JMap) : Option Nat := let c := m.getD 1 0; if (m.drop 1).all (· == c) then some c else none

/-- A composed map, left operand first, with the counts of identity and constant shortcuts (R304). -/
def jCompose (l r : JMap) : JMap × Nat × Nat :=
  if jIdentity l then (r, 1, 0)
  else if jIdentity r then (l, 1, 0)
  else match jConstant l with
    | some a => (0 :: List.replicate (l.length - 1) (r.getD a 0), 0, 1)
    | none =>
      match jConstant r with
      | some c => (l.map (fun x => if x != 0 then c else 0), 0, 1)
      | none => (l.map (fun x => r.getD x 0), 0, 0)

/-- One level of a segment's tree: an odd last node passes up. -/
def jLevel : List JMap → List JMap × Nat × Nat
  | l :: r :: rest =>
    let c := jCompose l r
    let q := jLevel rest
    (c.1 :: q.1, c.2.1 + q.2.1, c.2.2 + q.2.2)
  | l => (l, 0, 0)

/-- A segment's root, LEVELS, ISKIP and CSKIP. -/
def jTree : Nat → List JMap → JMap × Nat × Nat × Nat
  | 0, l => (l.getD 0 [], 0, 0, 0)
  | n + 1, l =>
    if l.length ≤ 1 then (l.getD 0 [], 0, 0, 0)
    else
      let a := jLevel l
      let b := jTree n a.1
      (b.1, b.2.1 + 1, a.2.1 + b.2.2.1, a.2.2 + b.2.2.2)

/-! ### Messages (R298, R300, R301) -/

def jDesc (b : List Byte) : Nat := payAt b 0 8
def jCtx (b : List Byte) : Nat := payAt b 8 1
def jSyms (b : List Byte) : Nat := payAt b 0 8
def jLen (b : List Byte) : Nat := payAt b 8 2
def jRunCtx (b : List Byte) : Nat := payAt b 10 1
def jStart (b : List Byte) : Nat := payAt b 11 1
def jWant (b : List Byte) : Nat := payAt b 12 1
def jScanDst (b : List Byte) : Nat := payAt b 16 4
def jResDst (b : List Byte) : Nat := payAt b 20 4
def jMaskDst (b : List Byte) : Nat := payAt b 24 4
def jObj (b : List Byte) : Nat := payAt b 28 4

/-- Status codes (R310). -/
def jBadCmd : Nat := 1
def jNoCtx : Nat := 2
def jBadSym : Nat := 3
def jBadTab : Nat := 4
def jNoMask : Nat := 5
def jBadDesc : Nat := 6

/-- Fields of a table descriptor. -/
def tdMap (d : List Byte) : Nat := fieldAt d 0 8
def tdMask (d : List Byte) : Nat := fieldAt d 8 8
def tdNsym (d : List Byte) : Nat := fieldAt d 16 4
def tdStates (d : List Byte) : Nat := 16 * 2 ^ fieldAt d 20 1
def tdAccepts (d : List Byte) (x : Nat) : Bool := testBit (fieldAt d (32 + x / 8) 1) (x % 8)

/-- The checks of R300 on a descriptor. -/
def tdOk (d : List Byte) : Bool :=
  zeroAt d 21 11 && decide (fieldAt d 20 1 ≤ 4) && decide (1 ≤ tdNsym d) && decide (tdNsym d ≤ 262144) && mult16 (tdMap d) && mult16 (tdMask d) &&
  !tdAccepts d 0 && fieldAt d 32 32 / 2 ^ tdStates d == 0

/-- RB: bytes of a mask row (R297). -/
def maskRowBytes (nsym : Nat) : Nat := alignUp 16 ((nsym + 7) / 8)

/-- Check 1 of R303. -/
def runFieldsOk (b : List Byte) : Bool :=
  let w := jWant b
  msgEop b == 1 && zeroAt b (16 + 13) 3 && zeroAt b (16 + 32) 16 && decide (jRunCtx b < 4) && decide (w < 8) && decide (jLen b ≤ 4096) &&
  (testBit w 0 || jScanDst b == 0) && (testBit w 1 || jResDst b == 0) && (testBit w 2 || jMaskDst b == 0) &&
  jSyms b % 4 == 0 && mult16 (jScanDst b) && mult16 (jResDst b) && mult16 (jMaskDst b) && objOk (jObj b)

/-! ### The turn of a queue (R309) -/

/-- Contexts that a saved core part holds are empty once no act of their launch is left on the core (R319). -/
def dropSavedCtx (core : Nat) (s : State) : State :=
  let here := fun (l : Nat) => (List.range 4).any (fun k => (s.slot (core + k)).launch == some l && (s.slot (core + k)).st != .free && !(s.slot (core + k)).boundary)
  if (s.core core).jug.ctx.any (fun x => x.2.saved && !here x.2.launch) then
    s.modCore core (fun c => { c with jug := { c.jug with ctx := c.jug.ctx.filter (fun x => !(x.2.saved && !here x.2.launch)) } })
  else s

/-- An access that another device answers now is no longer one without an answer (R412). -/
def dropAnswered (s : State) : State :=
  if s.unanswered.isEmpty then s
  else { s with unanswered := s.unanswered.filter (fun (x : Unanswered) =>
    let ent := rootEntry s (whoPart s (s.launch x.org.launch).part) x.aperture
    !peerAnswers s (bitsN ent 51 42) (bitsN ent 55 52)) }

/-- What follows at once from the state that a step leaves: matrix units without a reason to keep their owner are released (R247), Juggler counters likewise
(R313), and saved table contexts whose launch has left the core are emptied (R319). -/
def settleUnits (s : State) : State :=
  let s := dropAnswered (releaseUnits s)
  let s := s.cores.foldl (fun s (e : Nat × Core) => if e.2.jug.counts.isEmpty then s else jugRelease e.1 s) s
  s.cores.foldl (fun s (e : Nat × Core) => if e.2.jug.ctx.any (fun x => x.2.saved) then dropSavedCtx e.1 s else s) s

/-- The Juggler serves a core's queue now. -/
def jugTurnOf (s : State) (core : Nat) : Bool := engineTurn EngQ.jug (s.cluster (clusterOf core)).jugTurn s core

/-- A Juggler entry completes: its words are retained, its reply sent, and the turn passes (R308, R310, R311). -/
def jugFinish (core : Nat) (e : Entry) (st final : Nat) (acc : Bool) (report : Word) : Act Unit :=
  Act.upd (fun s =>
    let w : Word := BitVec.ofNat 64 (e.ticket * 2 ^ 32 + final * 2 ^ 24 + acc.toNat * 2 ^ 16 + st)
    let s := jugRecord core e w report ((EngQ.jug core).pop s)
    let s := s.modCluster (clusterOf core) (fun c => { c with jugTurn := (coreInCluster core + 1) % 8 })
    engineReply e (bytesOfWord w ++ bytesOfWord report) s)

/-- An event of the Juggler on a queue's head. -/
def jugEvent (core : Nat) (mine : Nat → Bool) (body : Entry → Act Unit) (s : State) : Option State :=
  match (EngQ.jug core).head s with
  | some e => if mine (msgEop e.msg) && engineOn s e.org && jugTurnOf s core then engineRun e.org s (body e) else none
  | none => none

/-- Event CONFIG (R300). -/
def execConfig (core : Nat) (s : State) : Out := event (jugEvent core (fun o => o == 2) (fun e => do
  let b := e.msg
  if !(decide (jCtx b < 4) && zeroAt b (16 + 9) 39 && jDesc b % 64 == 0) then jugFinish core e jBadCmd 0 false 0
  else do
    let s ← Act.look id
    let d ← engineRead (EngQ.who s e.org (.jug core)) (jDesc b) 64
    if !tdOk d then jugFinish core e jBadDesc 0 false 0
    else do
      Act.upd (fun s => s.modCore core (fun c => { c with jug := { c.jug with ctx := KV.set c.jug.ctx (jCtx b) { desc := d, launch := e.org.launch } } }))
      jugFinish core e 0 0 false 0)) s

/-- Event CLEAR (R300). -/
def execClear (core : Nat) (s : State) : Out := event (jugEvent core (fun o => o == 3) (fun e => do
  let b := e.msg
  if !(decide (jCtx b < 4) && zeroAt b (16 + 9) 39 && jDesc b == 0) then jugFinish core e jBadCmd 0 false 0
  else do
    Act.upd (fun s => s.modCore core (fun c => { c with jug := { c.jug with ctx := KV.erase c.jug.ctx (jCtx b) } }))
    jugFinish core e 0 0 false 0)) s

/-! ### RUN (R302 to R308) -/

/-- The string cut into segments: position 0 and every HEAD begin one (R302). -/
def segmentsOf : List (Nat × Bool) → List (List Nat)
  | [] => []
  | (k, _) :: r =>
    match r, segmentsOf r with
    | (_, false) :: _, g :: rest => (k :: g) :: rest
    | _, l => [k] :: l

/-- The states after each prefix of a segment. -/
def prefixStates (maps : Nat → JMap) : Nat → List Nat → List Nat
  | _, [] => []
  | st, k :: r => let x := (maps k).getD st 0; x :: prefixStates maps x r

/-- What a RUN computes: prefix states, per segment final state and acceptance, and LEVELS, ISKIP, CSKIP. -/
structure RunOut where
  scan : List Nat
  res : List (Nat × Bool)
  levels : Nat
  iskip : Nat
  cskip : Nat
  deriving DecidableEq, Repr

def runSegments (d : List Byte) (maps : Nat → JMap) (start : Nat) (segs : List (List Nat)) : RunOut :=
  segs.foldl (fun (o : RunOut) g =>
    let t := jTree 13 (g.map maps)
    let final := if g.isEmpty then start else t.1.getD start 0
    { scan := o.scan ++ prefixStates maps start g, res := o.res ++ [(final, tdAccepts d final)]
      levels := if o.levels < t.2.1 then t.2.1 else o.levels, iskip := o.iskip + t.2.2.1, cskip := o.cskip + t.2.2.2 })
    { scan := [], res := [], levels := 0, iskip := 0, cskip := 0 }

def sat16 (n : Nat) : Nat := if n < 65535 then n else 65535

/-- The report word of a RUN (R311). -/
def reportWord (o : RunOut) : Word :=
  BitVec.ofNat 64 (sat16 o.cskip * 2 ^ 48 + sat16 o.iskip * 2 ^ 32 + o.res.length * 2 ^ 16 + o.levels * 2 ^ 8)

/-- The start of a RUN: its checks in order (R303), its reads, and its output beats; or a refusal. -/
def runStart (core : Nat) (e : Entry) : Act Unit := do
  let s ← Act.look id
  let b := e.msg
  let w := EngQ.who s e.org (.jug core)
  let refuse := fun (st : Nat) => jugFinish core e st 0 false 0
  if !runFieldsOk b then refuse jBadCmd
  else match KV.find? (s.core core).jug.ctx (jRunCtx b) with
    | none => refuse jNoCtx
    | some ctx =>
      if ctx.launch != e.org.launch then refuse jNoCtx
      else
        let d := ctx.desc
        let n := tdStates d
        if n ≤ jStart b then refuse jBadCmd
        else if testBit (jWant b) 2 && tdMask d == 0 then refuse jNoMask
        else
          let bytes ← engineRead w (jSyms b) (4 * jLen b)
          let words := (List.range (jLen b)).map (fun i => fieldAt bytes (4 * i) 4)
          if !words.all (fun x => bitsN x 30 18 == 0 && decide (x % 2 ^ 18 < tdNsym d)) then refuse jBadSym
          else
            let used := (words.map (· % 2 ^ 18)).eraseDups
            let read ← used.mapM (fun k => do
              let m ← engineRead w (tdMap d + k * n) n
              pure (k, m.map (fun x => x.toNat)))
            if !read.all (fun x => x.2.getD 0 0 == 0 && x.2.all (fun y => decide (y < n))) then refuse jBadTab
            else
              let maps := fun (k : Nat) => ((read.find? (fun x => x.1 == k)).map Prod.snd).getD []
              let segs := if words.isEmpty then [[]] else segmentsOf (words.map (fun x => (x % 2 ^ 18, testBit x 31)))
              let o := runSegments d maps (jStart b) segs
              let last := o.res.getLastD (0, false)
              let rb := maskRowBytes (tdNsym d)
              let row ← if testBit (jWant b) 2 then engineRead w (tdMask d + last.1 * rb) rb else pure []
              let beats := (if testBit (jWant b) 0 then beatsOf (jScanDst b) (o.scan.map (BitVec.ofNat 8)) else []) ++
                (if testBit (jWant b) 1 then beatsOf (jResDst b) (o.res.flatMap (fun r => [BitVec.ofNat 8 r.1, BitVec.ofNat 8 r.2.toNat])) else []) ++
                (if testBit (jWant b) 2 then beatsOf (jMaskDst b) row else [])
              if beats.isEmpty then jugFinish core e 0 last.1 last.2 (reportWord o)
              else Act.upd ((EngQ.jug core).modHead (fun e => { e with
                started := true, beats := beats, obj := objField (jObj b), status := BitVec.ofNat 64 (last.1 * 2 + last.2.toNat), report := reportWord o }))

/-- Event RUN: the string is read and composed, then the output beats are written one by one. It also refuses reserved EOPs. -/
def execRun (core : Nat) (s : State) : Out := event (jugEvent core (fun o => o == 1 || o == 0 || decide (4 ≤ o)) (fun e =>
  if e.started then
    match e.beats with
    | x :: r => do
      writeBeat (.jug core) e x
      if r.isEmpty then jugFinish core e 0 (e.status.toNat / 2) (e.status.toNat % 2 == 1) e.report
    | [] => jugFinish core e 0 (e.status.toNat / 2) (e.status.toNat % 2 == 1) e.report
  else runStart core e)) s

/-! ### Instructions (R314 to R316) -/

/-- The message `jcfg` builds. -/
def jcfgMessage (eop desc ctx : Nat) : List Byte :=
  leBytes 1 3 ++ leBytes 1 eop ++ leBytes 2 0xFFFF ++ leBytes 12 0 ++ leBytes 8 desc ++ leBytes 1 ctx ++ leBytes 39 0

def jcfgBody (set : Bool) (e : Enc) (p : Nat) : Act Flow := do
  operandsBound p e
  let a ← readX p e.a
  let b ← readX p e.b
  Act.require (b.toNat / 4 == 0) Cause.illegalOperand
  let k ← sendMessage p (jcfgMessage (if set then 2 else 3) (if set then a.toNat else 0) b.toNat)
  writeX p e.d (BitVec.ofNat 64 k)
  pure .next

def execJcfgSet (e : Enc) (s : State) : Out := issue 0xE6 e (jcfgBody true e) s
def execJcfgClr (e : Enc) (s : State) : Out := issue 0xE6 e (jcfgBody false e) s

/-- `jq`: byte 0 of the message is 3. -/
def execJq (e : Enc) (s : State) : Out := issue 0xE7 e (fun p => do
  let t ← Act.slot p
  let k ← sendMessage p (patch (msgBytes t (regNo e.a)) 0 (leBytes 1 3))
  writeX p e.d (BitVec.ofNat 64 k)
  pure .next) s

/-- Tickets of a group copy not yet complete on a core. -/
def jugOpen (s : State) (core g : Nat) : List Nat :=
  ((s.core core).jug.queue.filter (fun e => e.org.ginst == g)).map (fun e => e.ticket) ++
  ((s.net.filter (fun i => goesTo i (.jug core) && i.ginst == g)).map (fun i => i.ticket))

/-- The retained words of a ticket of a slot's group copy and launch. -/
def jugKept (s : State) (p k : Nat) : Option (Word × Word) :=
  let t := s.slot p
  let c := KV.get {} (s.core (coreOf p)).jug.counts t.ginst
  if lastTicket c.next k then (c.kept.find? (fun x => x.1 == k && some x.2.2.2 == t.launch)).map (fun x => (x.2.1, x.2.2.1)) else none

/-- `jwait`. -/
def execJwait (e : Enc) (s : State) : Out := issue 0xE8 e (fun p => do
  operandsBound p e
  let a ← readX p e.a
  let s ← Act.look id
  let t := s.slot p
  match (if e.a == .none then t.jqLast else some a.toNat) with
  | none => writeX p e.d 0xFF
  | some k =>
    Act.ready (!(jugOpen s (coreOf p) t.ginst).contains k)
    acquireTier p
    writeX p e.d (match jugKept s p k with | some x => x.1 | none => 0xFF)
  pure .next) s

/-- `jstat.rep`. -/
def execJstatRep (e : Enc) (s : State) : Out := issue 0xE9 e (fun p => do
  operandsBound p e
  let a ← readX p e.a
  let s ← Act.look id
  writeX p e.d (match jugKept s p a.toNat with | some x => x.2 | none => 0xFF)
  pure .next) s

/-- The queue word of a core for a slot's act. -/
def jstatWord (s : State) (p : Nat) : Word :=
  let t := s.slot p
  let j := (s.core (coreOf p)).jug
  let ctx := (List.range 4).foldl (fun n k => match KV.find? j.ctx k with | some c => if some c.launch == t.launch then n + 2 ^ k else n | none => n) 0
  BitVec.ofNat 64 ((KV.get {} j.counts t.ginst).next * 2 ^ 32 + ctx * 2 ^ 4 + j.queue.length)

/-- `jstat.q`. -/
def execJstatQ (e : Enc) (s : State) : Out := issue 0xE9 e (fun p => do
  let w ← Act.look (fun s => jstatWord s p)
  writeX p e.d w
  pure .next) s

end Sys2Proof.Machine
end

