-- ==== Sys2Proof/Machine/Network.lean ====
section
/-! DEFINITION. The network, the inboxes and the start of acts: arrival, refusal and retry of messages and packets (R20 to R22), the tag
parking buffers, the taking of inbox messages by FREE slots (R10, R15), urgency (R17) and the act watchdog (R34). -/

namespace Sys2Proof.Machine

/-! ### Order on the network (R21, R22) -/

/-- Messages a core's inbox holds (R15), and packets a tag parking buffer holds (R20). -/
def inboxDepth : Nat := 32
def parkingDepth : Nat := 32

/-- Whether two items go from one sender to one place in an order that arrival keeps. -/
def sameWay (a b : NetItem) : Bool :=
  a.src == b.src && a.dst == b.dst &&
  (match a.kind, b.kind with
   | .command, .command => msgTgt a.data == msgTgt b.data
   | .packet, .packet | .packet, .code | .code, .packet | .code, .code => decide (a.src < 0x10000) || decide (farBase ≤ a.src)
   | .row, .row => true
   | _, _ => false)

/-- Whether an engine's numbering lets a command enter its queue next: matrix commands in ticket order, Juggler commands of one group copy in
the order sent (R262, R313). -/
def ticketTurn (s : State) (n : Nat) (i : NetItem) : Bool :=
  match i.kind, msgTgt i.data with
  | .command, 1 => i.ticket == (s.core i.dst).mx.accepted
  | .command, 3 => !((s.net.take n).any (fun b => goesTo b (.jug i.dst) && b.ginst == i.ginst))
  | _, _ => true

/-- Whether the `n`-th item of the network may arrive now: its sender's earlier stores are performed (R140), and nothing earlier stands before it.
An item in retry holds back only its own class. Entries of an `.out` channel of a group copy at rest stay in the channel (R385). -/
def mayArrive (s : State) (n : Nat) (i : NetItem) : Bool :=
  !s.board.fatal && !(i.chan.isSome && (s.ginst i.ginst).quiesced) && i.after.all (fun id => !((s.slot i.src).store.any (fun x => x.id == id))) &&
  !((s.net.take n).any (fun b => sameWay b i && (b.retryAt.isNone || b.kind == i.kind))) && ticketTurn s n i

/-! ### Arrival (R20) -/

/-- Whether packets are parked for a tag on a core. -/
def parkedFor (s : State) (core g tag : Nat) : Bool := (s.core core).parking.any (fun x => x.ginst == g && x.tag == tag)

/-- The channel a packet for a tag can enter now: of an ACTIVE slot, with room. -/
def openChan (s : State) (core g tag : Nat) : Option (Nat × Nat) :=
  match boundAt s core g tag with
  | some (p, q) => if (s.slot p).st == .active && decide (((s.slot p).chan q).entries.length < chanDepth) then some (p, q) else none
  | none => none

/-- An entry appended to a channel. -/
def enterChan (p q : Nat) (v : Vec) (s : State) : State :=
  s.modSlot p (fun t => t.setChan q ((t.chan q).push s.cycle v))

/-- A message put into its core's inbox, if there is room. -/
def inboxPut (i : NetItem) (s : State) : Option State :=
  if (s.core i.dst).inbox.length < inboxDepth then some (s.modCore i.dst (fun c => { c with inbox := c.inbox ++ [{ i with at_ := s.cycle }] })) else none

/-- A packet at its core: discarded for a free tag; into its channel; as the start of a handler's act; or parked. None where it is refused. -/
def packetTakes (i : NetItem) (s : State) : Option State :=
  match tagOf s i.dst i.ginst i.tag with
  | none => some (s.modCore i.dst (fun c => { c with discarded := c.discarded + 1 }))
  | some t =>
    -- Packets parked for the tag have arrived before this one, and enter its channel first while it has room.
    let s := match openChan s i.dst i.ginst i.tag with | some (p, q) => if parkedFor s i.dst i.ginst i.tag then deliverParked p q s else s | none => s
    match openChan s i.dst i.ginst i.tag with
    | some (p, q) => some (enterChan p q (vecOfBytes i.data) s)
    | none =>
      match t.handler with
      | some h => inboxPut { i with kind := .packet, launch := t.launch, handler := h, retryAt := none } s
      | none =>
        if (s.core i.dst).parking.length < parkingDepth then
          some (s.modCore i.dst (fun c => { c with
            parking := c.parking ++ [{ ginst := i.ginst, tag := i.tag, data := vecOfBytes i.data, launch := i.launch, at_ := s.cycle }] }))
        else none

/-- The act that a reply is for: the one that sent the command; for a copy of an imported area, whose record names none, the first act of the virtual
core that still awaits a reply (R391; log 97). -/
def replyFor (s : State) (i : NetItem) : Nat :=
  if i.act != 0 then i.act
  else match List.find? (fun (e : Nat × Slot) => coreOf e.1 == i.dst && e.2.launch == some i.launch && e.2.ginst == i.ginst && decide (0 < e.2.replies)) s.slots with
    | some e => e.2.act
    | none => 0

/-- The outstanding-reply count falls when a reply arrives (R18, R135). -/
def replyArrived (i : NetItem) (s : State) : State :=
  let act := replyFor s i
  { s with slots := s.slots.map (fun e => (e.1, if coreOf e.1 == i.dst && e.2.act == act && e.2.launch == some i.launch
      then { e.2 with replies := e.2.replies - 1 } else e.2)) }

/-- A command at its engine: an entry, when the queue has room; the collective engine takes every message. -/
def engineTakes (i : NetItem) (s : State) : Option State :=
  let put := fun (q : EngQ) => if (q.get s).length < q.depth then some (q.push (entryOf i) s) else none
  match msgTgt i.data with
  | 1 => (put (.matrix i.dst)).map (fun s => s.modCore i.dst (fun c => { c with mx := { c.mx with accepted := (c.mx.accepted + 1) % 2 ^ 32 } }))
  | 2 => put (.copy i.dst)
  | 3 => put (.jug i.dst)
  | 4 => put (.dot i.dst)
  | _ => some (s.modDie i.dst (fun d => { d with collIn := d.collIn ++ [i] }))

/-- An item for a core of another device leaves over the links, if that device takes it; an act or a message of the group copy is then there (R413). -/
def depart (i : NetItem) (s : State) : Option State :=
  let d := (i.dst - farBase) / 2 ^ 21
  let q := KV.get ({ } : Peer) s.peers (d * 16 + (s.launch i.launch).part)
  if q.answers && q.takes then some (s.modGinst i.ginst (fun g => { g with farActs := g.farActs + 1 })) else none

/-- What an item's arrival does; none where it is refused. A message of an ending or finished launch is discarded (R26, step 4). -/
def arrive (i : NetItem) (s : State) : Option State :=
  if launchEnding s i.launch || (s.launch i.launch).st.terminal then some s
  else if farBase ≤ i.dst then depart i s
  else match i.kind with
    | .packet => packetTakes i s
    | .reply => (packetTakes i s).map (replyArrived i)
    | .command => engineTakes i s
    | .start | .code | .row | .port | .park => inboxPut { i with retryAt := none } s


/-- The `n`-th item arrives: it leaves the network, or is refused and retried later. -/
def attempt (n : Nat) (i : NetItem) (s : State) : State :=
  match arrive i { s with net := s.net.eraseIdx n } with
  | some s' => s'
  | none => { s with net := s.net.set n { i with retryAt := some (s.cycle + retryCycles) } }

/-- Event PACKET_ARRIVAL. -/
def execPacketArrival (index : Nat) (s : State) : Out := event (fun s =>
  match s.net[index]? with
  | some i => if i.retryAt.isNone && mayArrive s index i then some (attempt index i s) else none
  | none => none) s

/-- Event PACKET_RETRY. -/
def execPacketRetry (index : Nat) (s : State) : Out := event (fun s =>
  match s.net[index]? with
  | some i =>
    match i.retryAt with
    | some c => if c ≤ s.cycle && mayArrive s index i then some (attempt index i s) else none
    | none => none
  | none => none) s

/-- Event PARKED_PACKET_DELIVER: the first packet parked for a tag moves to its channel. -/
def execParkedPacketDeliver (core index : Nat) (s : State) : Out := event (fun s =>
  let l := (s.core core).parking
  match l[index]? with
  | some x =>
    if (l.take index).any (fun y => y.ginst == x.ginst && y.tag == x.tag) then none
    else match openChan s core x.ginst x.tag with
      | some (p, q) => some (enterChan p q x.data (s.modCore core (fun c => { c with parking := c.parking.eraseIdx index })))
      | none => none
  | none => none) s

/-! ### The start of an act (R10, R15) -/

/-- Clusters of a group copy. -/
def GInst.nclus (g : GInst) : Nat := let n := g.cores.length + g.far.length; if n < 8 then 1 else n / 8

/-- ACTID (R32). -/
def actidOf (g : GInst) (vcore slot origin : Nat) : Word :=
  BitVec.ofNat 64 (g.tier * 2 ^ 61 + g.num * 2 ^ 45 + vcore * 2 ^ 24 + slot * 2 ^ 22 + origin * 2 ^ 19)

/-- ACTLN (R32). A formula act is alone in its group (R228). -/
def actlnOf (l : Launch) (g : GInst) : Word :=
  BitVec.ofNat 64 (l.lid * 2 ^ 48 + l.queue % 64 * 2 ^ 42 + l.prio * 2 ^ 39 + (if g.formula then 0 else (l.nInst - 1) * 2 ^ 20) + g.nclus)

/-- ORIGIN of the act an item starts. -/
def originCode : NetKind → Nat | .start => 0 | .code => 2 | .row => 3 | .port => 4 | _ => 1

/-- The scalar registers an origin sets. -/
def originRegs (i : NetItem) : List (Nat × Word) :=
  match i.kind with
  | .code => List.zip [1, 7] i.regs
  | .start => List.zip [1, 2, 3, 4, 5, 6, 7] i.regs
  | .row => List.zip [1, 2] i.regs
  | .port => List.zip [1, 2, 3] i.regs
  | _ => [(1, BitVec.ofNat 64 (i.vcore * 2 ^ 16 + i.tag))]

/-- The vector registers an origin sets. -/
def originVecs (i : NetItem) : List (Nat × Vec) :=
  match i.kind with
  | .row => (List.range 4).map (fun k => (28 + k, vecOfBytes ((i.data.drop (16 * k)).take 16)))
  | .packet => [(0, vecOfBytes i.data)]
  | _ => []

/-- The region the Carousel has opened for a formula act (R228). -/
def formulaRegion (s : State) (act : Nat) (f : Formula) : Option Nat :=
  ((s.table f.table).waves.find? (fun w => w.num == f.wave)).bind (fun w =>
    (w.acts.find? (fun a => a.cell == f.cell)).bind (fun a => match a.st with | .running k rs => if k == act then some rs else none | _ => none))

/-- The thread state at an act's first instruction (R10). -/
def newAct (s : State) (p act : Nat) (i : NetItem) : Slot :=
  let l := s.launch i.launch
  let g := s.ginst i.ginst
  let ok := match i.formula with | some f => objKey l.part (s.table f.table).obj | none => l.objKey
  let h : Handler := ((s.obj ok).handlers)[i.handler]?.getD { addr := 0, frame := 0, feat := 0 }
  let code := i.kind == .code
  let t : Slot := { st := .active, act := act, launch := some i.launch, ginst := i.ginst, vcore := i.vcore
                    actid := actidOf g i.vcore (p % 4) (originCode i.kind), actln := actlnOf l g, feat := if i.formula.isSome then h.feat else l.feat, tier := l.tier
                    pc := if code then 0 else h.addr, payload := if code then some i.data else none, frame := if code then 0 else h.frame
                    fcs := BitVec.ofNat 64 l.rm, wdBase := s.cycle + 1, row := i.row, origin := originCode i.kind
                    store := (s.slot p).store, ctl := { level := 0 }, formula := i.formula, region := i.formula.bind (formulaRegion s act) }
  let t := (originRegs i).foldl (fun t x => t.setX x.1 x.2) t
  (originVecs i).foldl (fun t x => t.setV x.1 x.2) t

/-- Another slot of the core is FREE or holds a row-handler act (R15). -/
def slotKept (s : State) (p : Nat) : Bool :=
  (List.range 4).any (fun k => let q := coreOf p + k; q != p && ((s.slot q).st == .free || (s.slot q).origin == 3))

/-- Whether a FREE slot can take an inbox message (R15, R380, R390). -/
def takeable (s : State) (p : Nat) (i : NetItem) : Bool :=
  let g := s.ginst i.ginst
  (i.kind == .park || !g.parkReq) &&
  (i.kind == .row || tcRhnd (s.core (coreOf p)).mx.tcfg == 0xFFFF || slotKept s p)

/-- The rank of a message in R15's order: row-handler dispatches, then priority; ties go to the earlier arrival. -/
def inboxRank (i : NetItem) : Nat := if i.kind == .row then 8 else i.prio

/-- The position of the message a slot takes: the first of the highest rank. -/
def inboxPick (s : State) (p : Nat) : List NetItem → Nat → Option (Nat × NetItem)
  | [], _ => none
  | i :: r, n =>
    match inboxPick s p r (n + 1) with
    | some (m, j) => if takeable s p i && decide (inboxRank j ≤ inboxRank i) then some (n, i) else some (m, j)
    | none => if takeable s p i then some (n, i) else none

/-- A compute-core slot by its number. -/
def computeSlot (p : Nat) : Bool := pslotOk p && !isCtl p

/-- A core whose last FREE slot has gone (R368). -/
def noteFull (p : Nat) (s : State) : State :=
  if (List.range 4).any (fun k => (s.slot (coreOf p + k)).st == .free) then s else s.modCore (coreOf p) (fun c => { c with fullSince := s.cycle })

/-- The taking of an inbox message: an act starts, or a park message leaves a boundary context (R380). It is an acquire (R140); that of a message
of the Ringmaster is one at device scope, which follows what AFTER released (R371), and so is that of a port's, for the record that landed (R428). DEDUCED (log 90). -/
def takeMessage (p n : Nat) (i : NetItem) (s : State) : State :=
  let act := if i.formula.isSome then i.act else s.nextId
  let s := { s with nextId := s.nextId + 1 }.modCore (coreOf p) (fun c => { c with inbox := c.inbox.eraseIdx n })
  if i.kind == .park then noteFull p (s.setSlot p (newAct s p act i).boundaryCtx)
  else acquired p (if (i.kind == .start ∨ i.kind == .port) ∧ (s.ginst i.ginst).tier < 3 then 3 else (s.ginst i.ginst).tier) (launchSettle i.launch (noteFull p (s.setSlot p (newAct s p act i))))

/-- Event INBOX_TAKE. -/
def execInboxTake (pslot : Nat) (s : State) : Out := event (fun s =>
  if !computeSlot pslot || (s.slot pslot).st != .free || s.board.fatal then none
  else
    let core := coreOf pslot
    let s := jugRelease core ((matrixRelease core s).getD s)
    (inboxPick s pslot (s.core core).inbox 0).map (fun x => takeMessage pslot x.1 x.2 s)) s

/-! ### Urgency (R17) and the act watchdog (R34) -/

/-- Event SLOT_URGENT. -/
def execSlotUrgent (pslot : Nat) (s : State) : Out := event (fun s =>
  let t := s.slot pslot
  if t.st == .active && !t.urgent && decide (16 ≤ t.readyFor) then some (s.modSlot pslot (fun t => { t with urgent := true })) else none) s

/-- The watchdog limit of a partition: 2^WDEXP cycles (R357, R358). -/
def wdLimit (s : State) (part : Nat) : Nat := 2 ^ ((s.part part).lim.toNat % 64)

/-- Whether the watchdog of a slot's act has reached the limit. -/
def watchdogDue (s : State) (p : Nat) : Bool :=
  let t := s.slot p
  match t.launch with
  | some l => t.st == .active && !isCtl p && decide ((wdLimit s (s.launch l).part : Int) ≤ (s.cycle : Int) - t.wdBase)
  | none => false

/-- Event ACT_WATCHDOG. -/
def execActWatchdog (pslot : Nat) (s : State) : Out := event (fun s =>
  if watchdogDue s pslot then some (raiseFault pslot Cause.watchdog (BitVec.ofNat 64 (s.slot pslot).pc) none s) else none) s

end Sys2Proof.Machine
end

