-- ==== Sys2Proof/Machine/Trapeze.lean ====
section
/-! DEFINITION. Class 7: the region instructions (R287 to R294), and the withdrawal of a wait (R289, R381). -/

namespace Sys2Proof.Machine

/-! ### Withdrawal of a wait -/

/-- What a blocked instruction has posted elsewhere is withdrawn: a remote request, a draw's post, a pending `tcfg.set`. -/
def withdrawPosts (p : Nat) (s : State) : State :=
  let t := s.slot p
  let s := match t.wait with
    | .remote target _ => if farBase ≤ target then s else s.modCore (coreOf target) (fun c => { c with remote := c.remote.filter (fun x => x.from_ != p) })
    | .draw n => s.modCluster (clusterOf p) (fun c => { c with draws := c.draws.filter (fun d => !(d.pslot == p && d.number == n)) })
    | _ => s
  if (s.core (coreOf p)).mx.tcfgPending == some p then s.modCore (coreOf p) (fun c => { c with mx := { c.mx with tcfgPending := none } }) else s

/-- The restart of an act at its `rbeg` (R289): its wait is withdrawn and its snapshot restored. A draw that it has begun and that is not decided gives its number back,
unless another act of the core has taken a number since: then the number is dropped, and the draw takes a new one when it is executed again. DESIGN CHOICE (log
130). -/
def restartAct (p : Nat) (s : State) : State :=
  let t := s.slot p
  let s := withdrawPosts p s
  let s := match (match t.wait with | .drawDone _ => none | _ => t.drawNo) with
    | some n => s.modGinst t.ginst (fun g => if KV.get 0 g.drawNo t.vcore == n + 1 then { g with drawNo := KV.set g.drawNo t.vcore n } else g)
    | none => s
  s.modSlot p (fun t => { t.restore with drawNo := none })

/-! ### Opening a region (R288) -/

/-- Region slots per die (R274). -/
def regionSlots : Nat := 256

/-- Whether a region slot is free: not live, and no `rend` still waits to report it. -/
def slotFree (s : State) (rs : Nat) : Bool :=
  !(s.rslot rs).live && !s.slots.any (fun e => e.2.region == some rs) && !s.saved.any (fun v => v.region == some rs)

/-- The free region slots of a die, while the partition is within its quota. -/
def freeRegions (s : State) (die part : Nat) : List Nat :=
  let mine := fun (e : Nat × RSlot) => e.2.live && e.1 / regionSlots == die && e.2.part == part
  if (s.rslots.filter mine).length < (s.part part).rquota then
    ((List.range regionSlots).map (· + die * regionSlots)).filter (slotFree s)
  else []

/-- FRONTIER of a domain (R284). -/
def frontierOf (s : State) (d : Nat) : Nat × Nat := KV.get (0, 0) s.frontier d

/-- A region that opens in a slot for an act. -/
def openRegion (s : State) (p rs key : Nat) : State :=
  let t := s.slot p
  let part := partOf s p
  let s := s.modRslot rs (fun r => { r with
    st := .open_, domain := part, key := key, tie := rs, gen := (r.gen + 1) % 2 ^ 32, pred := [], depth := 0, filter := 0, cause := 0
    restarts := 0, part := part, launch := t.launch.getD 0, act := t.act, callDepth := t.frames.length })
  s.modSlot p (fun t => { t with region := some rs, snap := t.snapshot })

/-- The 64-bit key of `rbeg`. -/
def rbegKey (p : Nat) (e : Enc) : Act Nat :=
  match e.ext with
  | .imm64 v => pure v.toNat
  | _ => do let a ← readX p e.a; pure a.toNat

/-- A formula act may use only `rstat` and `rkey` (R228, R287). -/
def notFormula (p : Nat) : Act Unit := do
  let t ← Act.slot p
  Act.require t.formula.isNone Cause.regionOp

/-- The channels of `rbeg` (R72); a restarted one does not read its key again (R289). -/
def rbegBound (p : Nat) (e : Enc) : Act Unit := do
  chanCheck p [e.a, e.b, e.c, e.e] [e.d]
  let s ← Act.look id
  let again := (liveRegion s (s.slot p)).any (fun rs => (s.rslot rs).st == .restart)
  Act.ready (chansReady s p [(if again then .none else e.a, 1), (e.b, 1), (e.c, 1), (e.e, 1)] e.d)

/-- `rbeg`. -/
def execRbeg (e : Enc) (s : State) : Out := issue 0xE0 e (fun p => do
  rbegBound p e
  notFormula p
  let s ← Act.look id
  let t := s.slot p
  match liveRegion s t with
  | some rs =>
    Act.require ((s.rslot rs).st == .restart) Cause.regionOp
    storesDone p
    Act.upd (fun s => s.modRslot rs (fun r => { r with
      st := .open_, depth := 0, restarts := if r.restarts < 255 then r.restarts + 1 else 255 }))
    let r ← Act.look (fun s => s.rslot rs)
    writeX p e.d (rswOf rs r)
    pure .next
  | none =>
    storesDone p
    let key ← rbegKey p e
    let free := freeRegions s (dieOf p) (partOf s p)
    Act.ready (!free.isEmpty)
    let c ← Act.choose
    let rs := free.getD (c % free.length) 0
    if placeLt (frontierOf s (partOf s p)) (key, rs) then
      Act.upd (fun s => openRegion s p rs key)
      let r ← Act.look (fun s => s.rslot rs)
      writeX p e.d (rswOf rs r)
    else writeX p e.d (rswClosed 0 0 6 0)
    pure .next) s

/-! ### Ending and inspecting regions (R290 to R294) -/

/-- The final word of the region a slot's act had. -/
def finalRsw (s : State) (rs : Nat) : Word :=
  match (s.rslot rs).closed with
  | some (g, c, n) => rswClosed rs g c n
  | none => 0

/-- `rend`: ENDING, then not ready until the commit point; its completion is a full fence at device scope. -/
def execRend (e : Enc) (s : State) : Out := issue 0xE1 e (fun p => do
  notFormula p
  let s ← Act.look id
  let t := s.slot p
  match t.region, liveRegion s t with
  | some rs, some _ =>
    Act.require (t.frames.length == (s.rslot rs).callDepth) Cause.regionOp
    if (s.rslot rs).st == .ending then Act.block
    else do
      Act.upd (fun s => s.modRslot rs (fun r => { r with st := .ending }))
      Act.blockKeeping
  | some rs, none =>
    storesDone p
    acquireAt p 3
    Act.modSlot p (fun t => { t with region := none })
    writeX p e.d (finalRsw s rs)
    pure .next
  | none, _ => Act.fault Cause.regionOp) s

/-- `rabort.exit`. -/
def execRabortExit (e : Enc) (s : State) : Out := issue 0xE2 e (fun p => do
  notFormula p
  let s ← Act.look id
  match liveRegion s (s.slot p) with
  | none => Act.fault Cause.regionOp
  | some rs => do
    Act.upd (abortRegions [(rs, 7)])
    Act.modSlot p (fun t => { t with region := none })
    pure .next) s

/-- `rabort.rst`. -/
def execRabortRst (e : Enc) (s : State) : Out := issue 0xE2 e (fun p => do
  notFormula p
  let s ← Act.look id
  match liveRegion s (s.slot p) with
  | none => Act.fault Cause.regionOp
  | some rs => do
    Act.upd (abortRegions [(rs, 3)])
    Act.upd (restartAct p)
    pure .settled) s

/-- The word a handle names for a partition; 0 where it names none (R292). -/
def handleRsw (s : State) (part h : Nat) : Word :=
  let rs := h % 2 ^ 10
  let gen := h / 2 ^ 10 % 2 ^ 32
  let r := s.rslot rs
  if r.part != part then 0
  else if r.live && r.gen == gen then rswOf rs r
  else match r.closed with
    | some (g, c, n) => if g == gen && r.closedPart == part then rswClosed rs g c n else 0
    | none => 0

/-- `rstat`. -/
def execRstat (e : Enc) (s : State) : Out := issue 0xE3 e (fun p => do
  operandsBound p e
  let s ← Act.look id
  if e.a == .none then
    writeX p e.d (match liveRegion s (s.slot p) with | some rs => rswOf rs (s.rslot rs) | none => 0)
  else do
    let a ← readX p e.a
    writeX p e.d (handleRsw s (partOf s p) a.toNat)
  pure .next) s

/-- `rwait`. -/
def execRwait (e : Enc) (s : State) : Out := issue 0xE4 e (fun p => do
  operandsBound p e
  notFormula p
  let s ← Act.look id
  let t := s.slot p
  Act.require (liveRegion s t).isNone Cause.regionOp
  let a ← readX p e.a
  let rs := a.toNat % 2 ^ 10
  match t.wait with
  | .regionDone o =>
    if o = 0 then acquireAt p 3
    writeX p e.d (BitVec.ofNat 64 o)
    pure .next
  | _ =>
    let w := handleRsw s (partOf s p) a.toNat
    if (s.rslot rs).live && (s.rslot rs).gen == a.toNat / 2 ^ 10 % 2 ^ 32 && w != 0 then do
      Act.modSlot p (fun x => { x with chans := t.chans, wait := .region rs (s.rslot rs).gen })
      Act.blockKeeping
    else do
      let o := if w == 0 then 2 else if w.toNat / 2 ^ 56 = 0 then 0 else 1
      if o = 0 then acquireAt p 3
      writeX p e.d (BitVec.ofNat 64 o)
      pure .next) s

/-- The key `rkey` reports for an empty choice. -/
def noKey : Word := BitVec.allOnes 64

/-- `rkey`. -/
def execRkey (e : Enc) (s : State) : Out := issue 0xE5 e (fun p => do
  let s ← Act.look id
  let d := partOf s p
  let v : Word := match e.v with
    | 0 => match liveRegion s (s.slot p) with | some rs => BitVec.ofNat 64 (s.rslot rs).key | none => noKey
    | 1 => BitVec.ofNat 64 (frontierOf s d).1
    | _ => match (domainRegions s d).find? (fun x => isEarliest s x.2) with | some x => BitVec.ofNat 64 x.2.key | none => noKey
  writeX p e.d v
  pure .next) s

end Sys2Proof.Machine
end

