-- ==== Sys2Proof/Machine/Ringmaster.lean ====
section
/-! DEFINITION. The Ringmaster: launch queues, the checks of a command, placement, dependences, the end and the posting of a launch, user-level
interrupts, and the stopping of queues (R23 to R31, R362 to R373). -/

namespace Sys2Proof.Machine

/-! ### Accesses of the Ringmaster -/

/-- A read of global memory of a partition, of kind engine (R370, R377). -/
def partRead (part va n : Nat) : Act (List Byte) := do
  let s ← Act.look id
  if va < globalBase then Act.accessFault Cause.translation .engine va else engineRead (whoPart s part) va n

/-- A write of global memory of a partition. -/
def partWrite (part va : Nat) (b : List Byte) : Act Unit := do
  let s ← Act.look id
  if va < globalBase then Act.accessFault Cause.translation .engine va else engineWrite (whoPart s part) va b

/-- An action's result; none when it stops. -/
def runAct {α : Type} (a : Act α) (s : State) : Option (α × State) := match a s with | .ok r => some r | .error _ => none

/-- Poison that an action of the Ringmaster or of a port met: its first consumption is recorded (R430). -/
def poisonMet (part : Nat) (e : Stop) (s : State) : State :=
  match e with | .fault _ _ (some loc) => consumePoison s loc (homeDie loc) part 0 0 | _ => s

/-- What follows a read; where the read stops, nothing does, but for the record of poison it met. -/
def readThen {α : Type} (part : Nat) (a : Act α) (s : State) (k : α → State → Option State) : Option State :=
  match a s with
  | .ok (x, s') => k x s'
  | .error e => let t := poisonMet part e s; if t.poisonSeen == s.poisonSeen then none else some t

/-- An action done if it can be; otherwise nothing. -/
def tryAct (part : Nat) (a : Act Unit) (s : State) : State := match a s with | .ok (_, s') => s' | .error e => poisonMet part e s

/-- An action done if it can be, and left undone where it cannot; none while it must wait, for a line that a slot holds (R179). -/
def unlessHeld (part : Nat) (a : Act Unit) (s : State) : Option State :=
  match a s with
  | .ok (_, s') => some s'
  | .error (.wait _) => none
  | .error e => some (poisonMet part e s)

/-! ### Control blocks (R362) -/

/-- A queue's number in the state. -/
def queueKey (die num : Nat) : Nat := die * 64 + num

/-- The 32 bytes of a queue's control block. -/
def readQcb (q : Queue) : Act (List Byte) := partRead q.part q.qcb 32

def qcbTail (b : List Byte) : Nat := fieldAt b 0 4
def qcbChead (b : List Byte) : Nat := fieldAt b 8 4
def qcbStop (b : List Byte) : Bool := testBit (fieldAt b 12 1) 4

/-- ERR and STOPPED of the control block written as the queue has them. -/
def writeQcbFlags (q : Queue) (b : List Byte) : Act Unit :=
  let v := fieldAt b 12 1
  partWrite q.part (q.qcb + 12) (leBytes 1 (v - bitsN v 7 6 * 64 + q.stopped.toNat * 64 + q.err.toNat * 128))

/-- Difference of two 32-bit counts. -/
def diff32 (a b : Nat) : Nat := (a + 2 ^ 32 - b) % 2 ^ 32

/-- The indices of a control block are within range. -/
def indicesOk (q : Queue) (b : List Byte) : Bool :=
  decide (diff32 (qcbTail b) q.head ≤ 2 ^ q.rlog) && decide (diff32 q.ctail (qcbChead b) < 2 ^ 31)

/-! ### Fields of a launch command (R364) -/

namespace Launch
def entry (l : Launch) : Nat := bitsN l.hdr0 15 0
def addr (l : Launch) : Nat := fieldAt l.cmd 24 8
def astride (l : Launch) : Nat := fieldAt l.cmd 32 8
def after (l : Launch) : Nat := fieldAt l.cmd 40 8
def credit (l : Launch) : Nat := fieldAt l.cmd 48 8
def cookie (l : Launch) : Nat := fieldAt l.cmd 56 8
def args (l : Launch) : List Word := (List.range 6).map (fun k => BitVec.ofNat 64 (fieldAt l.cmd (64 + 8 * k) 8))
def nslot (l : Launch) : Nat := bitsN l.hdr2 63 48
def runany (l : Launch) : Bool := testBit l.hdr2 42
def note (l : Launch) : Bool := testBit l.hdr2 40
def cocap (l : Launch) : Nat := bitsN l.hdr2 31 16
def budget (l : Launch) : Nat := bitsN l.hdr2 15 0
end Launch

/-! ### Units of a tier (R30, R366) -/

/-- A partition's clusters in service, in ascending die and number. -/
def partClusters (s : State) (part : Nat) : List Nat :=
  (List.range 256).filter (fun c =>
    (KV.get (0 : Word) (s.part part).clmask (c / 64)).getLsbD (c % 64) && !(s.die (c / 64)).outsvc.getLsbD (c % 64))

/-- The unit of a tier that a core lies in: the core itself, its cluster, its domain, the device. -/
def unitOf (tier core : Nat) : Nat :=
  match tier with
  | 0 => core
  | 1 => clusterOf core
  | 2 => clusterOf core / 32
  | _ => 0

/-- The units of a tier that hold a cluster of the partition, ascending. -/
def unitsOf (s : State) (part tier : Nat) : List Nat :=
  (((partClusters s part).flatMap clusterCores).map (unitOf tier)).eraseDups

/-- The cores of clusters, with their virtual numbers at a tier (R33). -/
def virtualCores (tier : Nat) (cls : List Nat) : List (Nat × Nat) :=
  let doms := (cls.map (fun c => c / 32)).eraseDups
  cls.flatMap (fun c =>
    let same := cls.filter (fun d => d / 32 == c / 32)
    let cl := if tier = 1 then 0 else (same.idxOf c)
    let dom := if tier ≤ 2 then 0 else doms.idxOf (c / 32)
    (List.range 8).map (fun k => (dom * 2 ^ 8 + cl * 8 + k, pslotOf c k)))

/-- The other devices of the domain that hold clusters of a partition, with those clusters. -/
def farDevices (s : State) (part : Nat) : List (Nat × List Nat) :=
  (List.filter (fun (e : Nat × Peer) => e.1 % 16 == part && e.1 / 16 != s.board.fdev && !e.2.clusters.isEmpty) s.peers).map (fun e => (e.1 / 16, e.2.clusters))

/-- DEVV of a device in a fabric-tier instance: the devices stand in ascending FDEV. DEDUCED (log 99). -/
def devv (s : State) (part fdev : Nat) : Nat :=
  ((if fdev != s.board.fdev && decide (s.board.fdev < fdev) then 1 else 0) + ((farDevices s part).filter (fun d => decide (d.1 < fdev))).length)

/-- The virtual cores that a fabric-tier instance has on other devices, with the devices' numbers. -/
def farCores (s : State) (part tier : Nat) : List (Nat × Nat) :=
  if tier != 4 then [] else
    (farDevices s part).flatMap (fun d => (virtualCores 4 d.2).map (fun c => (devv s part d.1 * 2 ^ 11 + c.1, d.1)))

/-- The cores of a unit on this device, with their virtual numbers (R33). -/
def unitCores (s : State) (part tier unit : Nat) : List (Nat × Nat) :=
  match tier with
  | 0 => [(0, unit)]
  | _ =>
    let v := virtualCores tier ((partClusters s part).filter (fun c => unitOf tier (pslotOf c 0) == unit))
    if tier = 4 then v.map (fun c => (devv s part s.board.fdev * 2 ^ 11 + c.1, c.2)) else v

/-- How many cores a unit has. -/
def unitSize (s : State) (part tier unit : Nat) : Nat := (unitCores s part tier unit).length + (farCores s part tier).length

/-- Acts per instance for the checks: the smallest unit of the tier that holds a cluster of the partition (R365). -/
def actsPerInstance (s : State) (part tier : Nat) : Nat :=
  match tier with
  | 0 => 1
  | 1 => 8
  | _ => ((unitsOf s part tier).map (unitSize s part tier)).foldl (fun a n => if a = 0 || decide (n < a) then n else a) 0

/-! ### The checks of R365 -/

/-- A PSLOT of the partition: on one of its clusters or control cores. -/
def pslotIn (s : State) (part v : Nat) : Bool :=
  pslotOk v && (if isCtl v then testBit (s.part part).ccmask (4 * dieOf v + v / 16 % 8)
                else (KV.get (0 : Word) (s.part part).clmask (dieOf v)).getLsbD (v / 2 ^ 7 % 64))

/-- The end of an object's regions, and the bytes they take. -/
def regionsEnd (rs : List Region) : Nat := rs.foldl (fun m r => if m < r.off + r.size then r.off + r.size else m) 0
def regionsSize (rs : List Region) : Nat := rs.foldl (fun m r => m + r.size) 0

/-- Scratchpad below the spill areas for an L1 size (R93). -/
def spadRoom (l1 : Nat) : Nat := 384 * 1024 - 32 * 1024 * l1 - 4096

/-- The devices of the load-store domain that implement features, this one among them: it implements all (R365). -/
def featDevices (s : State) (feat : Nat) : Nat :=
  1 + (((List.filter (fun (e : Nat × Peer) => Nat.land e.2.feats feat == feat) s.peers).map (fun e => e.1 / 16)).eraseDups.filter (· != s.board.fdev)).length

/-- The cause of the first check of R365 that a command fails; 0 when it passes. -/
def commandCheck (s : State) (l : Launch) : Nat :=
  let h0 := l.hdr0
  let h2 := l.hdr2
  let a := actsPerInstance s l.part l.tier
  let known := (KV.find? s.objs l.objKey).isSome
  let o := s.obj l.objKey
  if !(bitsN h0 63 56 == 0 && bitsN h0 31 25 == 0 && bitsN h0 19 19 == 0 && bitsN h2 47 43 == 0 && bitsN h2 41 41 == 0 && bitsN h2 39 35 == 0 &&
      zeroAt l.cmd 112 16 && decide (l.tier ≤ 4) && testBit l.feat 0 && (!l.note || pslotIn s l.part l.nslot)) then Cause.badcmd
  else if !(known && decide (l.entry < o.handlers.length)) then Cause.badcmd
  else if spadRoom l.l1 < regionsEnd o.regions then Cause.badcmd
  else if !((l.budget == 0 || decide (a ≤ l.budget)) && (l.cocap == 0 || decide (a ≤ l.cocap))) then Cause.badcmd
  else if !(l.after % 16 == 0 && l.credit % 16 == 0) then Cause.badcmd
  else if l.tier == 4 && decide (featDevices s l.feat < Config.fabricDevices) then Cause.feature
  else 0

/-! ### Counts of a launch (R25) -/

/-- Engine entries accepted and not completed: queues, collectives, waves and queued edits. -/
def engineWork (s : State) (l : Nat) : Bool :=
  let mine := fun (q : List Entry) => q.any (fun e => e.org.launch == l)
  s.cores.any (fun e => mine e.2.copyq || mine e.2.mx.queue || mine e.2.jug.queue) ||
  s.clusters.any (fun e => mine e.2.sdq) || s.dies.any (fun e => e.2.colls.any (fun c => c.launch == l && c.decided.isNone)) ||
  s.tables.any (fun e => e.2.waves.any (fun w => w.launch == l && !w.failed) || e.2.edits.any (fun d => d.launch == l))

/-- Messages sent and not yet taken, and the acts of the launch on other devices. -/
def messagesOut (s : State) (l : Nat) : Bool :=
  s.net.any (fun i => i.launch == l) || s.cores.any (fun e => e.2.inbox.any (fun i => i.launch == l)) ||
  s.ginsts.any (fun e => e.2.launch == l && decide (0 < e.2.farActs)) ||
  s.dies.any (fun e => e.2.collIn.any (fun i => i.launch == l))

/-- Work recorded in core parts not yet restored (R386). -/
def recordedWork (s : State) (l : Nat) : Bool :=
  s.ginsts.any (fun e => e.2.launch == l && !(e.2.copies.isEmpty && e.2.held.isEmpty && e.2.heldMx.isEmpty))

/-- Buffered stores not yet performed. -/
def storesOut (s : State) (l : Nat) : Bool := s.slots.any (fun e => e.2.store.any (fun x => x.launch == some l))

/-- A core's scratchpad can hold named regions beside those of the instances live there (R12). While launches of different L1 sizes are live on a core, its L1 has
the least of their sizes, and its scratchpad the rest of the SRAM (R5). DESIGN CHOICE (log 115). -/
def coreFits (s : State) (core l1 : Nat) (rs : List Region) : Bool :=
  let live := liveOn s core
  let l1 := live.foldl (fun n g => min n (s.launch g.launch).l1) l1
  rs.isEmpty || decide (regionsSize rs + (live.map (fun g => regionsSize g.regions)).foldl (· + ·) 0 ≤ spadRoom l1)

/-! ### Placement (R366 to R369) -/

def coreFree (s : State) (core : Nat) : Bool := (List.range 4).any (fun k => (s.slot (core + k)).st == .free)

/-- Slots a launch holds (R367). -/
def slotsHeld (s : State) (l : Nat) : Nat :=
  (s.slots.filter (fun e => e.2.launch == some l && (e.2.st == .active || e.2.st == .parked) && !e.2.boundary)).length +
  (s.net.filter (fun i => i.launch == l && i.kind == .start)).length +
  s.cores.foldl (fun n e => n + (e.2.inbox.filter (fun i => i.launch == l && i.kind == .start)).length) 0 +
  s.ginsts.foldl (fun n e => if e.2.launch == l then n + e.2.farActs else n) 0

/-- The producer of a launch: the one ahead of it in its queue. -/
def producerOf (s : State) (lk : Nat) : Option Nat :=
  let q := s.queue (queueKey (s.launch lk).die (s.launch lk).queue)
  match q.launches.idxOf? lk with
  | some (k + 1) => q.launches[k]?
  | _ => none

/-- Whether a launch is co-resident with a producer that has unplaced instances. -/
def producerUnplaced (s : State) (lk : Nat) : Bool :=
  (s.launch lk).cocap != 0 && (match producerOf s lk with
    | some p => let x := s.launch p; !x.st.terminal && x.st != .ending && decide (x.placed < x.nInst)
    | none => false)

/-- A unit's size is one that BUDGET and COCAP let the launch take. -/
def unitSized (l : Launch) (n : Nat) : Bool := (l.budget == 0 || decide (n ≤ l.budget)) && (l.cocap == 0 || decide (n ≤ l.cocap))

/-- The slots of the launch with the instance stay within BUDGET and COCAP. -/
def withinBudget (s : State) (lk n : Nat) : Bool :=
  let l := s.launch lk
  let held := slotsHeld s lk + n
  let far := if l.tier = 4 then ((farDevices s l.part).map (fun d => d.2.length)).foldl (· + ·) 0 else 0
  let cap := if l.budget = 0 then 32 * ((partClusters s l.part).length + far) else l.budget
  decide (held ≤ cap) && (!producerUnplaced s lk || decide (held ≤ l.cocap))

/-- Whether a unit is free for a further instance: above core tier no live instance of the launch is there; its cores can hold the regions. -/
def unitFree (s : State) (lk unit : Nat) : Bool :=
  let l := s.launch lk
  let cores := unitCores s l.part l.tier unit
  (l.tier == 0 || !(s.ginsts.any (fun e => e.2.launch == lk && !e.2.formula && ginstLive s e.1 &&
      e.2.cores.any (fun c => unitOf l.tier c.2 == unit)))) &&
  cores.all (fun c => coreFits s c.2 l.l1 (s.obj l.objKey).regions)

/-- The rotation pointer of a partition and tier at a Ringmaster: the number from which the next unit is sought. -/
def rotKey (part tier : Nat) : Nat := part * 8 + tier
def rotStart (die tier : Nat) : Nat := match tier with | 0 => die * 2 ^ 13 | 1 => die * 64 | 2 => die * 2 | _ => 0

/-- Units in rotation from the pointer. -/
def rotated' (start : Nat) (us : List Nat) : List Nat := us.filter (fun u => decide (start ≤ u)) ++ us.filter (fun u => decide (u < start))

/-- The first of some units after the rotation pointer of a partition and tier at a die's Ringmaster in which every core has a FREE slot, else the
first (R366); and the pointer past a unit. -/
def unitInTurn (s : State) (die part tier : Nat) (us : List Nat) : Option Nat :=
  let us := rotated' (KV.get (rotStart die tier) (s.die die).rot (rotKey part tier)) us
  match us.find? (fun u => (unitCores s part tier u).all (fun c => coreFree s c.2)) with
  | some u => some u
  | none => us.head?
def turnPassed (die part tier u : Nat) (s : State) : State := s.modDie die (fun d => { d with rot := KV.set d.rot (rotKey part tier) (u + 1) })

/-- The unit that rotation gives (R366). -/
def unitByRotation (s : State) (lk : Nat) : Option Nat :=
  let l := s.launch lk
  unitInTurn s l.die l.part l.tier ((unitsOf s l.part l.tier).filter (fun u => unitSized l (unitSize s l.part l.tier u) && unitFree s lk u))

/-- The physical address an address translates to for a partition, aside from permissions (R368). -/
def partPhys (s : State) (part va : Nat) : Option Nat :=
  if va < globalBase || decide (2 ^ 48 ≤ va) then none
  else (leafFor s (whoPart s part) va false).map (fun e => ptePhys e.pte e.level va)

/-- The unit that a physical address names at core, cluster or domain tier; none when the domain holds no cluster of the partition (R368). -/
def unitByPhys (s : State) (part tier pa : Nat) : Option Nat :=
  let stack := bitsN pa 39 37
  let dom := stack / 2 * 2 + stack % 2
  let cs := (partClusters s part).filter (fun c => c / 32 == dom)
  let h := bitsN pa 36 12
  if cs.isEmpty then none
  else
    let c := cs.getD (h / 8 % cs.length) 0
    match tier with
    | 0 => some (pslotOf c (h % 8))
    | 1 => some c
    | 2 => some dom
    | _ => none

/-- Where the next instance of a launch goes: a unit, whether ADDR chose it; `wait`; or the failure of ADDR's translation. -/
inductive Chosen where
  | unit (u : Nat) (affine : Bool)
  | wait
  | failed (va : Nat)
  deriving DecidableEq, Repr

/-- The choice of R366 and R368. -/
def chooseUnit (s : State) (lk : Nat) : Chosen :=
  let l := s.launch lk
  let rot : Chosen := match unitByRotation s lk with
    | some u => if withinBudget s lk (unitSize s l.part l.tier u) then .unit u false else .wait
    | none => .wait
  if l.addr = 0 || 2 < l.tier then rot
  else
    let a := (l.addr + l.placed * l.astride) % 2 ^ 64
    match partPhys s l.part a with
    | none => .failed a
    | some pa =>
      match unitByPhys s l.part l.tier pa with
      | none => rot
      | some u =>
        let n := unitSize s l.part l.tier u
        if !unitSized l n then rot
        else if unitFree s lk u && withinBudget s lk n then .unit u true else .wait

/-- The sender number of a Ringmaster's messages. -/
def ringSrc : Nat := 0x30000

/-- The bytes and full-empty bits of a group copy's named regions, as placement leaves them (R12, R174). -/
def initRegion (g v : Nat) (r : Region) (s : State) : State :=
  let base := spadLoc (copySpace g v) r.off
  match r.init with
  | some b =>
    let s := { s with mem := Memory.writeN s.mem base b }
    (List.range (r.size / 16)).foldl (fun s k => setFe s (base + 16 * k) true) s
  | none => s

def initRegions (g : Nat) (cores : List (Nat × Nat)) (rs : List Region) (s : State) : State :=
  cores.foldl (fun s c => rs.foldl (fun s r => initRegion g c.1 r s) s) s

/-- The launch-start message to one core of an instance (R10). -/
def startItem (l : Launch) (lk g vcore core : Nat) (affine : Bool) : NetItem :=
  { kind := .start, src := ringSrc + l.die, launch := lk, ginst := g, dst := core, vcore := vcore, prio := l.prio, handler := l.entry
    regs := l.args ++ [BitVec.ofNat 64 l.hdr0], isMessage := true, affine := affine && l.tier == 0 }

/-- An instance placed on a unit: its group copy, its regions, and a launch-start message to each core; those to other devices' cores count there. -/
def placeOn (lk u : Nat) (affine : Bool) (s : State) : State :=
  let l := s.launch lk
  let g := s.nextId
  let cores := unitCores s l.part l.tier u
  let far := farCores s l.part l.tier
  let rs := (s.obj l.objKey).regions
  let s := { s with nextId := g + 1, ginsts := KV.set s.ginsts g { launch := lk, num := l.placed, tier := l.tier, cores := cores, far := far, farActs := far.length,
                                                                   ncores := cores.length, regions := rs } }
  let s := initRegions g cores rs s
  let s := cores.foldl (fun s c => netPush (startItem l lk g c.1 c.2 affine) s) s
  let s := if affine then s else turnPassed l.die l.part l.tier u s
  s.modLaunch lk (fun l => { l with placed := l.placed + 1, st := if l.placed + 1 = l.nInst then .running else l.st })

/-- A launch in PLACING with an instance to place on a queue that runs. -/
def placing (s : State) (lk : Nat) : Bool :=
  let l := s.launch lk
  let q := s.queue (queueKey l.die l.queue)
  l.st == .placing && decide (l.placed < l.nInst) && !q.stopping && !q.stopped

def placeable (s : State) (lk : Nat) : Bool := placing s lk && (match chooseUnit s lk with | .wait => false | _ => true)

/-- The rotation pointer over queues of a priority at a Ringmaster (R369). -/
def queueRotKey (prio : Nat) : Nat := 1000 + prio

/-- Whether R369 lets this launch's instance go now: none of higher priority is placeable; among equals, a producer before its co-resident
launch, and the first queue in rotation. -/
def placeTurn (s : State) (lk : Nat) : Bool :=
  let l := s.launch lk
  let others := (s.launches.filter (fun e => e.1 != lk && e.2.die == l.die && decide (l.prio ≤ e.2.prio) && placeable s e.1))
  let ptr := KV.get 0 (s.die l.die).rot (queueRotKey l.prio)
  let dist := fun (q : Nat) => (q + 64 - ptr) % 64
  others.all (fun e => e.2.prio == l.prio &&
    (if e.2.queue == l.queue then decide ((s.queue (queueKey l.die l.queue)).launches.idxOf lk < (s.queue (queueKey l.die l.queue)).launches.idxOf e.1)
     else decide (dist l.queue < dist e.2.queue)))

/-- Event PLACE_INSTANCE. -/
def execPlaceInstance (lid : Nat) (s : State) : Out := event (fun s =>
  let l := s.launch lid
  if s.board.fatal || !placing s lid || !placeTurn s lid then none
  else match chooseUnit s lid with
    | .wait => none
    | .failed a => some (launchFault lid { cause := Cause.translation + AKind.engine.code, detail := BitVec.ofNat 64 a, where_ := 0, ginst := 0 } s)
    | .unit u affine =>
      some ((placeOn lid u affine s).modDie l.die (fun d => { d with rot := KV.set d.rot (queueRotKey l.prio) ((l.queue + 1) % 64) }))) s

/-- The core of the cluster to which a start message goes whose own core has no FREE slot: the lowest-numbered one with a FREE slot (R368) that can hold the instance's
named regions (R12). -/
def fallbackCore (s : State) (core : Nat) (i : NetItem) : Option Nat :=
  (clusterCores (clusterOf core)).find? (fun c => c != core && coreFree s c && coreFits s c (s.launch i.launch).l1 (s.ginst i.ginst).regions)

/-- Where a start message that waits in the inbox of a core may go instead. -/
def fallbackTo (s : State) (core : Nat) (i : NetItem) : Option Nat :=
  if i.affine then (fallbackCore s core i).filter (fun c => decide ((s.core c).inbox.length < inboxDepth)) else none

/-- Event PLACEMENT_FALLBACK: a start message that ADDR sent to a core without a FREE slot for 2,048 cycles goes to another core of the cluster: the first in the
core's inbox for which there is such a core, or else the first still on its way there. -/
def execPlacementFallback (core : Nat) (s : State) : Out := event (fun s =>
  let inbox := (s.core core).inbox
  let late := fun (i : NetItem) => i.affine && i.kind == .start && i.dst == core && (fallbackCore s core i).isSome
  let placed := fun (i : NetItem) (c : Nat) (s : State) => s.modGinst i.ginst (fun g => { g with cores := [(0, c)] })
  if coreFree s core || decide (s.cycle < (s.core core).fullSince + 2048) then none
  else match inbox.findIdx? (fun i => (fallbackTo s core i).isSome) with
    | some n =>
      match inbox[n]?, inbox[n]?.bind (fallbackTo s core) with
      | some i, some c =>
        let s := s.modCore core (fun x => { x with inbox := inbox.eraseIdx n })
        some (placed i c (s.modCore c (fun x => { x with inbox := x.inbox ++ [{ i with dst := c }] })))
      | _, _ => none
    | none =>
      match s.net.find? late, (s.net.find? late).bind (fallbackCore s core) with
      | some i, some c => some (placed i c { s with net := s.net.eraseP late ++ [{ i with dst := c, retryAt := none }] })
      | _, _ => none) s

/-! ### Taking and checking commands (R363, R365, R370) -/

/-- Whether the queue's next command may leave QUEUED: the launch ahead has posted, or the next command is co-resident with a producer that has
entered PLACING (R363, R367). -/
def mayTake (s : State) (q : Queue) (cmd : List Byte) : Bool :=
  match q.launches.getLast? with
  | none => true
  | some lk =>
    let p := s.launch lk
    let next : Launch := { cmd := cmd }
    next.cocap != 0 && decide (q.launches.length < 8) && (match p.st with | .placing | .running | .draining => true | _ => false)

/-- The lowest launch identifier that no unfinished launch of the partition holds; at most 512 are held (64 queues of 8). -/
def freeLid (s : State) (part : Nat) : Nat :=
  ((List.range 65536).find? (fun k => (KV.find? s.launches (launchKey part k)).isNone)).getD 0

/-- Whether any of `n` bytes at an address of a partition was written since a cycle: what the homes report. -/
def writtenSince (s : State) (part va n cycle : Nat) : Bool :=
  match partPhys s part va with
  | some pa => (granules pa n).any (fun g => match KV.find? s.written g with | some c => decide (cycle < c) | none => false)
  | none => false

/-- The objects the Ringmaster tracks. -/
def trackedObjs : Nat := 64

/-- Whether an object outside those that the Ringmaster tracks has been written since the last export: DOVF (R374). It is asked before a command's objects
become the newest, and at the export. -/
def objsLost (s : State) (q : Queue) : Bool := (q.objs.drop trackedObjs).any (fun a => writtenSince s q.part a 16 q.exported)

/-- The objects a command names, the newest first, each once (R374). -/
def nameObjs (cmd : List Byte) (objs : List Nat) : List Nat :=
  let l : Launch := { cmd := cmd }
  [l.after, l.credit].foldl (fun o a => if a = 0 then o else a :: o.filter (· != a)) objs

/-- Event LAUNCH_TAKE. -/
def execLaunchTake (die queue : Nat) (s : State) : Out := event (fun s =>
  let k := queueKey die queue
  match KV.find? s.queues k with
  | none => none
  | some q =>
    if s.board.fatal || q.err || !(s.part q.part).en then none
    else readThen q.part (readQcb q) s (fun b s =>
        if !indicesOk q b then
          let q := { q with err := true, stopped := true }
          unlessHeld q.part (writeQcbFlags q b) { s with queues := KV.set s.queues k q }
        else if q.stopped || q.stopping || qcbTail b = q.head then none
        else readThen q.part (partRead q.part (q.ring + 128 * (q.head % 2 ^ q.rlog)) 128) s (fun cmd s =>
            if !mayTake s q cmd then none
            else
              let lid := freeLid s q.part
              let lk := launchKey q.part lid
              let l : Launch := { lid := lid, part := q.part, die := die, queue := queue, rindex := q.head % 2 ^ q.rlog, cmd := cmd }
              let q := { q with head := (q.head + 1) % 2 ^ 32, launches := q.launches ++ [lk], objs := nameObjs cmd q.objs, dovf := q.dovf || objsLost s q }
              let s := { s with launches := KV.set s.launches lk l, queues := KV.set s.queues k q }
              unlessHeld q.part (partWrite q.part (q.qcb + 4) (leBytes 4 q.head)) s))) s

/-- Event LAUNCH_WAITING. -/
def execLaunchWaiting (lid : Nat) (s : State) : Out := event (fun s =>
  match KV.find? s.launches lid with
  | some l =>
    if l.st != .queued then none
    else
      let c := commandCheck s l
      some (s.modLaunch lid (fun l =>
        if c = 0 then { l with st := .waiting, checked := true }
        else { l with st := .refused, fault := some { cause := c, detail := 0, where_ := 0, ginst := 0 } }))
  | none => none) s

/-- Event DEPENDENCE_MET. -/
def execDependenceMet (lid : Nat) (s : State) : Out := event (fun s =>
  let l := s.launch lid
  let q := s.queue (queueKey l.die l.queue)
  if l.st != .waiting || q.stopping || q.stopped then none
  else if l.after = 0 then some (s.modLaunch lid (fun l => { l with st := .placing }))
  else match partRead l.part l.after 16 s with
    | .error (.fault c d q) =>
      let s := match q with | some loc => consumePoison s loc (homeDie loc) l.part l.lid 0 | none => s
      some (launchFault lid { cause := c, detail := d, where_ := 0, ginst := 0 } s)
    | .error (.silent a k va) => awaitAnswer { launch := lid, ginst := 0, vcore := 0, pslot := 0, act := 0 } a va s (fun s =>
      launchFault lid { cause := Cause.poison + k, detail := BitVec.ofNat 64 va, where_ := 0, ginst := 0 } (fabricCheck a l.part l.lid 0 s))
    | .error (.wait _) => none
    | .error (.behind _ _) => none
    | .ok (b, s) =>
      let need := fieldAt b 0 4
      if need = 0 || fieldAt b 4 4 < need then none
      else if fieldAt b 8 4 = 0 || l.runany then some (s.modLaunch lid (fun l => { l with st := .placing }))
      else some (s.modLaunch lid (fun l => { l with st := .skipped, fault := some { cause := Cause.depfail, detail := 0, where_ := 0, ginst := 0 } }))) s

/-! ### The end of a launch (R25, R26) -/

/-- Every tag of a launch freed on every core (R25, R126). -/
def freeTags (l : Nat) (s : State) : State :=
  s.cores.foldl (fun s e => (e.2.tags.filter (fun t => t.launch == l)).foldl (fun s t => freeTagOn e.1 t.ginst t.tag s) s) s

/-- Slots that hold an act or boundary context of a launch become FREE, and its saved contexts go. -/
def freeSlots (l : Nat) (s : State) : State :=
  { s with
    slots := s.slots.map (fun e => (e.1, if e.2.ofLaunch l then e.2.freed else e.2))
    saved := s.saved.filter (fun v => v.launch != l) }

/-- The table contexts that a launch configured are empty when it ends (R299). -/
def dropContexts (l : Nat) (s : State) : State :=
  { s with cores := s.cores.map (fun (e : Nat × Core) =>
      if e.2.jug.ctx.any (fun c => c.2.launch == l) then
        (e.1, { e.2 with jug := { e.2.jug with ctx := e.2.jug.ctx.filter (fun c => c.2.launch != l) } })
      else e) }

/-- Event LAUNCH_DONE: every count of R25 is zero. -/
def execLaunchDone (lid : Nat) (s : State) : Out := event (fun s =>
  let l := s.launch lid
  if (l.st == .running || l.st == .draining) && !launchLive s lid && !engineWork s lid && !messagesOut s lid && !storesOut s lid &&
      !recordedWork s lid then
    some (dropContexts lid (freeTags lid (freeSlots lid (s.modLaunch lid (fun l => { l with st := .done })))))
  else none) s

/-- Event LAUNCH_ENDED. -/
def execLaunchEnded (lid : Nat) (s : State) : Out := event (fun s =>
  if (s.launch lid).st == .ending && !engineWork s lid && !messagesOut s lid && !storesOut s lid then
    some (dropContexts lid (freeSlots lid ((stopLaunch lid s).modLaunch lid (fun l => { l with st := .ended }))))
  else none) s

/-! ### User-level interrupts (R372) -/

/-- Values a pending list holds. -/
def uintDepth : Nat := 8

/-- A value added to a pending list, or counted lost. -/
def uintHold (v : Word) (l : List Word × Nat) : List Word × Nat :=
  if l.1.length < uintDepth then (l.1 ++ [v], l.2) else (l.1, if l.2 < 255 then l.2 + 1 else 255)

/-! The statuses of privileged instructions (R355). -/

namespace PStat
def ok : Nat := 0
def noact : Nat := 1
def notparked : Nat := 2
def busy : Nat := 3
def badarea : Nat := 4
def badrec : Nat := 5
def badimg : Nat := 6
def pending : Nat := 7
def requested : Nat := 8
end PStat

/-- A slot's q7 takes an interrupt entry now. -/
def q7Open (t : Slot) : Bool := (t.chan 7).kind == .input && decide ((t.chan 7).entries.length < chanDepth)

/-- Delivery of a value to a slot: the state, and the status of `uipost`. -/
def uintPost (s : State) (p : Nat) (v : Word) : State × Nat :=
  let t := s.slot p
  let hold := fun (t : Slot) => let r := uintHold v (t.uints, t.uintLoss); { t with uints := r.1, uintLoss := r.2 }
  let wake := fun (s : State) => if isCtl p then s.modPart t.ctl.pid (fun x => { x with pendQueue := true }) else s
  match t.st with
  | .active =>
    if t.uints.isEmpty && q7Open t then (wake (enterChan p 7 (v.setWidth 128) s), PStat.ok) else (wake (s.modSlot p hold), PStat.ok)
  | .parked => (s.modSlot p hold, PStat.pending)
  | .halted => (s, PStat.noact)
  | .free =>
    match t.savedFrom with
    | some a =>
      if s.saved.any (fun c => c.act == a) then
        ({ s with saved := s.saved.map (fun c => if c.act == a then
            (let r := uintHold v (c.uints, c.uintLoss); { c with uints := r.1, uintLoss := r.2 }) else c) }, PStat.pending)
      else (s, PStat.noact)
    | none => (s, PStat.noact)

/-- Event UINT_PENDING_DELIVER: the oldest pending value moves to q7. -/
def execUintPendingDeliver (pslot : Nat) (s : State) : Out := event (fun s =>
  let t := s.slot pslot
  match t.uints with
  | v :: r => if t.st == .active && q7Open t then some (enterChan pslot 7 (v.setWidth 128) (s.modSlot pslot (fun t => { t with uints := r }))) else none
  | [] => none) s

/-! ### Posting (R370, R371) -/

/-- KIND of a completion record. -/
def LState.kindCode : LState → Nat | .done => 0 | .ended => 1 | .skipped => 2 | _ => 3

/-- The status word. -/
def statusWord (l : Launch) : Word :=
  let cause := match l.fault with | some f => if l.st == .done then 0 else f.cause | none => 0
  BitVec.ofNat 64 (l.lid * 2 ^ 48 + l.queue % 64 * 2 ^ 42 + l.st.kindCode * 2 ^ 40 + l.secondary * 2 ^ 32 + l.die % 4 * 2 ^ 8 + cause)

/-- The completion record. -/
def recordBytes (l : Launch) : List Byte :=
  let f : LFault := l.fault.getD { cause := 0, detail := 0, where_ := 0, ginst := 0 }
  bytesOfWord (statusWord l) ++ bytesOfWord f.detail ++ leBytes 2 f.where_ ++ leBytes 2 f.ginst ++ leBytes 4 0 ++ leBytes 8 l.cookie

/-- One credit of a completion object (R370), indivisible; not made where the page does not permit reading and writing, or where CREDIT of a
refused command is no multiple of 16. DEDUCED (log 86). -/
def creditAct (part va : Nat) (fail : Option Nat) : Act Unit := do
  let s ← Act.look id
  if va < globalBase || va % 16 != 0 then Act.accessFault Cause.translation .engine va
  else
    let q ← resolve (whoPart s part) .engine Need.both va 16
    let b ← homeLoad none .engine va q 16
    let arr := fieldAt b 4 4
    let b := patch b 4 (leBytes 4 (if arr < 2 ^ 32 - 1 then arr + 1 else arr))
    let b := match fail with
      | some c => patch (patch b 8 (leBytes 4 (fieldAt b 8 4 + 1))) 12 (leBytes 1 c)
      | none => b
    Act.upd (homeStore none q b)

/-- Moves cells of sparse data: each `(from, to)` range of `moves` loses what `to` holds, and gets what `from` holds there. Locations are divided by `unit`. -/
def movedTo (unit : Nat) (moves : List (Nat × Nat × Nat)) (k : Nat) : Option Nat :=
  (moves.find? (fun m => decide (m.1 ≤ k * unit) && decide (k * unit < m.1 + m.2.2))).map (fun m => (m.2.1 + (k * unit - m.1)) / unit)
def overwritten (unit : Nat) (moves : List (Nat × Nat × Nat)) (k : Nat) : Bool :=
  moves.any (fun m => decide (m.2.1 ≤ k * unit) && decide (k * unit < m.2.1 + m.2.2))
def moveCells {α : Type} (unit : Nat) (moves : List (Nat × Nat × Nat)) (put : KV α → Nat → α → KV α) (m : KV α) : KV α :=
  let kept := List.filter (fun (c : Nat × α) => !overwritten unit moves c.1 && (movedTo unit moves c.1).isNone) m
  m.foldl (fun l c => match movedTo unit moves c.1 with | some k => put l k c.2 | none => l) kept

/-- The bytes, bits and marks of a group copy's named regions on a virtual core, gone (R345). -/
def clearCopy (g v : Nat) (s : State) : State :=
  let mine := fun (loc : Nat) => decide (spadLoc (copySpace g v) 0 ≤ loc) && decide (loc < spadLoc (copySpace g v) 0 + 2 ^ 20)
  if (s.ginst g).regions.isEmpty then s
  else { s with mem := s.mem.filter (fun (c : Host.Cell) => !mine c.1), fe := s.fe.filter (fun (c : Nat × Bool) => !mine (c.1 * 16))
                poison := s.poison.filter (fun (c : Nat × Bool) => !mine (c.1 * 16)) }

/-- The named regions of a group copy's core end there: their bytes, bits and marks stay behind as common bytes of the core (R11, R323, R399). Where another
instance is live on the core, whose acts may be using those common bytes, they stay as they are and the copy's go. DESIGN CHOICE (log 121). -/
def leaveCopy (g v core : Nat) (s : State) : State :=
  let moves := (s.ginst g).regions.map (fun r => (spadLoc (copySpace g v) r.off, spadLoc core r.off, r.size))
  if moves.isEmpty then s
  else if s.ginsts.any (fun e => e.1 != g && e.2.cores.any (fun c => c.2 == core) && ginstLive s e.1) then clearCopy g v s
  else { s with mem := moveCells 1 moves Memory.write s.mem, fe := moveCells 16 moves KV.set s.fe, poison := moveCells 16 moves KV.set s.poison }

/-- A launch's group copies end with it (R12): what their regions hold stays on the cores that hold them. -/
def dropCopies (l : Nat) (s : State) : State :=
  let gs := s.ginsts.filter (fun e => e.2.launch == l)
  if gs.isEmpty then s
  else
    let s := gs.foldl (fun s e => (e.2.cores.filter (fun c => !e.2.savedCores.contains c.1 || e.2.back.contains c.1)).foldl (fun s c => leaveCopy e.1 c.1 c.2 s) s) s
    { s with ginsts := s.ginsts.filter (fun e => e.2.launch != l) }

/-- What a posted launch leaves: its identifier, tags, group copies, engine contexts and matrix units are free (R247, R299, R371). -/
def retireLaunch (lk : Nat) (s : State) : State :=
  let l := s.launch lk
  let s := dropCopies lk (freeTags lk s)
  let s := { s with
    cores := s.cores.map (fun (e : Nat × Core) => (e.1, { e.2 with
      mx := if e.2.mx.owner == some lk then {} else e.2.mx
      jug := { e.2.jug with ctx := e.2.jug.ctx.filter (fun c => c.2.launch != lk)
                            counts := e.2.jug.counts.filter (fun (c : Nat × JCount) => (KV.find? s.ginsts c.1).isSome) } }))
    dies := s.dies.map (fun (e : Nat × Die) => (e.1, { e.2 with colls := e.2.colls.filter (fun c => c.launch != lk) }))
    launches := KV.erase s.launches lk }
  s.modQueue (queueKey l.die l.queue) (fun q => { q with launches := q.launches.filter (· != lk) })

/-- Event LAUNCH_POST. -/
def execLaunchPost (lid : Nat) (s : State) : Out := event (fun s =>
  match KV.find? s.launches lid with
  | none => none
  | some l =>
    let k := queueKey l.die l.queue
    let q := s.queue k
    if !l.st.terminal then none
    else match readQcb q s with
      | .ok (b, s) =>
        if diff32 q.ctail (qcbChead b) = 2 ^ q.clog then none
        else
          let ct := (q.ctail + 1) % 2 ^ 32
          let fail := if l.st == .done then none else some (statusWord l).toNat
          ((unlessHeld q.part (partWrite q.part (q.cring + 32 * (q.ctail % 2 ^ q.clog)) (recordBytes l)) s).bind (fun s =>
            (unlessHeld q.part (partWrite q.part (q.qcb + 16) (leBytes 4 ct)) (s.modQueue k (fun q => { q with ctail := ct }))).bind (fun s =>
              if l.credit = 0 then some s else unlessHeld l.part (creditAct l.part l.credit (fail.map (· % 256))) s))).map (fun s =>
            retireLaunch lid ((if l.note then (uintPost s l.nslot (statusWord l)).1 else s).modPart l.part (fun x => { x with pendQueue := true })))
      | .error (.wait _) => none
      | .error _ =>
        -- A queue that no longer exists, or whose block cannot be reached, has nowhere to post (log 30).
        some (retireLaunch lid s)) s

/-! ### Stopping a queue (R373) -/

/-- Event QUEUE_STOP_REQUEST: a reported write of STOP; clearing it resumes the queue. -/
def execQueueStopRequest (die queue : Nat) (s : State) : Out := event (fun s =>
  let k := queueKey die queue
  match KV.find? s.queues k with
  | none => none
  | some q =>
    readThen q.part (readQcb q) s (fun b s =>
      if qcbStop b == q.stopSeen then none
      else if qcbStop b then some (s.modQueue k (fun q => { q with stopping := true, stopSeen := true }))
      else
        let q := { q with stopping := false, stopped := q.err, stopSeen := false }
        unlessHeld q.part (writeQcbFlags q b) { s with queues := KV.set s.queues k q })) s

/-- A launch that lets its queue stop: waiting, posted, or suspended with every one of its acts saved (R373); a boundary context holds no act (R380). -/
def launchStill (s : State) (lk : Nat) : Bool :=
  match (s.launch lk).st with
  | .waiting => true
  | .placing | .running | .draining => !(s.slots.any (fun e => e.2.ofLaunch lk && !e.2.boundary)) && !engineWork s lk && !messagesOut s lk
  | _ => false

/-- Event QUEUE_STOPPED. -/
def execQueueStopped (die queue : Nat) (s : State) : Out := event (fun s =>
  let k := queueKey die queue
  match KV.find? s.queues k with
  | none => none
  | some q =>
    if q.stopping && !q.stopped && q.launches.all (launchStill s) then
      let q := { q with stopped := true }
      let s := { s with queues := KV.set s.queues k q }
      match readQcb q s with
      | .ok (b, s) => unlessHeld q.part (writeQcbFlags q b) s
      | .error e => some (poisonMet q.part e s)
    else none) s

end Sys2Proof.Machine
end

