-- ==== Sys2Proof/Machine/Boot.lean ====
section
/-! DEFINITION. Reliability, staged start and attestation (R429 to R443): device reset, the monitor's start, the management mailbox, telemetry,
throttling, fatal errors, links and the scrub. -/

namespace Sys2Proof.Machine

/-! ### Device reset and stage S0 (R434 to R437) -/

/-- Bytes of the header of a monitor image, and the longest image. -/
def monitorHeader : Nat := 7424
def slotBytes : Nat := 2 ^ 24

/-- The image at the start of a monitor slot, when its header is good (R435). -/
def imageOf (b : List Byte) : Option (List Byte) :=
  let n := fieldAt b 4 4
  if fieldAt b 0 4 == 0x4E4F4D4C && decide (1 ≤ n) && decide (n ≤ 16000000) && zeroAt b 7235 189 && decide (monitorHeader + n ≤ b.length) then
    some (b.take (monitorHeader + n))
  else none

/-- The image of a slot that verifies (R435, R436). -/
def verifiedImage (b : List Byte) : Option (List Byte) :=
  match imageOf b with
  | none => none
  | some i =>
    let pub := (i.drop 16).take 2592
    let digest := Config.sha3_512 (i.take 16 ++ i.drop monitorHeader)
    if Config.sha3_512 pub == Config.vendorRoot && Config.mldsaVerify pub digest ((i.drop 2608).take 4627) then some i else none

/-- The first slot that passes. -/
def bootImage (b : Board) : Option (List Byte) :=
  match verifiedImage b.flashA with | some i => some i | none => verifiedImage b.flashB

/-- Seeds derived from the device secret (R437, R438). -/
def identitySeed (secret : List Byte) : List Byte := (Config.sha3_512 ([0x49, 0x44] ++ secret)).take 32
def aliasSeed (secret mondig : List Byte) : List Byte := (Config.sha3_512 ([0x41, 0x4C] ++ secret ++ mondig)).take 32

/-- The corrected-error count of a die and a SOURCE. -/
def errorCount (b : Board) (die source : Nat) : Nat := KV.get 0 b.counts (die * 16 + source)

/-- The first `n` of a list of numbers as 64-bit words. -/
def words (n : Nat) (l : List Nat) : List Byte := (List.range n).flatMap (fun k => leBytes 8 (l.getD k 0))

/-- The telemetry block from 0x000 to 0x37F, as the management controller writes it (R442). -/
def telemBlock (b : Board) : List Byte :=
  words 4 b.temps ++ words 12 b.power ++ leBytes 8 b.throttle ++ List.replicate 0x78 0 ++
  ((List.range 4).flatMap (fun d => words 9 ((List.range 9).map (errorCount b d)))) ++ List.replicate 0xE0 0 ++
  words 16 ((List.range 16).map (fun k => KV.get 0 b.counts (portCounter 0 k)))

/-- The board after stage S0: what package flash holds stays; the secret is reconstructed and the slots are verified. -/
def boardReset (b : Board) : Board :=
  let secret := if b.helper.isEmpty then none else Config.pufSecret b.helper
  { stage := .s1, flashA := b.flashA, flashB := b.flashB, blob := b.blob, helper := b.helper, cert := b.cert, romSecret := secret, identity := secret.isSome
    telem := telemBlock {}, devid := match secret with | some x => (Config.sha3_512 (Config.mldsaPublic (identitySeed x))).take 16 | none => List.replicate 16 0
    recovery := if (bootImage b).isNone then 1 else 0 }

/-- The device after a reset and stage S0. The schedule, the choices, the model's own counters, flash and the other devices stay. -/
def afterReset (s : State) : State :=
  { State.reset with agenda := s.agenda, choices := s.choices, freeCount := s.freeCount, nextId := s.nextId, peers := s.peers
                     board := boardReset s.board }

/-- Event DEVICE_RESET. -/
def execDeviceReset (s : State) : Out := boardEvent (fun s => some (afterReset s)) s

/-! ### The monitor's start (R435, R438) -/

/-- The places of the hand-off block, the telemetry block and the monitor image in the monitor reserve (R431). -/
def handoffBase : Nat := 0x1280042000
def telemBase : Nat := 0x1280041000
def monitorBase : Nat := 0x1280100000

/-- The hand-off block (R438). -/
def handoff (secret : Option (List Byte)) (mondig devid : List Byte) : List Byte :=
  let seed := match secret with | some x => aliasSeed x mondig | none => List.replicate 32 0
  let sig := match secret with
    | some x => Config.mldsaSign (identitySeed x) (Config.sha3_512 (Config.mldsaPublic seed ++ mondig ++ devid))
    | none => List.replicate 4627 0
  let pad := fun (n : Nat) (l : List Byte) => (l ++ List.replicate n 0).take n
  pad 64 seed ++ pad 4672 sig ++ pad 64 mondig

/-- The applied part of the configuration blob and its signature (R361, R436; log 43). -/
def blobOk (b : List Byte) : Bool :=
  decide (4627 ≤ b.length) &&
  Config.mldsaVerify Config.blobKey (Config.sha3_512 (b.take (b.length - 4627))) (b.drop (b.length - 4627))

/-- The slot the monitor runs in: slot 0 of control core 0 of die 0, at M (R336). -/
def monitorSlot (act : Nat) : Slot :=
  { st := .active, act := act, pc := globalBase + monitorBase + monitorHeader, feat := 7, chans := [(7, { kind := .input })], ctl := { level := 2 } }

/-- The monitor's image and the hand-off block in their places, and the secret cleared: what the ROM does before it starts the monitor (R435, R438). -/
def placeMonitor (image : List Byte) (s : State) : State :=
  let mondig := Config.sha3_512 image
  let s := homePoke s monitorBase none image
  let s := homePoke s handoffBase none (handoff s.board.romSecret mondig s.board.devid)
  s.modBoard (fun b => { b with romSecret := none, mondig := mondig, monver := fieldAt image 8 8 })

/-- The 32 clusters of a stack taken out of service (R5, R346, R435). -/
def stackOut (stack : Nat) (s : State) : State :=
  s.modDie (stack / 2) (fun d => { d with outsvc := d.outsvc ||| (if stack % 2 = 0 then 0x00000000FFFFFFFF#64 else 0xFFFFFFFF00000000#64) })

/-- The monitor running, the blob applied, and the clusters of the stacks that are absent out of service: stage S2. -/
def startMonitor (image : List Byte) (absent : List Nat) (s : State) : State :=
  let gone := absent.filter (fun k => decide (1 ≤ k) && decide (k ≤ 7))
  let s := placeMonitor image s
  let s := { s.setSlot 0x8000 (monitorSlot s.nextId) with nextId := s.nextId + 1 }
  gone.foldl (fun s k => stackOut k s) (s.modBoard (fun b => { b with
    stage := .s2, cfgdig := Config.sha3_512 b.blob, fdev := Config.blobFdev b.blob % 1024, absent := gone }))

/-- Event MONITOR_START. A monitor that finds the blob's signature invalid has been started: it leaves the device in S1, in RECOVERY (R435); it runs no
further. DEDUCED (log 119). -/
def execMonitorStart (stack0Trained : Bool) (absentStacks : List Nat) (s : State) : Out := boardEvent (fun s =>
  if s.board.stage != .s1 || s.board.recovery != 0 || s.board.fatal then none
  else if !stack0Trained then some (s.modBoard (fun b => { b with recovery := 2 }))
  else (bootImage s.board).map (fun i =>
    if blobOk s.board.blob then startMonitor i absentStacks s else (placeMonitor i s).modBoard (fun b => { b with recovery := 3 }))) s

/-! ### The management mailbox (R439 to R441) -/

/-- Statuses of an answer. -/
def mbOk : Byte := 0
def mbNotReady : Byte := 1
def mbNoId : Byte := 2
def mbBadReq : Byte := 3
def mbDenied : Byte := 4

def answered (b : List Byte) (s : State) : State := s.modBoard (fun x => { x with answer := b })

/-- The stage as reports give it. -/
def stageCode (s : State) : Nat :=
  match s.board.stage with
  | .s0 => 0
  | .s1 => 1
  | .s2 => if s.parts.any (fun (e : Nat × Part) => e.2.booted) then 3 else 2

/-- Event HEALTH. -/
def execHealth (s : State) : Out := boardEvent (fun s =>
  let b := s.board
  if b.stage == .s0 then some (answered [mbNotReady] s)
  else some (answered ([mbOk, BitVec.ofNat 8 (stageCode s), if b.recovery = 0 then 0 else 1, BitVec.ofNat 8 b.recovery, if b.fatal then 1 else 0,
    BitVec.ofNat 8 b.throttle] ++ ((List.range 4).flatMap (fun k => leBytes 2 (b.temps.getD k 0)))) s)) s

/-- Event TELEM. -/
def execTelem (s : State) : Out := boardEvent (fun s =>
  if s.board.stage == .s0 then some (answered [mbNotReady] s) else some (answered ([mbOk] ++ s.board.telem) s)) s

/-- The entry of a partition in a report: state 0 disabled, 1 enabled, 2 image booted (R439, R440). -/
def reportPart (s : State) (n : Nat) : List Byte :=
  let e := s.part n
  [BitVec.ofNat 8 n, if !e.en then 0 else if e.image = 2 then 2 else 1] ++ List.replicate 6 0 ++
  (if e.booted then (e.imageDigest ++ List.replicate 64 0).take 64 else List.replicate 64 0)

/-- A report without its signature: 8,640 bytes (R439). -/
def reportBody (s : State) (nonce : List Byte) : List Byte :=
  let b := s.board
  [0x41, 0x54, 0x54, 0x52] ++ leBytes 2 1 ++ leBytes 1 (stageCode s) ++ [0] ++ nonce ++ Config.ofLength 16 b.devid ++ leBytes 2 b.fdev ++
  List.replicate 6 0 ++ Config.ofLength 64 b.mondig ++ leBytes 8 b.monver ++ Config.ofLength 64 b.cfgdig ++ ((List.range 4).flatMap (fun d => bytesOfWord (s.die d).outsvc)) ++ ((List.range 16).flatMap (reportPart s)) ++
  Config.mldsaPublic (homeRead s handoffBase 32 none) ++ homeRead s (handoffBase + 64) 4627 none ++ List.replicate 5 0

/-- Event ATTEST: the monitor signs the report with the alias key. -/
def execAttest (nonce : List Byte) (s : State) : Out := boardEvent (fun s =>
  if s.board.stage != .s2 || s.board.fatal then some (answered [mbNotReady] s)
  else if nonce.length != 64 then some (answered [mbBadReq] s)
  else if !s.board.identity then some (answered [mbNoId] s)
  else
    let r := reportBody s nonce
    let sig := Config.mldsaSign (homeRead s handoffBase 32 none) (Config.sha3_512 r)
    some ((answered ([mbOk] ++ r ++ sig) s).modBoard (fun b => { b with mailbox := true }))) s

/-- Event RECOVER. -/
def execRecover (image : List Byte) (s : State) : Out := boardEvent (fun s =>
  if s.board.recovery = 0 || s.board.stage != .s1 then some (answered [mbDenied] s)
  else if slotBytes < image.length then some (answered [mbBadReq] s)
  else some (answered [mbOk] (afterReset (s.modBoard (fun b => { b with flashB := image }))))) s

/-! ### Telemetry and throttling (R442, R443) -/

/-- Cycles between rewrites of the telemetry block. -/
def telemCycles : Nat := 2 ^ 21

/-- The throttle level the controller chooses: what power needs, at least 4 from 95 °C, 7 from 105 °C or with the power brake (R443). -/
def throttleLevel (need : Nat) (brake : Bool) (temps : List Nat) : Nat :=
  let hot := fun (c : Nat) => temps.any (fun t => decide (16 * c ≤ t))
  if brake || hot 105 then 7 else
    let n := if need < 7 then need else 7
    if hot 95 && decide (n < 4) then 4 else n

/-- The board with its level chosen anew, from what power needs, the brake and the temperatures (R443). -/
def Board.paced (b : Board) : Board := { b with throttle := throttleLevel b.need b.powerBrake b.temps }

/-- Event THROTTLE_UPDATE. -/
def execThrottleUpdate (need : Nat) (brake : Bool) (s : State) : Out := boardEvent (fun s =>
  if s.board.stage == .s0 then none
  else some (s.modBoard (fun b => { b with need := need, powerBrake := brake }.paced))) s

/-- Event POWER_BRAKE. -/
def execPowerBrake (s : State) : Out := boardEvent (fun s =>
  if s.board.stage == .s0 then none else some (s.modBoard (fun b => { b with throttle := 7, powerBrake := true }))) s

/-! ### Fatal errors (R433) -/

/-- Whether the ring control can be written: HBM is trained and its bytes are not poisoned. -/
def ringIntact (s : State) : Bool := s.board.stage == .s2 && (poisonIn s ringControl 64).isNone

/-- The device after the fatal error that a record names: every core and engine stops, launches end with no status posted, and FAULT is driven. -/
def fatalWith (r : McRecord) (s : State) : State :=
  let s := if ringIntact s then machineCheck s r else s
  let s := s.launches.foldl (fun s (e : Nat × Launch) => stopLaunch e.1 (s.modLaunch e.1 (fun x => { x with st := .ended }))) s
  { s with launches := [], queues := s.queues.map (fun (e : Nat × Queue) => (e.1, { e.2 with launches := [] }))
           board := { s.board with fatal := true, faultPin := true, hostFatal := true } }

/-- A fatal error of a SOURCE in a unit of a die. -/
def fatal (source die unit : Nat) (s : State) : State := fatalWith { source := source, sev := 3, die := die, unit := unit, part := 0xFF } s

/-- Event FATAL_ERROR. -/
def execFatalError (source die unit : Nat) (s : State) : Out := boardEvent (fun s =>
  if s.board.fatal || s.board.stage == .s0 then none else some (fatal source die unit s)) s

/-- 115 °C in units of 1/16 °C. -/
def tripTemp : Nat := 16 * 115

/-- The first die that has reached 115 °C. -/
def hotDie (b : Board) : Option Nat := (List.range 4).find? (fun k => decide (tripTemp ≤ b.temps.getD k 0))

/-- A die at 115 °C: the fatal path, unless the device has taken it before, and THERMTRIP (R443). -/
def thermalTrip (die : Nat) (s : State) : State :=
  (if s.board.fatal then s else fatal 9 die 0 s).modBoard (fun b => { b with thermtrip := true })

/-- Event THERMAL_TRIP: a die reaches 115 °C, between two intervals of the telemetry: that is its temperature from now on. -/
def execThermalTrip (die : Nat) (s : State) : Out := boardEvent (fun s =>
  if s.board.stage == .s0 || decide (4 ≤ die) then none
  else some (thermalTrip die (s.modBoard (fun b => { b with temps := b.temps.set die (max tripTemp (b.temps.getD die 0)) }.paced)))) s

/-- Event TELEMETRY_UPDATE: the controller measures, chooses the throttle level by what it finds, and rewrites the block: its own copy, and in stage S2 the one in
HBM, where counts that crossed before the ring was open get their record. After a fatal error only its own copy is kept up (R433). A die at 115 °C trips (R443). -/
def execTelemetryUpdate (temps dieMw stackMw : List Nat) (s : State) : Out := boardEvent (fun s =>
  if s.board.stage == .s0 || s.cycle < s.board.telemNext then none
  else
    let s := s.modBoard (fun b => { b with temps := (List.range 4).map (fun k => temps.getD k 0)
                                           power := (List.range 4).map (fun k => dieMw.getD k 0) ++ (List.range 8).map (fun k => stackMw.getD k 0) }.paced)
    let s := s.modBoard (fun b => { b with telem := telemBlock b, telemNext := s.cycle + telemCycles })
    let s := if s.board.stage == .s2 && !s.board.fatal then (s.board.counts.map Prod.fst).foldl countRecord (homeStore none { loc := telemBase } s.board.telem s) else s
    some (match hotDie s.board with | some d => thermalTrip d s | none => s)) s

/-! ### Uncorrectable errors (R429; log 84) -/

/-- The bytes whose uncorrectable error is fatal: the ring control and the boot hand-off block (R433). -/
def vitalLine (loc : Nat) : Bool := loc / 64 == ringControl / 64 || (decide (handoffBase ≤ loc) && decide (loc < handoffBase + 8192))

/-- What an uncorrectable error poisons (R429): the granule of a scratchpad; else the whole line, be it in HBM, in an L2 or in an L1. -/
def errorGranules (loc : Nat) : List Nat := if isSpad loc then [loc / 16] else granules (loc / 64 * 64) 64

/-- An uncorrectable error in a 64-bit word of a core's tiles. R429 has it end the consuming act's launch with DATA-INTEGRITY, and R248 has the read raise POISON as
one of the scratchpad does: which of the two it is comes with the error (log 84). -/
def tileError (loc : Nat) (poison : Bool) (s : State) : State :=
  { s.modCore (tileCore loc) (fun c => { c with mx := { c.mx with errs := KV.set c.mx.errs (tileWord loc) poison } }) with
    poisonSeen := s.poisonSeen.filter (· != loc / 64) }

/-- An uncorrectable error in memory, in the structure that `source` names as R432 numbers them: what it hits is poisoned; in the ring control or the
hand-off block of a running device the error is fatal (R429, R433). -/
def memoryError (loc source : Nat) (s : State) : State :=
  if tileBase ≤ loc then tileError loc (source != 4) s else
  let s := { s with
    poison := (errorGranules loc).foldl (fun q g => KV.set q g true) s.poison
    poisonSeen := s.poisonSeen.filter (· != loc / 64)
    poisonFrom := if !isSpad loc && (source == 1 || source == 3) then KV.set s.poisonFrom (loc / 64) source else KV.erase s.poisonFrom (loc / 64) }
  if vitalLine loc && s.board.stage == .s2 && !s.board.fatal then
    fatalWith { source := poisonSource s loc, sev := 3, part := 0xFF, pa := loc / 64 * 64, die := homeDie loc, unit := poisonUnit s loc 0 } { s with poisonSeen := loc / 64 :: s.poisonSeen }
  else s

/-- An uncorrectable error in a register, channel or stream register that an ACTIVE slot consumes: DATA-INTEGRITY and a machine check; fatal in a control-core
slot at M (R433). -/
def registerError (p : Nat) (s : State) : State :=
  let t := s.slot p
  if t.st != .active || s.board.fatal then s
  else if isCtl p && t.ctl.level == 2 then fatalWith { source := 4, sev := 3, die := dieOf p, part := 0xFF, pslot := p, unit := p / 16 % 2 ^ 9 } s
  else
    let l := s.launch (t.launch.getD 0)
    let s := machineCheck { s with freeCount := s.freeCount + 1 }
      { source := 4, sev := 2, die := dieOf p, part := if isCtl p then t.ctl.pid else l.part, launch := if isCtl p then 0 else l.lid, pslot := p
        unit := p / 16 % 2 ^ 9, synd := (Config.syndrome s.freeCount).toNat }
    raiseFault p Cause.dataIntegrity 0 none s

/-- An uncorrectable error in a Gauntlet entry: the entry becomes empty, and a machine check. -/
def keyError (k : Nat) (s : State) : State :=
  match KV.find? s.keys k with
  | none => s
  | some x =>
    machineCheck { s with keys := KV.erase s.keys k, freeCount := s.freeCount + 1 }
      { source := 6, sev := Config.keyErrorSev s.freeCount, part := x.part, pa := Config.keyEntryAddress k
        synd := (Config.syndrome s.freeCount).toNat }

/-! ### Links (R413, R429) -/

/-- The links of the device: bits [9:8] of a link's number are its die; of each die the scale-up links 0 to 5, 24 in all (R5), and, with bit 7 set, the
link to another die. DESIGN CHOICE (log 100). -/
def linkExists (link : Nat) : Bool :=
  decide (link < 1024) && (if testBit link 7 then decide (link % 128 < 4) && link % 128 != link / 256 else decide (link % 256 < 6))

/-- A link that is down: its traffic has moved to the other links; a record with SOURCE 8 names it (R429, R432). Its SEV is 0, since the traffic moved and nothing was
lost. DEDUCED (log 120). -/
def linkFails (link : Nat) (s : State) : State :=
  let s := s.modBoard (fun b => { b with linksDown := link :: b.linksDown })
  if s.board.stage == .s2 then machineCheck s { source := 8, sev := 0, die := link / 256 % 4, part := 0xFF, unit := link % 256 } else s

/-- Event LINK_FLIT_ERROR: a retry is counted as a corrected error of SOURCE 8 (bits [9:8] of a link's number are its die). -/
def execLinkFlitError (link : Nat) (uncorrectable : Bool) (s : State) : Out := boardEvent (fun s =>
  if !linkExists link || s.board.linksDown.contains link then none
  else if uncorrectable then some (linkFails link s)
  else some (countError (link / 256 % 4) 8 (s.modBoard (fun b => { b with linkRetries := KV.modify 0 b.linkRetries link (· + 1) })))) s

/-- Event LINK_DOWN. -/
def execLinkDown (link : Nat) (s : State) : Out := boardEvent (fun s =>
  if !linkExists link || s.board.linksDown.contains link then none else some (linkFails link s)) s

/-! ### The scrub (R432) -/

/-- Event SCRUB: a poisoned line that no record has named yet gets one with SEV 1. -/
def execScrub (pa : Nat) (s : State) : Out := event (fun s =>
  if s.board.stage == .s2 && populated s pa && (poisonIn s (pa / 64 * 64) 64).isSome && !s.poisonSeen.contains (pa / 64) then some (foundPoison pa s)
  else none) s

end Sys2Proof.Machine
end

