-- ==== Sys2Proof/Machine/Cells.lean ====
section
/-! DEFINITION. Cells, waves, views and edits: the Carousel of each die, the eight cell instructions, and the commit point of regions
(R219 to R246, R283). -/

namespace Sys2Proof.Machine

/-! ### Tables, handles, versions (R219 to R222) -/

def Table.cell (t : Table) (i : Nat) : CellD := t.cells.getD i {}
def Table.setCell (t : Table) (i : Nat) (c : CellD) : Table := { t with cells := t.cells.set i c }
def Table.modCell (t : Table) (i : Nat) (f : CellD → CellD) : Table := t.setCell i (f (t.cell i))

/-- The handle of a cell: the address of its descriptor. -/
def Table.handle (t : Table) (i : Nat) : Nat := t.base + 128 + 128 * i

/-- The table and index a handle names in a partition. -/
def cellOf (s : State) (part h : Nat) : Option (Nat × Nat) :=
  (List.find? (fun (e : Nat × Table) => e.2.part == part && decide (e.2.base + 128 ≤ h) && (h - e.2.base) % 128 == 0 &&
    decide ((h - e.2.base) / 128 - 1 < e.2.cells.length)) s.tables).map (fun e => (e.1, (h - e.2.base) / 128 - 1))

/-- The newest committed version of a cell: its wave and bytes. -/
def CellD.newest (c : CellD) : Nat × List Byte :=
  match c.wb with
  | some b => if c.wa < b then (b, c.bufB) else (c.wa, c.bufA)
  | none => (c.wa, c.bufA)

/-- The version that a view of generation `g` sees (R234). -/
def CellD.at_ (c : CellD) (g : Nat) : Nat × List Byte :=
  match c.wb with
  | some b =>
    if b ≤ g ∧ (c.wa < b ∨ g < c.wa) then (b, c.bufB) else (c.wa, c.bufA)
  | none => (c.wa, c.bufA)

/-- A version enters a cell at publication (R226). -/
def CellD.publish (n : Nat) (c : CellD) : CellD :=
  let c := match c.wb with
    | none => { c with bufB := c.pend, wb := some n }
    | some b => if c.wa < b then { c with bufA := c.pend, wa := n } else { c with bufB := c.pend, wb := some n }
  { c with failed := false, hold := .free, stale := c.stale && c.lastw != n }

/-- FLAGS bits [5:0] (R221). -/
def CellD.flags (c : CellD) : Nat :=
  flagsByte c

/-! ### Precedents, rings and ranks (R223, R231, R232) -/

/-- The numbers reached breadth first by `next` from a queue, in order; `fuel` bounds the cells visited. -/
def walkFrom (next : Nat → List Nat) : Nat → List Nat → List Nat → List Nat
  | 0, _, seen => seen
  | _ + 1, [], seen => seen
  | n + 1, c :: q, seen =>
    let new := ((next c).filter (fun x => !seen.contains x)).eraseDups
    walkFrom next n (q ++ new) (seen ++ new)

/-- The closure of a stored cell: itself and every dependant, breadth first (R224). -/
def closureOf (cells : List CellD) (i : Nat) : List Nat := walkFrom (fun c => (cells.getD c {}).dep) (cells.length + 1) [i] [i]

/-- Whether a cell is reached from itself through precedents that satisfy `ok`. -/
def onCycle (cells : List CellD) (ok : Nat → Bool) (i : Nat) : Bool :=
  ok i && (let first := ((cells.getD i {}).prec.filter ok).eraseDups
           (walkFrom (fun c => (cells.getD c {}).prec.filter ok) (cells.length + 1) first first).contains i)

/-- The cells from which a cell computes, directly or not. -/
def ancestors (cells : List CellD) (i : Nat) : List Nat :=
  let first := (cells.getD i {}).prec.eraseDups
  walkFrom (fun c => (cells.getD c {}).prec) (cells.length + 1) first first

/-- The ring a cell belongs to, ascending; empty for a cell outside any ring (R223). -/
def ringOf (cells : List CellD) (i : Nat) : List Nat :=
  let a := ancestors cells i
  if a.contains i then (List.range cells.length).filter (fun j => a.contains j && (ancestors cells j).contains i) else []

/-- The rounds of a ring: the largest ROUNDS among its iterative members (R231). -/
def ringRounds (cells : List CellD) (ring : List Nat) : Nat :=
  ring.foldl (fun n j => let c := cells.getD j {}; if c.iter && decide (n < c.rounds) then c.rounds else n) 1

/-- One pass of the rank rule over all cells. -/
def rankPass (cells : List CellD) (rings : List (List Nat)) (ranks : List Nat) : List Nat :=
  (List.range cells.length).map (fun i =>
    let ring := rings.getD i []
    let members := if ring.isEmpty then [i] else ring
    let precs := members.flatMap (fun j => (cells.getD j {}).prec)
    if (cells.getD i {}).form then
      1 + (precs.filter (fun j => !ring.contains j)).foldl (fun m j => if m < ranks.getD j 0 then ranks.getD j 0 else m) 0
    else 0)

/-- The ranks of a table: as many passes as it has cells reach every chain. -/
def ranksOf (cells : List CellD) : List Nat :=
  let rings := (List.range cells.length).map (ringOf cells)
  (List.range cells.length).foldl (fun r _ => rankPass cells rings r) (List.replicate cells.length 0)

def rerank (cells : List CellD) : List CellD :=
  let r := ranksOf cells
  cells.mapIdx (fun i c => { c with rank := r.getD i 0 })

/-! ### Edits (R232, R233) -/

/-- A formula record: handler, precedents, ITER and ROUNDS. -/
abbrev FRecord := Nat × List Nat × Bool × Nat

/-- A cell taken out of its precedents' dependant lists, and put at the end of those of new ones, be they old ones too. DESIGN CHOICE (log 141). -/
def relink (cells : List CellD) (i : Nat) (new : List Nat) : List CellD :=
  cells.mapIdx (fun j c =>
    let d := if (cells.getD i {}).prec.contains j then c.dep.filter (· != i) else c.dep
    { c with dep := if new.contains j then d ++ [i] else d })

/-- The cells after an edit takes effect, ranks recomputed. -/
def editCells (cells : List CellD) (i : Nat) (r : Option FRecord) : List CellD :=
  let new := match r with | some (_, p, _, _) => p | none => []
  let cells := relink cells i new
  rerank (cells.mapIdx (fun j c =>
    if j != i then c
    else match r with
      | some (h, p, it, n) => { c with form := true, handler := h, prec := p, iter := it, rounds := n }
      | none => { c with form := false, handler := 0xFFFF, prec := [], iter := false, rounds := 0 }))

/-- The cells as they will stand once every queued edit has taken effect. -/
def futureCells (t : Table) : List CellD := t.edits.foldl (fun c e => editCells c e.cell e.record) t.cells

/-- The status of a binding against the cells it will meet: HANDLER, CYCLE, RANK, DEPS, or OK (R243). -/
def bindStatus (cells : List CellD) (handlers i : Nat) (r : FRecord) : Nat :=
  let after := editCells cells i (some r)
  let free := fun (j : Nat) => !(after.getD j {}).iter
  if handlers ≤ r.1 then 3
  else if (List.range after.length).any (onCycle after free) then 6
  else if after.any (fun c => decide (65535 < c.rank)) then 7
  else if r.2.1.any (fun j => decide (65535 < (after.getD j {}).dep.length)) then 8
  else 0

/-- Whether an uncommitted wave contains a cell in its closure. -/
def Table.inWave (t : Table) (i : Nat) : Bool := t.waves.any (fun w => !w.failed && w.closure.contains i)
/-- A table can accept a further wave (R225). -/
def Table.waveRoom (t : Table) : Bool := decide (t.unpublished < 64)
def Table.flagEdits (t : Table) : Table :=
  { t with cells := t.cells.mapIdx (fun i c => { c with editq := t.edits.any (fun e => e.cell == i) }) }

/-! ### Waves (R224 to R227) -/

/-- Edits a table holds queued. -/
def maxEdits : Nat := 64

/-- The walk of a wave reaches a cell: STALE is set, and LASTW where the wave is the newest that has reached it (R221, R224). -/
def CellD.reached (n : Nat) (c : CellD) : CellD :=
  { c with stale := true, lastw := if c.lastw < n then n else c.lastw, lost := c.lost && !decide (c.lastw < n) }

/-- The cells that the walks of a table's waves have still to reach. -/
def Wave.unmarked (w : Wave) : Nat := if w.failed then 0 else w.closure.length - w.marked
def Table.unmarked (t : Table) : Nat := t.waves.foldl (fun n w => n + w.unmarked) 0

/-- Cycles from a wave's acceptance to the first mark of its walk, where no move delays it: those of the run of R325. DESIGN CHOICE (log 125). -/
def walkDelay : Nat := 2

/-- A formula cell of a wave as the wave finds it: it completes under the rank, the ring and the rounds of its acceptance, whatever an edit of another cell
does meanwhile (R231, R233). DEDUCED (log 134). -/
def FAct.of (cells : List CellD) (i : Nat) : FAct :=
  let ring := ringOf cells i
  { cell := i, rank := (cells.getD i {}).rank, ring := ring, rounds := ringRounds cells ring }

/-- A wave accepted (R224, step 1): its number, the marks of its cell, the pending buffer of that cell, and the order in which its walk goes through its
closure; `fill` places the newest committed version in the buffer (R229). The buffer of a bound cell is held from the start of its act. DESIGN CHOICE (log 140). -/
def Table.startWave (t : Table) (i : Nat) (org : Origin) (fill : Bool) : Table :=
  let n := t.started + 1
  let closure := closureOf t.cells i
  let runs := closure.filter (fun j => (t.cell j).form)
  let staged := match (t.cell i).hold with | .stager k _ => some k | _ => none
  let t := { t with
    started := n, pause := if t.unmarked = 0 then walkDelay else t.pause
    cells := t.cells.mapIdx (fun j c => if j == i then c.reached n else c)
    waves := t.waves ++ [{ num := n, launch := org.launch, org := org, src := i, closure := closure, acts := runs.map (FAct.of t.cells) }] }
  if runs.contains i then t
  else
    { t with stagers := match staged with | some k => KV.erase t.stagers k | none => t.stagers }.modCell i (fun c => { c with
      pend := if fill then c.newest.2 else c.pend, hold := .wave n, staged := false })

/-- The walk marks one dependant (R224, step 2): the next of the oldest wave whose walk has not ended. -/
def Table.markNext (t : Table) : Table :=
  match t.waves.find? (fun w => decide (0 < w.unmarked)) with
  | none => t
  | some w => { t.modCell (w.closure.getD w.marked 0) (CellD.reached w.num) with
      waves := t.waves.map (fun x => if x.num == w.num then { x with marked := x.marked + 1 } else x) }

/-- A cycle of a table's walks. -/
def Table.walkCycle (t : Table) : Table := if t.pause = 0 then t.markNext else { t with pause := t.pause - 1 }

/-- `n` cycles of every table's walks. -/
def walkTables (n : Nat) (s : State) : State :=
  if s.tables.any (fun (e : Nat × Table) => decide (0 < e.2.unmarked)) then
    { s with tables := s.tables.map (fun (e : Nat × Table) =>
      (e.1, if e.2.unmarked = 0 then e.2 else (List.range (min n (e.2.pause + e.2.unmarked))).foldl (fun t _ => t.walkCycle) e.2)) }
  else s

/-- A `cfence` that waits for a wave learns how it ended (R237). -/
def Slot.sawWave (tab n : Nat) (failed : Bool) (t : Slot) : Slot := if t.wait == .wave tab n then { t with wait := .waveDone failed } else t

/-- COMMITTED becomes the head wave's number, and it leaves the table. -/
def retireWave (tab : Nat) (s : State) : State :=
  match (s.table tab).waves with
  | w :: r =>
    let s := s.modTable tab (fun t => { t with committed := w.num, waves := r })
    { s with slots := s.slots.map (fun (e : Nat × Slot) => (e.1, e.2.sawWave tab w.num w.failed)) }
  | [] => s

/-- Failed waves at the head are passed in wave order (R227). -/
def retireFailed (tab : Nat) : Nat → State → State
  | 0, s => s
  | n + 1, s =>
    match (s.table tab).waves with
    | w :: _ => if w.failed then retireFailed tab n (retireWave tab s) else s
    | [] => s

/-- A wave fails: its pending buffers are released uncopied, FAILED is set, its regions end with it (R227). -/
def failWave (tab : Nat) (w : Wave) (s : State) : State :=
  let s := s.modTable tab (fun t => { t with
    waves := t.waves.map (fun x => if x.num == w.num then { x with failed := true } else x)
    cells := t.cells.mapIdx (fun i c => if (w.closure.take w.marked).contains i then
      { c with hold := if c.hold == .wave w.num then .free else c.hold, failed := true, lost := c.lost || c.lastw == w.num
               stale := c.stale && c.lastw != w.num } else c) })
  retireFailed tab ((s.table tab).waves.length + 1) s

/-- Event WAVE_FAIL: its launch has faulted or ended. -/
def execWaveFail (table wave : Nat) (s : State) : Out := event (fun s =>
  match (s.table table).waves.find? (fun w => w.num == wave) with
  | some w => if !w.failed && launchEnding s w.launch then some (failWave table w s) else none
  | none => none) s

/-- Whether a formula cell of a wave has run its last round and committed. -/
def FAct.final (a : FAct) : Bool := a.st == .committed && a.round == a.rounds

/-- The views that pin a version the wave's publication would discard (R234, R235). -/
def pins (t : Table) (w : Wave) : List View :=
  t.views.filter (fun v => w.closure.any (fun i =>
    let c := t.cell i
    match c.wb with
    | some b => (c.at_ v.gen).1 == (if c.wa < b then c.wa else b)
    | none => false))

/-- The address of the buffer that a publication writes. -/
def CellD.target (c : CellD) : Nat :=
  match c.wb with
  | none => c.vb
  | some b => if c.wa < b then c.va else c.vb

/-- Event WAVE_PUBLISH: one instant for the whole closure; a publication that would discard a pinned version waits (R226, R235). Its writes are
engine accesses (R377). -/
def execWavePublish (table : Nat) (s : State) : Out := event (fun s =>
  let t := s.table table
  match t.waves with
  | [] => none
  | w :: _ =>
    if w.failed || s.board.fatal || launchEnding s w.launch || decide (0 < w.unmarked) || !w.acts.all FAct.final then none
    else if !(pins t w).isEmpty then
      if w.waitSince.isSome then none
      else some (s.modTable table (fun t => { t with waves := t.waves.map (fun x =>
        if x.num == w.num then { x with waitSince := some s.cycle } else x) }))
    else engineRun w.org s (do
      w.closure.forM (fun i => do
        let s ← Act.look id
        let _ ← resolve (whoPart s t.part) .engine Need.write (t.cell i).target 16 true)
      Act.upd (fun s => s.modTable table (fun t => { t with
        cells := t.cells.mapIdx (fun i c => if w.closure.contains i then c.publish w.num else c) }))
      Act.upd (fun s => retireFailed table ((s.table table).waves.length + 1) (retireWave table s)))) s

/-- The first queued edit takes effect (R233), when no wave holds its cell. One that can no longer take effect is dropped. -/
def takeEdit (table : Nat) (s : State) : Option State :=
  let t := s.table table
  match t.edits with
  | [] => none
  | e :: r =>
    if t.inWave e.cell || !t.waveRoom then none
    else
      let handlers := (s.obj (objKey t.part t.obj)).handlers.length
      let holds := match e.record with
        | some rec_ => bindStatus t.cells handlers e.cell rec_ == 0
        | none => (t.cell e.cell).form
      let t := { t with edits := r }.flagEdits
      if holds then some (s.modTable table (fun _ => { t with cells := editCells t.cells e.cell e.record }.startWave e.cell e.org true))
      else some (s.modTable table (fun _ => t))

/-- Event EDIT_TAKE_EFFECT. -/
def execEditTakeEffect (table : Nat) (s : State) : Out := event (takeEdit table) s

/-- The queued edits of a table that can take effect do so in the instant in which the last wave that holds their cell has ended (R233). DEDUCED
(log 101). -/
def takeEdits (table : Nat) : Nat → State → State
  | 0, s => s
  | n + 1, s => match takeEdit table s with | some s' => takeEdits table n s' | none => s

/-- What follows at once in the tables: queued edits take effect, and a cycle of the walks passes. -/
def settleTables (s : State) : State :=
  walkTables 1 (s.tables.foldl (fun s (e : Nat × Table) => if e.2.edits.isEmpty then s else takeEdits e.1 e.2.edits.length s) s)

/-- The PSLOT of the act that holds a view, or from which its context was saved. -/
def viewPlace (s : State) (v : View) : Nat :=
  match List.find? (fun (e : Nat × Slot) => e.2.act == v.act && e.2.st != .free) s.slots with
  | some e => e.1
  | none => ((s.saved.find? (fun x => x.act == v.act)).map (fun x => x.pslot)).getD 0

/-- The act of a revoked view faults. -/
def revokeView (v : View) (s : State) : State :=
  match List.find? (fun (e : Nat × Slot) => e.2.act == v.act && e.2.st != .free) s.slots with
  | some e => raiseFault e.1 Cause.viewTimeout v.handle none s
  | none =>
    match s.saved.find? (fun x => x.act == v.act) with
    | some x => launchFault x.launch { cause := Cause.viewTimeout, detail := v.handle, where_ := x.pslot, ginst := (s.ginst x.ginst).num } s
    | none => s

/-- Event VIEW_WATCHDOG (R236): every pinning view is revoked, and its act faults; the acts in ascending die, core and slot (R28). -/
def execViewWatchdog (table : Nat) (s : State) : Out := event (fun s =>
  let t := s.table table
  match t.waves with
  | [] => none
  | w :: _ =>
    match w.waitSince with
    | none => none
    | some c =>
      let ps := pins t w
      if ps.isEmpty || decide (s.cycle - c < t.vwlim) then none
      else
        let s := (byNumber (ps.map (fun v => (viewPlace s v, v)))).foldl (fun s v => revokeView v.2 s) s
        some (s.modTable table (fun t => { t with views := t.views.filter (fun v => !ps.contains v) }))) s

/-! ### Formula acts (R228 to R231) -/

/-- Rounds of a formula cell completed. -/
def FAct.done (a : FAct) : Nat := if a.st == .committed then a.round else a.round - 1

/-- A ring's members run one at a time in ascending index, round by round (R231). -/
def ringTurn (w : Wave) (ring : List Nat) (cell round : Nat) : Bool :=
  ring.all (fun j => j == cell || (match w.acts.find? (fun a => a.cell == j) with
    | some a => decide ((if j < cell then round else round - 1) ≤ a.done)
    | none => true))

/-- Whether a core can hold the named regions of a formula act of a table (R12, R228). -/
def formulaFits (s : State) (t : Table) (lk core : Nat) : Bool := coreFits s core (s.launch lk).l1 (s.obj (objKey t.part t.obj)).regions

/-- The core where a formula act is placed: data-affine to VP, or, where VP's domain has no cluster of the partition, by rotation at the Ringmaster of the
launch's queue, which passes over cores that cannot hold its regions (R228, R366, R368); and whether VP chose it. -/
def formulaCore (s : State) (t : Table) (lk pa : Nat) : Option (Nat × Bool) :=
  match unitByPhys s t.part 0 pa with
  | some c => if formulaFits s t lk c then some (c, true) else none
  | none => (unitInTurn s (s.launch lk).die t.part 0 ((unitsOf s t.part 0).filter (formulaFits s t lk))).map (fun c => (c, false))

/-- A formula cell of a wave. -/
def Wave.act (w : Wave) (cell : Nat) : FAct := (w.acts.find? (fun a => a.cell == cell)).getD { cell := cell }

/-- The order key of a formula cell in a wave (R224, step 4). -/
def Wave.key (w : Wave) (cell : Nat) : Nat := w.num * 2 ^ 16 + (w.act cell).rank

/-- The start message of a formula act. -/
def formulaItem (s : State) (tab : Nat) (w : Wave) (cell round g core act : Nat) (affine : Bool) : NetItem :=
  let t := s.table tab
  let c := t.cell cell
  { kind := .start, src := ringSrc + t.home, launch := w.launch, ginst := g, dst := core, vcore := 0, prio := (s.launch w.launch).prio
    handler := c.handler, act := act, isMessage := true, affine := affine, formula := some { table := tab, cell := cell, wave := w.num, round := round }
    regs := [BitVec.ofNat 64 (t.handle cell), BitVec.ofNat 64 (w.key cell), BitVec.ofNat 64 round, BitVec.ofNat 64 c.prec.length,
             BitVec.ofNat 64 c.vp, 0, 0] }

/-- A formula cell of a wave marked as running, its pending buffer holding the newest committed version (R229). -/
def Table.runCell (t : Table) (wave cell round act rs : Nat) : Table :=
  let t := t.modCell cell (fun c => { c with pend := c.newest.2, hold := .wave wave })
  { t with waves := t.waves.map (fun w => if w.num == wave then { w with acts := w.acts.map (fun a =>
      if a.cell == cell then { a with st := .running act rs, round := round } else a) } else w) }

/-- The Carousel sends a formula act on its way: its group copy, its regions, its message; `rs` is its open region. -/
def sendFormula (tab : Nat) (w : Wave) (cell round core : Nat) (affine : Bool) (rs : Nat) (s : State) : State :=
  let t := s.table tab
  let act := s.nextId
  let g := s.nextId + 1
  let regions := (s.obj (objKey t.part t.obj)).regions
  let s := { s with
    nextId := s.nextId + 2
    ginsts := KV.set s.ginsts g { launch := w.launch, num := 0, tier := 0, cores := [(0, core)], ncores := 1, regions := regions, formula := true } }
  let s := initRegions g [(0, core)] regions s
  let s := s.modRslot rs (fun r => { r with act := act })
  let s := s.modTable tab (fun t => t.runCell w.num cell round act rs)
  let s := if affine then s else turnPassed (s.launch w.launch).die t.part 0 core s
  netPush (formulaItem s tab w cell round g core act affine) s

/-- TIE of a formula region: the slot id, or the ring's sequence number (R274, R231). Where that place is not after FRONTIER or another live region has it, TIE is the
lowest number that gives a free place after FRONTIER (R284); where 16 bits hold none, the highest that gives a free place. DESIGN CHOICE (log 126). -/
def tieFor (s : State) (d key base : Nat) : Nat :=
  let f := frontierOf s d
  let open_ := fun (k : Nat) => decide (k < 65536) && (domainRegions s d).all (fun e => e.2.place != (key, k))
  let ok := fun (k : Nat) => open_ k && placeLt f (key, k)
  let near := List.range (s.rslots.length + 1)
  match (base :: near.map (fun k => (if f.1 = key then f.2 + 1 else 0) + k)).find? ok with
  | some k => k
  | none => ((near.map (fun k => 65535 - k)).find? open_).getD 65535

/-- The free slot in which the Carousel opens a formula region: one whose id comes after FRONTIER while there is one (R284); which of those, the device chooses (R274). -/
def slotsAfter (s : State) (d key : Nat) (free : List Nat) : List Nat :=
  let l := free.filter (fun rs => placeLt (frontierOf s d) (key, rs))
  if l.isEmpty then free else l

/-- A formula act's region opened, or opened again after an abort. -/
def openFormula (tab : Nat) (w : Wave) (cell round rs : Nat) (s : State) : State :=
  let t := s.table tab
  let ring := (w.act cell).ring
  let base := if ring.isEmpty then rs else (round - 1) * ring.length + ring.idxOf cell
  s.modRslot rs (fun r => { r with
    st := .open_, domain := tableDomain tab, key := w.key cell, tie := tieFor s (tableDomain tab) (w.key cell) base, gen := (r.gen + 1) % 2 ^ 32
    pred := [], depth := 0, filter := 0, cause := 0, restarts := 0, part := t.part, launch := w.launch, callDepth := 0 })
def reopenFormula (rs : Nat) (s : State) : State :=
  s.modRslot rs (fun r => { r with st := .open_, depth := 0, restarts := if r.restarts < 255 then r.restarts + 1 else 255 })

/-- A formula act that must begin again where it stands (R228): its slot takes the state of R10 afresh, and its view is closed. DESIGN CHOICE (log 142). -/
def restartFormula (tab : Nat) (w : Wave) (cell round rs p : Nat) (s : State) : State :=
  let t := s.slot p
  let act := s.nextId
  let s := { s with nextId := act + 1 }
  let s := closeView p (unbindAll p (withdrawPosts p s))
  let s := reopenFormula rs (s.modRslot rs (fun r => { r with act := act }))
  let s := s.modTable tab (fun t => t.runCell w.num cell round act rs)
  let i := formulaItem s tab w cell round t.ginst (coreOf p) act true
  let uints := t.uints
  s.setSlot p { newAct s p act i with parkReq := t.parkReq, uints := uints, uintLoss := t.uintLoss }

/-- The start of a formula act in a round: its place, its region, its message. -/
def beginFormula (tab : Nat) (w : Wave) (cell round : Nat) (again : Option Nat) (s : State) : Option State :=
  let t := s.table tab
  let c := t.cell cell
  match partPhys s t.part c.vp with
  | none => some (launchFault w.launch { cause := Cause.translation + AKind.engine.code, detail := BitVec.ofNat 64 c.vp, where_ := whereOf s w.org
                                         ginst := (s.ginst w.org.ginst).num } s)
  | some pa =>
    match formulaCore s t w.launch pa with
    | none => none
    | some (core, affine) =>
      match again with
      | some rs => some (sendFormula tab w cell round core affine rs (reopenFormula rs s))
      | none =>
        let free := slotsAfter s (tableDomain tab) (w.key cell) (freeRegions s (dieOf core) t.part)
        if free.isEmpty then none
        else match runAct Act.choose s with
          | some (k, s) =>
            let rs := free.getD (k % free.length) 0
            some (sendFormula tab w cell round core affine rs (openFormula tab w cell round rs s))
          | none => none

/-- Whether a waiting formula cell of a wave may start: its pending buffer is free for the wave (R230), and, in a ring, its turn has come. -/
def startable (t : Table) (w : Wave) (a : FAct) : Bool :=
  let h := (t.cell a.cell).hold
  a.st == .waiting && (h == .free || h == .wave w.num) && ringTurn w a.ring a.cell 1

/-- Whether every region of a formula cell has been opened: in a ring, that of its last round. -/
def FAct.opened (a : FAct) : Bool := a.st != .waiting && a.round == a.rounds

/-- A formula cell of a wave starts in its turn (R224, step 3): the walk has ended, every region of a lower order key has been opened, so that none is left to
open behind FRONTIER (R284), and no cell of equal rank and lower index could start before it. -/
def startTurn (t : Table) (w : Wave) (cell : Nat) : Bool :=
  let rank := (w.act cell).rank
  w.unmarked == 0 &&
  w.acts.all (fun a => if a.rank < rank then a.opened else !(a.rank == rank && decide (a.cell < cell) && startable t w a)) &&
  t.waves.all (fun u => u.failed || decide (w.num ≤ u.num) || u.acts.all FAct.opened)

/-- Event FORMULA_ACT_START: a first start, a further round of a ring, or a restart after an abort. -/
def execFormulaActStart (table wave cell : Nat) (s : State) : Out := event (fun s =>
  let t := s.table table
  match t.waves.find? (fun w => w.num == wave) with
  | none => none
  | some w =>
    match w.acts.find? (fun a => a.cell == cell) with
    | none => none
    | some a =>
      if w.failed || s.board.fatal || launchEnding s w.launch then none
      else
        match a.st with
        | .waiting => if startable t w a && startTurn t w cell then beginFormula table w cell 1 none s else none
        | .running act rs =>
          match List.find? (fun (e : Nat × Slot) => e.2.act == act && e.2.st == .active) s.slots with
          | some e => if (s.rslot rs).st == .restart then some (restartFormula table w cell a.round rs e.1 s) else none
          | none => none
        | .ended rs => if (s.rslot rs).st == .restart then beginFormula table w cell a.round (some rs) s else none
        | .committed =>
          if decide (a.round < a.rounds) && ringTurn w a.ring cell (a.round + 1) then
            beginFormula table w cell (a.round + 1) none s
          else none) s

/-- The writes of a commit reported to the ports (R422): each version writes its whole granule. -/
def commitTails (s : State) (rslot : Nat) (s' : State) : State :=
  let writer := match regionSlot s rslot with | some p => writerOf (coreOf p) | none => 256
  (s.versions.filter (fun v => v.rslot == rslot)).foldl (fun s v => reportTail writer (v.gran * 16) 16 s) s'

/-- Event REGION_COMMIT (R283): the region's versions become the committed values; a formula region's cell has committed. -/
def execRegionCommit (rslot : Nat) (s : State) : Out := event (fun s =>
  if !commitReady s rslot then none
  else
    let d := (s.rslot rslot).domain
    let s := commitTails s rslot (regionCommitNow s rslot)
    if d < 16 then some s
    else some (s.modTable (d - 16) (fun t => { t with waves := t.waves.map (fun w => { w with acts := w.acts.map (fun a =>
      if a.st == .ended rslot then { a with st := .committed } else a) }) }))) s

/-! ### The cell instructions (R239 to R245) -/

/-- The cell a handle names for an act; CELL where it names none. -/
def cellArg (p : Nat) (h : Word) : Act (Nat × Nat) := do
  let s ← Act.look id
  match cellOf s (partOf s p) h.toNat with
  | some x => pure x
  | none => Act.fault Cause.cell

/-- The lowest free stager entry (R221). -/
def freeStager (t : Table) : Option Nat := (List.range 256).find? (fun k => (KV.find? t.stagers k).isNone)

/-- Bytes written into a cell's pending buffer. -/
def patchPend (tab i off : Nat) (b : List Byte) (s : State) : State :=
  s.modTable tab (fun t => t.modCell i (fun c => { c with pend := patch c.pend off b }))

/-- `cst` (R240). -/
def cstBody (go : Bool) (e : Enc) (p : Nat) : Act Flow := do
  operandsBound p e
  let a ← readX p e.a
  let src ← readX p e.b
  let off ← readX p e.c
  let len ← readX p e.e
  let (tab, i) ← cellArg p a
  let s ← Act.look id
  let t := s.slot p
  let c := (s.table tab).cell i
  notOrdinary p
  match t.formula with
  | some f => Act.require (!go && f.table == tab && f.cell == i) Cause.cellstore
  | none => Act.require (!c.form) Cause.cellstore
  let o := off.toNat
  let n := len.toNat
  Act.require (o % 16 == 0 && n % 16 == 0 && decide (o + n ≤ alignUp 16 c.sz)) Cause.cellrange
  if t.formula.isSome then do
    let b ← loadBytes p src.toNat n
    storesDone p
    Act.upd (patchPend tab i o b)
    writeX p e.d 0
  else do
    let mine := match c.hold with
      | .stager k _ => (match KV.find? (s.table tab).stagers k with | some (act, _) => act == t.act | none => false)
      | _ => false
    Act.ready (c.hold == .free || mine)
    Act.ready (!go || (s.table tab).waveRoom)
    if c.hold == .free then
      match freeStager (s.table tab) with
      | none => Act.block
      | some k => Act.upd (fun s => s.modTable tab (fun t' => { t' with stagers := KV.set t'.stagers k (t.act, t.launch.getD 0) }.modCell i (fun c => { c with
          pend := c.newest.2, hold := .stager k (t.launch.getD 0), staged := true })))
    let b ← loadBytes p src.toNat n
    storesDone p
    Act.upd (patchPend tab i o b)
    if go then do
      Act.upd (fun s => s.modTable tab (fun t' => t'.startWave i (originOf p t) false))
      let n ← Act.look (fun s => (s.table tab).started)
      writeX p e.d (BitVec.ofNat 64 n)
    else writeX p e.d 0
  pure .next

def execCstGo (e : Enc) (s : State) : Out := issue 0xC6 e (cstBody true e) s
def execCstStage (e : Enc) (s : State) : Out := issue 0xC6 e (cstBody false e) s

/-- The region that a formula act's forwarded read waits for (R281): one it has met with DEPTH 8 and that has neither committed nor left its domain, or one of
DEPTH 8 whose value it would take. -/
def forwardWaits (s : State) (p src : Nat) : Option Nat :=
  let deep := if 8 ≤ (s.rslot src).depth then some src else none
  match (s.slot p).wait with
  | .behind w g => if (s.rslot w).live && (s.rslot w).gen == g then some w else deep
  | _ => deep

/-- A formula act's read of a precedent that runs a formula in the same wave (R229): the forwarded value, with the dependence edge. -/
def cldForward (p rs src : Nat) : Act Unit := do
  let s ← Act.look id
  if (s.rslot src).live && src != rs then
    match forwardWaits s p src with
    | some w => fun _ => .error (.behind w (s.rslot w).gen)
    | none => Act.upd (fun s => s.modRslot rs (fun r => { r with
        pred := if r.pred.contains src then r.pred else src :: r.pred
        depth := if r.depth < (s.rslot src).depth + 1 then (s.rslot src).depth + 1 else r.depth }))
  else pure ()

/-- The version that a formula act's `cld` returns for a cell of its own table (R229, R231): a formula cell of the closure that is neither a precedent nor of the
act's ring is one of the other cells. -/
def cldFormula (p tab i : Nat) (f : Formula) (rs : Option Nat) : Act (Nat × List Byte) := do
  let s ← Act.look id
  let t := s.table tab
  let c := t.cell i
  match t.waves.find? (fun w => w.num == f.wave) with
  | none => pure c.newest
  | some w =>
    if !w.closure.contains i then pure c.newest
    else match w.acts.find? (fun a => a.cell == i) with
      | none => pure (w.num, c.pend)
      | some a =>
        if i = f.cell then pure (w.num, c.pend)
        else if a.ring.contains f.cell then pure (if a.done = 0 then c.newest else (w.num, c.pend))
        else if !(t.cell f.cell).prec.contains i then pure c.newest
        else
          match a.st with
          | .committed => do
            Act.ready a.final
            pure (w.num, c.pend)
          | .ended src => do
            Act.ready (a.round == a.rounds && (s.rslot src).st == .ending)
            match rs with | some r => cldForward p r src | none => pure ()
            pure (w.num, c.pend)
          | _ => Act.block

/-- The version a `cld` reads (R215, R229, R234). -/
def cldVersion (p tab i : Nat) : Act (Nat × List Byte) := do
  let s ← Act.look id
  let t := s.slot p
  let c := (s.table tab).cell i
  match t.view with
  | some (vt, g, _) =>
    Act.require (vt == tab) Cause.cellview
    acquireAt p 3
    pure (c.at_ g)
  | none =>
    match t.formula with
    | some f => if f.table = tab then cldFormula p tab i f t.region else do
        Act.ready (!c.stale)
        acquireAt p 3
        pure c.newest
    | none => do
      Act.ready (!c.stale)
      acquireAt p 3
      pure c.newest

/-- The checks of R241 on an offset and a length. -/
def cldRange (c : CellD) (off n : Nat) : Act Unit :=
  Act.require (off % 16 == 0 && n % 16 == 0 && decide (n ≤ 65536) && decide (off + n ≤ alignUp 16 c.sz)) Cause.cellrange

/-- `cld.v`. -/
def execCldV (e : Enc) (s : State) : Out := issue 0xC7 e (fun p => do
  operandsBound p e
  let a ← readX p e.a
  let b ← readX p e.b
  let (tab, i) ← cellArg p a
  let c ← Act.look (fun s => (s.table tab).cell i)
  cldRange c b.toNat 16
  let (_, bytes) ← cldVersion p tab i
  writeV p e.d (vecOfBytes ((bytes.drop b.toNat).take 16))
  pure .next) s

/-- Bytes stored and performed at once, outside the store buffer. -/
def storeNow (p va : Nat) (b : List Byte) : Act Unit :=
  (piecesOf va b.length).forM (fun x => do
    let s ← Act.look id
    let q ← resolve (whoSlot s p) .store Need.write x.1 x.2
    let t := s.slot p
    let piece := (b.drop (x.1 - va)).take x.2
    match regionOf t q with
    | some rs => regionStore p rs .store x.1 q piece
    | none => do
      poisonGuard .store x.1 q x.2
      Act.ready (t.store.all (fun y => !y.touches q.loc x.2) && !heldByOther s (some p) q.loc)
      pastSources p
      Act.upd (homeStore (some (coreOf p)) q piece)
      noteWrite p q.loc x.2)

/-- `cld.cp`. -/
def execCldCp (e : Enc) (s : State) : Out := issue 0xC7 e (fun p => do
  operandsBound p e
  let a ← readX p e.a
  let b ← readX p e.b
  let dst ← readX p e.c
  let n ← readX p e.e
  let (tab, i) ← cellArg p a
  let c ← Act.look (fun s => (s.table tab).cell i)
  cldRange c b.toNat n.toNat
  let (w, bytes) ← cldVersion p tab i
  storeNow p dst.toNat ((bytes.drop b.toNat).take n.toNat)
  writeX p e.d (BitVec.ofNat 64 w)
  pure .next) s

/-- An edit that has passed its checks (R233): at once, or queued. Gives its status. -/
def submitEdit (p tab i : Nat) (r : Option FRecord) : Act Nat := do
  let s ← Act.look id
  let t := s.table tab
  let org := originOf p (s.slot p)
  if t.edits.isEmpty && !t.inWave i then do
    Act.ready t.waveRoom
    Act.upd (fun s => s.modTable tab (fun t => ({ t with cells := editCells t.cells i r } : Table).startWave i org true))
    pure 0
  else do
    Act.upd (fun s => s.modTable tab (fun t => ({ t with edits := t.edits ++ [{ cell := i, launch := org.launch, org := org, record := r }] } : Table).flagEdits))
    pure 1

/-- The record of `cbind` is well formed (R242, BADREC). Bits [7:1] of FLAGS are held to be zero as the reserved bytes are. DESIGN CHOICE (log 139). -/
def recordOk (b : List Byte) (ncell : Nat) : Bool :=
  let n := fieldAt b 2 1
  let fl := fieldAt b 3 1
  let r := fieldAt b 4 1
  zeroAt b 5 11 && decide (fl < 2) && decide (1 ≤ n) && decide (n ≤ 8) && (if fl = 1 then r != 0 else r == 0) &&
  (List.range n).all (fun k => decide (fieldAt b (16 + 2 * k) 2 < ncell) && fieldAt b (16 + 2 * k) 2 != 0xFFFF)

/-- `cbind` (R242, R243). -/
def execCbind (e : Enc) (s : State) : Out := issue 0xC8 e (fun p => do
  operandsBound p e
  let a ← readX p e.a
  let va ← readX p e.b
  let (tab, i) ← cellArg p a
  notOrdinary p
  aligned .load va.toNat 16
  let b ← loadBytes p va.toNat 32
  let s ← Act.look id
  let t := s.table tab
  let r : FRecord := (fieldAt b 0 2, (List.range (fieldAt b 2 1)).map (fun k => fieldAt b (16 + 2 * k) 2), fieldAt b 3 1 == 1, fieldAt b 4 1)
  let handlers := (s.obj (objKey t.part t.obj)).handlers.length
  let st ←
    if !recordOk b t.cells.length then pure 2
    else if handlers ≤ r.1 then pure 3
    else if maxEdits ≤ t.edits.length then pure 5
    else
      let k := bindStatus (futureCells t) handlers i r
      if k != 0 then pure k else submitEdit p tab i (some r)
  writeX p e.d (BitVec.ofNat 64 st)
  pure .next) s

/-- `cunbind`. -/
def execCunbind (e : Enc) (s : State) : Out := issue 0xC9 e (fun p => do
  operandsBound p e
  let a ← readX p e.a
  let (tab, i) ← cellArg p a
  notOrdinary p
  let s ← Act.look id
  let t := s.table tab
  let st ←
    if !((futureCells t).getD i {}).form then pure 4
    else if maxEdits ≤ t.edits.length then pure 5
    else submitEdit p tab i none
  writeX p e.d (BitVec.ofNat 64 st)
  pure .next) s

/-- `cview` (R234, R244). -/
def execCview (e : Enc) (s : State) : Out := issue 0xCA e (fun p => do
  operandsBound p e
  let a ← readX p e.a
  let (tab, _) ← cellArg p a
  let s ← Act.look id
  let t := s.slot p
  Act.require t.view.isNone Cause.cellview
  let x := s.table tab
  if 1024 ≤ x.views.length then writeX p e.d (BitVec.ofNat 64 (2 ^ 63 + 9))
  else do
    Act.modSlot p (fun t => { t with view := some (tab, x.committed, a) })
    Act.upd (fun s => s.modTable tab (fun x => { x with views := x.views ++ [{ act := t.act, gen := x.committed, handle := a }] }))
    writeX p e.d (BitVec.ofNat 64 x.committed)
  pure .next) s

/-- `cclose`. -/
def execCclose (e : Enc) (s : State) : Out := issue 0xCB e (fun p => do
  Act.upd (closeView p)
  pure .next) s

/-- `cfence` (R237): the newest wave that had reached the cell at issue. -/
def execCfence (e : Enc) (s : State) : Out := issue 0xCC e (fun p => do
  operandsBound p e
  let s ← Act.look id
  let t := s.slot p
  let a ← readX p e.a
  let (tab, i) ← cellArg p a
  Act.require t.view.isNone Cause.cellview
  match t.wait with
  | .waveDone f =>
    writeX p e.d (if f then 10 else 0)
    pure .next
  | .wave _ _ => Act.block
  | _ =>
    let x := s.table tab
    let c := x.cell i
    if c.lastw ≤ x.committed then do
      writeX p e.d (if c.lost then 10 else 0)
      pure .next
    else do
      Act.modSlot p (fun y => { y with chans := t.chans, wait := .wave tab c.lastw })
      Act.blockKeeping) s

/-- The word `cstat` reports (R245). -/
def cstatWord (v : Nat) (t : Table) (c : CellD) : Word :=
  BitVec.ofNat 64 (match v with
    | 0 => c.newest.1 * 2 ^ 16 + c.flags
    | 1 => c.rank * 2 ^ 48 + c.dep.length * 2 ^ 32 + c.prec.length * 2 ^ 24 + c.rounds * 2 ^ 16 + c.handler
    | 2 => t.committed * 2 ^ 16 + t.views.length
    | _ => t.started * 2 ^ 16 + t.unpublished)

/-- `cstat`. -/
def execCstat (e : Enc) (s : State) : Out := issue 0xCD e (fun p => do
  operandsBound p e
  let a ← readX p e.a
  let (tab, i) ← cellArg p a
  let x ← Act.look (fun s => s.table tab)
  writeX p e.d (cstatWord e.v x (x.cell i))
  pure .next) s

end Sys2Proof.Machine
end

