-- ==== Sys2Proof/Machine/Moves.lean ====
section
/-! DEFINITION. Class 5: movement, conversion, scan, reduction, the generator and group sampling (R153 to R166). -/

namespace Sys2Proof.Machine

/-- Bytes of a vector, as numbers. -/
def vecBytes (v : Vec) : List Nat := splitBits 8 16 v.toNat

/-- `vperm` (R154). -/
def permute (a b c : Vec) : Vec :=
  let src := vecBytes a ++ vecBytes b
  BitVec.ofNat 128 (joinBits 8 ((vecBytes c).map (fun k => if 128 ≤ k then 0 else src.getD (k % 32) 0)))

/-- `vshuf` (R154): control fields of log2(2n) bits. -/
def shuffle (t : Nat) (a b : Vec) (ctl : Nat) : Vec :=
  let n := laneCount t
  let src := lanesOf t a ++ lanesOf t b
  ofLanes t ((splitBits (Nat.log2 (2 * n)) n ctl).map (fun k => src.getD k 0))

/-- One lane replaced. -/
def setLane (t k x : Nat) (v : Vec) : Vec := ofLanes t ((lanesOf t v).set (k % laneCount t) x)
def lane (t k : Nat) (v : Vec) : Nat := (lanesOf t v).getD (k % laneCount t) 0

/-- A lane as a scalar (R154, R160): sign-extended for types 0x00 to 0x03, zero-extended otherwise. -/
def laneWord (t x : Nat) : Word := extend (decide (t < 4)) (fmtWidth t) x

def rotBits (t k x : Nat) : Nat :=
  let w := fmtWidth t
  let n := k % w
  x * 2 ^ n % 2 ^ w + x / 2 ^ (w - n)

def rotLanes (t k : Nat) (v : Vec) : Vec :=
  let n := laneCount t
  ofLanes t ((List.range n).map (fun i => lane t (i + n - k % n) v))

/-- `vmov`, `vbcast` and `vmask` values. -/
def splat (t x : Nat) : Vec := ofLanes t (List.replicate (laneCount t) x)

def maskVec (t v : Nat) (a : Word) : Vec :=
  ofLanes t ((List.range (laneCount t)).map (fun i => maskLane t (if v = 0 then a.getLsbD i else decide (i < a.toNat))))

/-- `vmov` (R154). -/
def execVmov (e : Enc) (s : State) : Out := issue 0xA0 e (fun p => do
  operandsBound p e
  let v ← match e.ext with
    | .none => readV p e.a
    | .imm32 w => pure (splat 0x6 w.toNat)
    | .imm64 w => pure (splat 0x7 w.toNat)
  writeV p e.d v
  pure .next) s

/-- `vbcast`. -/
def execVbcast (e : Enc) (s : State) : Out := issue 0xA1 e (fun p => do
  operandsBound p e
  if e.v == 0 then
    let a ← readX p e.a
    writeV p e.d (splat e.t (a.toNat % 2 ^ fmtWidth e.t))
  else
    let a ← readV p e.a
    let k ← readX p e.b
    writeV p e.d (splat e.t (lane e.t k.toNat a))
  pure .next) s

def execVperm (e : Enc) (s : State) : Out := issue 0xA2 e (vecBody e (fun _ a b c => (permute a b c, Fl.none))) s

/-- `vshuf`. -/
def execVshuf (e : Enc) (s : State) : Out := issue 0xA3 e (fun p => do
  operandsBound p e
  let a ← readV p e.a
  let b ← readV p e.b
  let c ← readIdx p e e.c
  writeV p e.d (shuffle e.t a b c)
  pure .next) s

/-- `vins`. -/
def execVins (e : Enc) (s : State) : Out := issue 0xA4 e (fun p => do
  operandsBound p e
  let a ← readX p e.a
  let k ← readIdx p e e.b
  Act.modSlot p (fun t => t.setV (regNo e.d) (setLane e.t k (a.toNat % 2 ^ fmtWidth e.t) (t.vreg (regNo e.d))))
  pure .next) s

/-- `vext`. -/
def execVext (e : Enc) (s : State) : Out := issue 0xA5 e (fun p => do
  operandsBound p e
  let a ← readV p e.a
  let k ← readIdx p e e.b
  writeX p e.d (laneWord e.t (lane e.t k a))
  pure .next) s

/-! ### Conversions (R155 to R158) -/

/-- A converted element with its flags. -/
def convList (dst src : Nat) (rm : Rm) (sat : Bool) (l : List Nat) : List Nat × Fl :=
  let r := l.map (convert dst src rm sat)
  (r.map Prod.fst, r.foldl (fun f x => f ||| x.2) Fl.none)

/-- `vcvt` (R156): lanes past those converted are zero. -/
def vcvtValue (dst src : Nat) (rm : Rm) (sat : Bool) (a : Vec) : Vec × Fl :=
  let wd := fmtWidth dst
  let ws := fmtWidth src
  let m := 128 / (if wd < ws then ws else wd)
  let r := convList dst src rm sat ((lanesOf src a).take m)
  (ofLanes dst r.1, r.2)

/-- `vpack` (R157) of the vectors in field order. -/
def vpackValue (dst src : Nat) (rm : Rm) (sat : Bool) (l : List Vec) : Vec × Fl :=
  let r := convList dst src rm sat (l.flatMap (lanesOf src))
  (ofLanes dst r.1, r.2)

/-- `vpack` to an LB format: payload vector, scale vector and flags. -/
def vpackLb (dst : Nat) (rm : Rm) (l : List Vec) : (Vec × Vec) × Fl :=
  let r := lbEncode dst rm (l.flatMap (lanesOf 0x0D))
  ((BitVec.ofNat 128 r.1.2.2, BitVec.ofNat 128 (r.1.1 + r.1.2.1 * 2 ^ 8)), r.2)

/-- `vunpk` (R158) of part `k`. -/
def vunpkValue (dst src : Nat) (rm : Rm) (k : Nat) (a : Vec) : Vec × Fl :=
  let m := 128 / fmtWidth dst
  let r := convList dst src rm false (((lanesOf src a).drop (k * m)).take m)
  (ofLanes dst r.1, r.2)

/-- `vunpk` from an LB format: four elements of the block, each with its pair's micro-exponent. -/
def vunpkLb (src : Nat) (rm : Rm) (k : Nat) (a b : Vec) : Vec × Fl :=
  let ee := b.toNat % 256
  let mu := b.toNat / 256 % 256
  let els := (lanesOf src a).take 16
  let r := (List.range 4).map (fun i =>
    let j := 4 * k + i
    encodeFlt 0x0D rm false (lbDecode src ee (mu / 2 ^ (j / 2) % 2) (els.getD j 0)))
  (ofLanes 0x0D (r.map Prod.fst), r.foldl (fun f x => f ||| x.2) Fl.none)

/-- The pair of formats of a conversion that decoding has accepted. -/
def pairOf (opc : Nat) (e : Enc) : Nat × Nat := (convPair opc e).getD (0, 0)

def execVcvt (e : Enc) (s : State) : Out :=
  issue 0xA6 e (vecBody e (fun t a _ _ => vcvtValue (pairOf 0xA6 e).1 (pairOf 0xA6 e).2 t.rm (e.v == 1) a)) s

/-- `vpack`: two or four sources, in the order A, B, C, E. -/
def execVpack (e : Enc) (s : State) : Out := issue 0xA7 e (fun p => do
  operandsBound p e
  let a ← readV p e.a
  let b ← readV p e.b
  let c ← readV p e.c
  let x ← readV p e.e
  let t ← Act.slot p
  let (dst, src) := pairOf 0xA7 e
  let l := if e.c == .none then [a, b] else [a, b, c, x]
  if isLb dst then
    let r := vpackLb dst t.rm l
    raise p r.2
    Act.modSlot p (fun t => (t.setV (regNo e.d) r.1.1).setV (regNo e.d + 1) r.1.2)
  else
    let r := vpackValue dst src t.rm (e.v == 1) l
    raise p r.2
    writeV p e.d r.1
  pure .next) s

def execVunpk (e : Enc) (s : State) : Out :=
  issue 0xA8 e (vecBody e (fun t a b _ =>
    let (dst, src) := pairOf 0xA8 e
    if isLb src then vunpkLb src t.rm e.v a b else vunpkValue dst src t.rm e.v a)) s

/-! ### Scan and reduction (R159, R160) -/

/-- The combining operation of `vscan` and `vred`: 0 add, 1 min, 2 max, and on integers `and`, `or`, `xor`. -/
inductive Comb where
  | add | min | max | and | or | xor
  deriving DecidableEq, Repr

def comb (k : Comb) (t : Nat) (rm : Rm) (x y : Nat) : Nat × Fl :=
  match k with
  | .add => laneOp .add t false rm x y 0
  | .min => laneOp .min t false rm x y 0
  | .max => laneOp .max t false rm x y 0
  | .and => (Nat.land x y, Fl.none)
  | .or => (Nat.lor x y, Fl.none)
  | .xor => (Nat.xor x y, Fl.none)

def scanComb (v : Nat) : Comb := match v % 4 with | 0 => .add | 1 => .min | 2 => .max | _ => .or
def redComb (v : Nat) : Comb := match v with | 0 => .add | 1 => .min | 2 => .max | 3 => .and | 4 => .or | _ => .xor

/-- The identity an exclusive scan starts a segment with. -/
def scanIdent (k : Comb) (t : Nat) : Nat :=
  let w := fmtWidth t
  match k with
  | .min => if typFlt t then infOf t else wrapN w (intMax (fmtSigned t) w)
  | .max => if typFlt t then withSign t true (infOf t) else wrapN w (intMin (fmtSigned t) w)
  | _ => 0

/-- The scan over lanes and heads: outputs and flags; `run` is the running value, none at the start of a segment. -/
def scanLanes (k : Comb) (ex : Bool) (t : Nat) (rm : Rm) : Option Nat → List (Nat × Bool) → List Nat × Fl
  | _, [] => ([], Fl.none)
  | run, (x, head) :: r =>
    let run := if head then none else run
    let n := match run with | none => (x, Fl.none) | some a => comb k t rm a x
    let out := if ex then (match run with | none => scanIdent k t | some a => a) else n.1
    let q := scanLanes k ex t rm (some n.1) r
    (out :: q.1, n.2 ||| q.2)

/-- `vscan` (R159): lane 0 always starts a segment. -/
def scanVec (v t : Nat) (rm : Rm) (a b : Vec) : Vec × Fl :=
  let heads := (lanesOf t b).mapIdx (fun i h => i == 0 || h != 0)
  let r := scanLanes (scanComb v) (decide (4 ≤ v)) t rm none (List.zip (lanesOf t a) heads)
  (ofLanes t r.1, r.2)

/-- One level of the pairwise tree (R160). -/
def pairLevel (k : Comb) (t : Nat) (rm : Rm) : List Nat → List Nat × Fl
  | x :: y :: r =>
    let c := comb k t rm x y
    let q := pairLevel k t rm r
    (c.1 :: q.1, c.2 ||| q.2)
  | l => (l, Fl.none)

/-- `vred`: levels until one lane remains; four suffice for 16 lanes. -/
def reduceLanes (k : Comb) (t : Nat) (rm : Rm) : Nat → List Nat → Nat × Fl
  | 0, l => (l.getD 0 0, Fl.none)
  | n + 1, l =>
    if l.length ≤ 1 then (l.getD 0 0, Fl.none)
    else
      let r := pairLevel k t rm l
      let q := reduceLanes k t rm n r.1
      (q.1, r.2 ||| q.2)

def execVscan (e : Enc) (s : State) : Out := issue 0xA9 e (vecBody e (fun t a b _ => scanVec e.v e.t t.rm a b)) s

/-- `vred`. -/
def execVred (e : Enc) (s : State) : Out := issue 0xAA e (fun p => do
  operandsBound p e
  let a ← readV p e.a
  let t ← Act.slot p
  let r := reduceLanes (redComb e.v) e.t t.rm 4 (lanesOf e.t a)
  raise p r.2
  writeX p e.d (laneWord e.t r.1)
  pure .next) s

/-- `vmask`. -/
def execVmask (e : Enc) (s : State) : Out := issue 0xAB e (fun p => do
  operandsBound p e
  let a ← readX p e.a
  writeV p e.d (maskVec e.t e.v a)
  pure .next) s

/-- `vxfer`. -/
def execVxfer (e : Enc) (s : State) : Out := issue 0xAC e (fun p => do
  operandsBound p e
  let a ← readV p e.a
  let l := lanesOf e.t a
  match e.v with
  | 0 => writeX p e.d (BitVec.ofNat 64 (joinBits 1 (l.map (fun x => x / 2 ^ (fmtWidth e.t - 1)))))
  | 1 => writeP p e.d (l.any (· != 0))
  | _ => writeP p e.d (l.all (· != 0))
  pure .next) s

/-! ### The generator and sampling (R162 to R166) -/

/-- `vrng`. -/
def execVrng (e : Enc) (s : State) : Out := issue 0xAE e (fun p => do
  operandsBound p e
  let a ← readX p e.a
  let b ← readX p e.b
  let c ← readX p e.c
  let g := gen a.toNat b.toNat c.toNat
  writeV p e.d (ofLanes 0x6 (if e.v == 1 then g.map uniformF32 else g))
  pure .next) s

/-- A mass in units of 2^-149 and whether it raises NV: NaN, infinite and negative masses count as zero (R164). -/
def massOf (b : Nat) : Nat × Bool :=
  match decodeFlt 0x0D b with
  | .fin neg m x => if m = 0 then (0, false) else if neg then (0, true) else (m * 2 ^ (x + 149).toNat, false)
  | _ => (0, true)

/-- A participant's slice: its masses that count, with their indices, its BASE, and NV. -/
structure Slice where
  masses : List (Nat × Nat)
  base : Nat
  nv : Bool
  deriving DecidableEq, Repr

/-- Reads the descriptor, the masses and the mask of `draw` (R163). -/
def readSlice (p va : Nat) : Act Slice := do
  Act.require (va % 32 == 0) Cause.draw
  let b ← loadBytes p va 32
  let masses := fieldAt b 0 8
  let count := fieldAt b 8 4
  let base := fieldAt b 12 4
  let mask := fieldAt b 16 8
  Act.require (masses % 16 == 0 && mask % 16 == 0 && zeroAt b 24 8 && decide (count ≤ 262144) && decide (base + count ≤ 2 ^ 32)) Cause.draw
  let ms ← loadBytes p masses (4 * count)
  let first := base / 8
  let last := (base + count + 7) / 8
  let mk ← if mask = 0 || count = 0 then pure [] else loadBytes p (mask + first) (last - first)
  let admitted := fun (j : Nat) =>
    let t := base + j
    mask = 0 || testBit (fieldAt mk (t / 8 - first) 1) (t % 8)
  let l := (List.range count).map (fun j => if admitted j then (j, massOf (fieldAt ms (4 * j) 4)) else (j, (0, false)))
  pure { masses := (l.filter (fun x => x.2.1 != 0)).map (fun x => (x.1, x.2.1)), base := base, nv := l.any (fun x => x.2.2) }

/-- The first index whose running sum, in units, times 2^24 exceeds `goal`; the sum starts at `acc`. -/
def pickMass (goal : Nat) : Nat → List (Nat × Nat) → Option Nat
  | _, [] => none
  | acc, (j, m) :: r => if goal < (acc + m) * 2 ^ 24 then some j else pickMass goal (acc + m) r

def sumMass (l : List (Nat × Nat)) : Nat := l.foldl (fun a x => a + x.2) 0

/-- The participant and index that a draw selects, over the participants' masses in order (R164). -/
def drawPick (goal : Nat) : Nat → List (List (Nat × Nat) × Nat) → Word
  | _, [] => BitVec.allOnes 64
  | acc, (l, base) :: r =>
    match pickMass goal acc l with
    | some j => BitVec.ofNat 64 ((base + j) % 2 ^ 32)
    | none => drawPick goal (acc + sumMass l) r

/-- The token of a draw; all ones when every mass is zero. -/
def drawResult (seed sq pos : Nat) (parts : List (List (Nat × Nat) × Nat)) : Word :=
  let total := parts.foldl (fun a x => a + sumMass x.1) 0
  if total = 0 then BitVec.allOnes 64
  else drawPick ((gen seed sq pos).getD 0 0 / 256 * total) 0 parts

/-- `draw.solo`. -/
def execDrawSolo (e : Enc) (s : State) : Out := issue 0xAD e (fun p => do
  operandsBound p e
  let a ← readX p e.a
  let b ← readX p e.b
  let c ← readX p e.c
  let x ← readX p e.e
  let sl ← readSlice p a.toNat
  raise p (Fl.when sl.nv Fl.nv)
  writeX p e.d (drawResult b.toNat c.toNat x.toNat [(sl.masses, sl.base)])
  pure .next) s

/-- The number of a virtual core's next `.clus` draw, taken (R165). -/
def takeDrawNo (g v : Nat) : Act Nat := do
  let n ← Act.look (fun s => KV.get 0 (s.ginst g).drawNo v)
  Act.upd (fun s => s.modGinst g (fun x => { x with drawNo := KV.set x.drawNo v (n + 1) }))
  pure n

/-- The posts of one draw. -/
def drawPosts (s : State) (cl g n : Nat) : List DrawPost := (s.cluster cl).draws.filter (fun d => d.ginst == g && d.number == n)

/-- A draw with all its posts is decided (R164, R165): each participant has its token, or every one raises DRAW when keys differ. -/
def decideDraw (cl g n : Nat) (s : State) : State :=
  let posts := drawPosts s cl g n
  if posts.length < 8 then s
  else
    let s := s.modCluster cl (fun c => { c with draws := c.draws.filter (fun d => !(d.ginst == g && d.number == n)) })
    let k := (posts.map (fun d => d.key)).getD 0 (0, 0, 0)
    if posts.all (fun d => d.key == k) then
      let ordered := (List.range 8).flatMap (fun v => posts.filter (fun d => d.vcore % 8 == v))
      let tok := drawResult k.1.toNat k.2.1.toNat k.2.2.toNat (ordered.map (fun d => (d.masses, d.base)))
      posts.foldl (fun s d => raiseFlags d.pslot (Fl.when d.nv Fl.nv) (s.modSlot d.pslot (fun t => { t with wait := .drawDone tok }))) s
    else
      let byCore := (clusterCores cl).flatMap (fun c => posts.filter (fun d => coreOf d.pslot == c))
      byCore.foldl (fun s d => raiseFault d.pslot Cause.draw 0 none s) s

/-- `draw.clus`: posts, then waits for the eight participants of its number; a withdrawn one posts again under the same number (R166). Channel
operands are consumed when it completes. -/
def execDrawClus (e : Enc) (s : State) : Out := issue 0xAD e (fun p => do
  operandsBound p e
  let s ← Act.look id
  let t := s.slot p
  Act.require (tierOf s t != 0) Cause.scope
  let cl := clusterOf p
  let a ← readX p e.a
  let b ← readX p e.b
  let c ← readX p e.c
  let x ← readX p e.e
  match t.wait with
  | .drawDone tok =>
    writeX p e.d tok
    pure .next
  | _ =>
    let posted := match t.drawNo with | some n => (drawPosts s cl t.ginst n).any (fun d => d.pslot == p) | none => false
    if posted then Act.block
    else do
      let sl ← readSlice p a.toNat
      let n ← match t.drawNo with | some n => pure n | none => takeDrawNo t.ginst t.vcore
      Act.upd (fun s => s.modCluster cl (fun y => { y with draws := y.draws ++
        [{ ginst := t.ginst, number := n, vcore := t.vcore, pslot := p, act := t.act, key := (b, c, x)
           masses := sl.masses, base := sl.base, nv := sl.nv }] }))
      Act.modSlot p (fun x => { x with chans := t.chans, wait := .draw n, drawNo := some n })
      Act.upd (decideDraw cl t.ginst n)
      Act.blockKeeping) s

/-- `vrot`. -/
def execVrot (e : Enc) (s : State) : Out := issue 0xAF e (fun p => do
  operandsBound p e
  let a ← readV p e.a
  let k ← readIdx p e e.b
  writeV p e.d (if e.v == 0 then (mapLanes e.t (fun x _ _ => (rotBits e.t k x, Fl.none)) a 0 0).1 else rotLanes e.t k a)
  pure .next) s

end Sys2Proof.Machine
end

