-- ==== Sys2Proof/Machine/Collectives.lean ====
section
/-! DEFINITION. The collective engines (R414 to R419): the checks of a command, the gathering of a collective's participants, its arithmetic,
and its end by OK, MISMATCH or TIMEOUT. -/

namespace Sys2Proof.Machine

/-! ### Commands (R414, R415) -/

def collSrc (b : List Byte) : Nat := payAt b 0 8
def collDst (b : List Byte) : Nat := payAt b 8 8
def collCount (b : List Byte) : Nat := payAt b 16 4
def collFmt (b : List Byte) : Nat := payAt b 20 1
def collCtl (b : List Byte) : Nat := payAt b 21 1
def collOp (b : List Byte) : Nat := collCtl b % 4
def collFast (b : List Byte) : Bool := testBit (collCtl b) 2
def collScope (b : List Byte) : Nat := bitsN (collCtl b) 5 3
def collLast (b : List Byte) : Nat := payAt b 22 2
def collRank (b : List Byte) : Nat := payAt b 24 2
def collRoot (b : List Byte) : Nat := payAt b 26 2
def collSeq (b : List Byte) : Nat := payAt b 28 4
def collObj (b : List Byte) : Option Nat := objField (payAt b 32 4)
def collExp (b : List Byte) : Nat := payAt b 36 1

/-- Statuses of a collective's reply (R418). -/
def collBadFmt : Nat := 1
def collBadCmd : Nat := 2
def collMismatch : Nat := 5
def collTimeout : Nat := 6

/-- Bytes of an element: s32 and f32 take four, bf16 two. -/
def collWidth (f : Nat) : Nat := if f = 0x0C then 2 else 4

/-- The checks of a command in order (R415); 0 accepts it. `tier` is the launch's. -/
def collCheck (tier : Nat) (b : List Byte) : Nat :=
  let bad := !(decide (1 ≤ msgEop b) && decide (msgEop b ≤ 3)) || !msgReply b || collCtl b / 64 != 0 || !zeroAt b (16 + 37) 11 ||
    collSrc b % 16 != 0 || collDst b % 16 != 0 || (match collObj b with | some o => o % 16 != 0 | none => false) ||
    !(decide (1 ≤ collCount b) && decide (collCount b ≤ 2 ^ 24)) || decide (collLast b < collRank b) || decide (collLast b < collRoot b) ||
    (msgEop b == 1 && collRoot b != 0) || !(decide (16 ≤ collExp b) && decide (collExp b ≤ 31)) ||
    collScope b == 0 || decide (tier < collScope b) || collOp b == 3 || (collFmt b == 2 && collOp b != 0)
  if bad then collBadCmd
  else if collFmt b == 0x0D || collFmt b == 0x0C || collFmt b == 2 then 0 else collBadFmt

/-- The status word of a reply, and SEQ behind it (R418). -/
def collReplyData (seq missing flags status : Nat) : List Byte := leBytes 8 (missing * 2 ^ 48 + flags * 2 ^ 8 + status) ++ leBytes 8 seq

/-- The reply to one participant; that to a participant of another device goes there. -/
def collReply (a : CollArr) (missing flags status : Nat) (s : State) : State :=
  if a.src.isSome then s else
  engineReply { org := a.org, msg := a.msg } (collReplyData (collSeq a.msg) missing flags status) s

/-- The reply that a decision gives. -/
def CollEnd.reply (d : CollEnd) (a : CollArr) (s : State) : State :=
  match d with
  | .ok f => collReply a 0 f 0 s
  | .mismatch => collReply a 0 0 collMismatch s
  | .timeout m => collReply a m 0 collTimeout s

/-! ### Arithmetic (R416, R417) -/

/-- The result element of the P elements of one index, in rank order. -/
def collElem (op f : Nat) (fast : Bool) (xs : List Nat) : Nat × Fl :=
  if f = 2 then (wrapN 32 (xs.foldl (fun a x => a + valN true 32 x) 0), Fl.none)
  else if op = 0 then
    if fast then
      let up := xs.map (fun x => if f = 0x0C then x * 2 ^ 16 else x)
      let r := reduceLanes .add 0x0D .rne 17 up
      let c := encodeFlt f .rne false (decodeFlt 0x0D r.1)
      (c.1, r.2 ||| c.2)
    else
      let v := sumExact (xs.map (decodeFlt f))
      let c := encodeFlt f .rne false v.1
      (c.1, v.2 ||| c.2)
  else match xs with
    | [] => (0, Fl.none)
    | x :: r => (r.foldl (fun a y => (minmaxFlt f (op == 1) a y).1) x, Fl.none)

/-- Element by element over the participants' lists. -/
def collColumns (k : List Nat → Nat × Fl) : Nat → List (List Nat) → List Nat × Fl
  | 0, _ => ([], Fl.none)
  | n + 1, ls =>
    let c := k (ls.map (fun l => l.headD 0))
    let r := collColumns k n (ls.map (fun l => l.drop 1))
    (c.1 :: r.1, c.2 ||| r.2)

/-- The result bytes of the participants' bytes in rank order. -/
def collResult (b : List Byte) (srcs : List (List Byte)) : List Byte × Fl :=
  let w := collWidth (collFmt b)
  if msgEop b = 3 then (srcs.headD [], Fl.none)
  else
    let r := collColumns (collElem (collOp b) (collFmt b) (collFast b)) (collCount b) (srcs.map (fun x => splitBits (8 * w) (collCount b) (ofLe x)))
    (r.1.flatMap (leBytes w), r.2)

/-! ### Performing a collective (R417, R418) -/

/-- An engine's action for one participant: its value and the state, or how the whole event ends. -/
def forOrg {α : Type} (o : Origin) (s : State) (a : Act α) : Except (Option State) (α × State) :=
  match a s with
  | .ok r => .ok r
  | .error _ => .error (engineRun o s (do let _ ← a; pure ()))

/-- The participants in rank order. -/
def byRank (n : Nat) (l : List CollArr) : List CollArr := (List.range n).filterMap (fun r => l.find? (fun a => a.rank == r))

/-- Whether a participant's bytes are read, and whether the result is written to it. -/
def collReads (a : CollArr) : Bool := msgEop a.msg != 3 || a.rank == collRoot a.msg
def collWrites (a : CollArr) : Bool := msgEop a.msg != 2 || a.rank == collRoot a.msg

/-- A participant's SRC. -/
def collLoad (s : State) (a : CollArr) (n : Nat) : Act (List Byte) :=
  match a.src with
  | some b => pure b
  | none => engineRead (whoEngine s 3 (dieOf a.core) a.org) (collSrc a.msg) n

/-- The result written to a participant's DST in beats, each crediting OBJ. -/
def collStore (s : State) (a : CollArr) (out : List Byte) : Act Unit :=
  if a.src.isSome then pure () else
  (beatsOf (collDst a.msg) out).forM (fun x => do
    engineBeat (whoEngine s 3 (dieOf a.core) a.org) x
    creditObj (whoEngine s 3 (dieOf a.core) a.org) a.org.launch (collObj a.msg) (beatBytes x))

/-- The collective is performed: every SRC is read, the result formed and written, and every participant gets its reply. Gives the flags. -/
def performColl (c : Coll) (s : State) : Except (Option State) (Nat × State) := do
  let ps := byRank c.arrived.length c.arrived
  let b := (ps.head?.map (fun a => a.msg)).getD []
  let n := collCount b * collWidth (collFmt b)
  let rd ← (ps.filter collReads).foldlM (fun (acc : List (List Byte) × State) a => do
    let r ← forOrg a.org acc.2 (collLoad acc.2 a n)
    pure (acc.1 ++ [r.1], r.2)) ([], s)
  let out := collResult b rd.1
  let s ← (ps.filter collWrites).foldlM (fun s a => do
    let r ← forOrg a.org s (collStore s a out.1)
    pure r.2) rd.2
  pure (out.2.toNat, (ps ++ c.late).foldl (fun s a => collReply a 0 out.2.toNat 0 s) s)

/-! ### Gathering (R415) -/

/-- Whether a collective is the one a command names. -/
def Coll.names (c : Coll) (launch ginst unit seq : Nat) : Bool := c.launch == launch && c.ginst == ginst && c.unit == unit && c.seq == seq

/-- The first command of a collective: its fields are the collective's. -/
def Coll.first (c : Coll) : List Byte := (c.arrived.head?.map (fun a => a.msg)).getD []

/-- Whether every rank has arrived. -/
def Coll.full (c : Coll) : Bool := c.arrived.length == collLast c.first + 1

/-- Whether a collective's time is over; an arrival in the cycle of the deadline still counts. -/
def Coll.late? (c : Coll) (cycle : Nat) : Bool := decide (c.since + 2 ^ collExp c.first < cycle)

/-- Whether a command agrees with a collective and gives a new rank. -/
def Coll.agrees (c : Coll) (a : CollArr) : Bool :=
  let f := c.first
  msgEop f == msgEop a.msg && collCount f == collCount a.msg && collFmt f == collFmt a.msg && collCtl f == collCtl a.msg &&
  collLast f == collLast a.msg && collRoot f == collRoot a.msg && c.arrived.all (fun x => x.rank != a.rank)

/-- Whether the bytes of every participant are in the machine. Pre-emption stops no collective (R382, R418); but the scratchpad of a core whose part is saved
is in no core until the part is restored (R386), and a collective with an address there waits for it. DESIGN CHOICE (log 124). -/
def collPresent (s : State) (c : Coll) : Bool := c.arrived.all (fun a =>
  a.src.isSome || (decide (globalBase ≤ collSrc a.msg) && decide (globalBase ≤ collDst a.msg) && (collObj a.msg).all (fun o => decide (globalBase ≤ o))) || (s.ginst a.org.ginst).savedCores.isEmpty)

/-- The root switch of the load-store domain: the decision point of collectives of fabric scope. -/
def rootSwitch : Nat := 8

/-- The decision point of a collective that an arrival reaches: the root switch at fabric scope, the die of rank 0 below it; until rank 0 has arrived, the
die `old` that gathers it. -/
def decisionPoint (a : CollArr) (old : Nat) : Nat :=
  if collScope a.msg = 4 then rootSwitch else if a.rank = 0 then dieOf a.core else old

/-- The `k`-th collective of a decision point replaced. -/
def setColl (die k : Nat) (c : Coll) (s : State) : State := s.modDie die (fun d => { d with colls := d.colls.set k c })

/-- The `k`-th collective of a decision point replaced, and taken to another. -/
def moveColl (die k new : Nat) (c : Coll) (s : State) : State :=
  if new = die then setColl die k c s
  else (s.modDie die (fun d => { d with colls := d.colls.eraseIdx k })).modDie new (fun d => { d with colls := d.colls ++ [c] })

/-- The die and place of the collective a command names. -/
def findColl (s : State) (launch ginst unit seq : Nat) : Option (Nat × Nat × Coll) :=
  s.dies.findSome? (fun (e : Nat × Die) =>
    match e.2.colls.findIdx? (fun c => c.names launch ginst unit seq) with
    | some k => (e.2.colls[k]?).map (fun c => (e.1, k, c))
    | none => none)

/-- A decision: recorded, and told to every participant that has arrived. -/
def decideColl (die k : Nat) (c : Coll) (d : CollEnd) (s : State) : State :=
  c.arrived.foldl (fun s a => d.reply a s) (setColl die k { c with decided := some d } s)

/-- An accepted command reaches the decision point: the first of a collective, one more rank of it, or one that comes when it is decided, of which every
collective of the launch is remembered. DEDUCED (log 72). -/
def collGather (die launch ginst vcore : Nat) (a : CollArr) (s : State) : Option State :=
  let unit := barrierKey (collScope a.msg) vcore 0
  let seq := collSeq a.msg
  match findColl s launch ginst unit seq with
  | none => some (s.modDie (decisionPoint a die) (fun d => { d with
      colls := d.colls ++ [{ launch := launch, ginst := ginst, unit := unit, seq := seq, arrived := [a], since := s.cycle }] }))
  | some (dd, k, c) =>
    let c' : Coll := { c with arrived := c.arrived ++ [a] }
    match c.decided with
    | some d => some (d.reply a s)
    | none =>
      if c.full then some (setColl dd k { c with late := c.late ++ [a] } s)
      else if c.late? s.cycle then none
      else if c.agrees a then some (moveColl dd k (decisionPoint a dd) c' s)
      else some (decideColl dd k c' .mismatch s)

/-- A command reaches the collective engine of its die, which checks it. -/
def collArrive (die : Nat) (i : NetItem) (s : State) : Option State :=
  let s := s.modDie die (fun d => { d with collIn := d.collIn.drop 1 })
  let a : CollArr := { rank := collRank i.data, org := (entryOf i).org, core := coreOf i.src, msg := i.data }
  let chk := collCheck (s.launch i.launch).tier i.data
  if chk != 0 then
    if msgReply i.data then some (collReply a 0 0 chk s) else engineRun a.org s (Act.fault Cause.engineCmd)
  else collGather die i.launch i.ginst i.vcore a s

/-- The collective engine of a die works on commands of one EOP: a collective with every rank is performed, or the next command arrives. -/
def collEvent (die : Nat) (mine : Nat → Bool) (s : State) : Option State :=
  let d := s.die die
  match d.colls.findIdx? (fun c => mine (msgEop c.first) && c.decided.isNone && c.full && collPresent s c) with
  | some k =>
    match d.colls[k]? with
    | some c =>
      match performColl c s with
      | .ok (fl, s') => some (setColl die k { c with late := [], decided := some (.ok fl) } s')
      | .error r => r
    | none => none
  | none =>
    match d.collIn with
    | i :: _ => if mine (msgEop i.data) then collArrive die i s else none
    | [] => none

/-- Event ALLREDUCE; a command with an EOP of no kind is refused here. -/
def execAllreduce (die : Nat) (s : State) : Out := event (collEvent die (fun e => e != 2 && e != 3)) s
/-- Event REDUCE. -/
def execReduce (die : Nat) (s : State) : Out := event (collEvent die (fun e => e == 2)) s
/-- Event BCAST. -/
def execBcast (die : Nat) (s : State) : Out := event (collEvent die (fun e => e == 3)) s

/-- The lowest rank that has not arrived. -/
def missingRank (c : Coll) : Nat :=
  ((List.range (collLast c.first + 1)).find? (fun r => c.arrived.all (fun a => a.rank != r))).getD 0

/-- Event COLLECTIVE_TIMEOUT. -/
def execCollectiveTimeout (die index : Nat) (s : State) : Out := event (fun s =>
  match (s.die die).colls[index]? with
  | some c =>
    if c.decided.isNone && !c.full && c.late? s.cycle then some (decideColl die index c (.timeout (missingRank c)) s) else none
  | none => none) s

end Sys2Proof.Machine
end

