-- ==== Sys2Proof/Machine/Directory.lean ====
section
/-! DEFINITION. The events of the cross-die directory: requests, write-backs and probes (R403 to R407). Each waits for a hold of the line (R179). -/

namespace Sys2Proof.Machine

/-- Event DIR_READ: a request of a die that holds no copy of the line. -/
def execDirRead (die pa : Nat) (s : State) : Out := event (fun s =>
  if !dirAsks s die pa || heldByOther s none pa || (probeAnswer s die pa).isSome ||
      (die == homeDie pa && ((dirEntry s pa).st == .uncached || (dirEntry s pa).st == .shared)) then none
  else some (dirRead die pa s)) s

/-- Event DIR_WRITE: a request of a die that does not hold the line exclusively. -/
def execDirWrite (die pa : Nat) (s : State) : Out := event (fun s =>
  let own := probeAnswer s die pa
  if !dirAsks s die pa || heldByOther s none pa || own == some .m || own == some .e || (die == homeDie pa && (dirEntry s pa).st == .uncached) then none
  else some (dirWrite die pa s)) s

/-- Event DIR_WRITEBACK: modified data goes back to the home. An OWNED region keeps the die's presence; a line entry drops it. -/
def execDirWriteback (die pa : Nat) (s : State) : Out := event (fun s =>
  let own := probeAnswer s die pa
  if own != some .m && own != some .o then none
  else
    let e := dirEntry s pa
    let s' := giveUp die pa s
    match e.st with
    | .owned o => some (setDir pa { e with st := .owned o } s')
    | .split => some (dirSettle pa .split s')
    | _ => none) s

/-- Event DIR_PROBE: the probe reads the die's copies of the line's partition and nothing else; the answer is kept, none standing for "absent". -/
def execDirProbe (die pa : Nat) (s : State) : Out := event (fun s =>
  if dirAsks s die pa && !heldByOther s none pa then
    some (s.modDie die (fun d => { d with probed := some (pa / 64, probeAnswer s die pa) })) else none) s

end Sys2Proof.Machine
end

