-- ==== Sys2Proof/Machine/Fabric.lean ====
section
/-! DEFINITION. The load-store domain as this device meets it: a fabric access of its own that gets no answer (R412), and an access that another
device makes to it (R411). -/

namespace Sys2Proof.Machine

/-- Event FABRIC_TIMEOUT: POISON with the access's kind, and a machine check that names the aperture. -/
def execFabricTimeout (pslot aperture : Nat) (s : State) : Out := event (fun s =>
  let t := s.slot pslot
  match t.wait with
  | .fabric a k va since =>
    if t.st == .active && a == aperture && decide (since + fabricCycles ≤ s.cycle) then
      let s := fabricCheck a (partOf s pslot) (if isCtl pslot then 0 else (s.launch (t.launch.getD 0)).lid) pslot s
      some (raiseFault pslot (Cause.poison + k) (BitVec.ofNat 64 va) none s)
    else none
  | _ => none) s

/-- Whether partition `rpart` exports its memory to a partition of a device (R409, R411). -/
def exportsTo (s : State) (rpart fdev part : Nat) : Bool :=
  (List.range 31).any (fun k =>
    let e := rootEntry s (whoPart s rpart) (k + 1)
    testBit e 0 && testBit e 57 && bitsN e 51 42 == fdev && bitsN e 55 52 == part && bitsN e 63 58 == 0 && bitsN e 41 1 == 0)

/-- Whether this device accepts a fabric access (R411). -/
def fabricAccepts (s : State) (fdev part rpart pa n key : Nat) (ke : Bool) : Bool :=
  let e := s.part rpart
  e.en && exportsTo s rpart fdev part && rangeHas e pa && rangeHas e (pa + n - 1) &&
  (!ke || (decide (e.keybase ≤ key) && decide (key < e.keybase + e.keycount) && (memKey s key).isSome))

/-- What an accepted access does at the home: kinds 0, 1 and 4 read as many bytes as are given, 2 writes them, 3 answers the old bytes and writes the
new ones (R377's codes; log 42). The reply holds 0 and the bytes, or the cause with its kind. -/
def fabricServe (rpart pa kind : Nat) (q : Phys) (b : List Byte) (s : State) : State × (Nat × List Byte) :=
  let poisonAt := if kind = 2 then poisonPart s pa b.length else poisonIn s pa b.length
  match poisonAt with
  | some loc => (consumePoison s loc (homeDie pa) rpart 0 0, (Cause.poison + kind, []))
  | none =>
    let old := homeRead s pa b.length q.key
    if kind = 2 then (homeStore none q b s, (0, []))
    else if kind = 3 then (homeStore none q b s, (0, old))
    else (s, (0, old))

/-- Event FABRIC_ACCESS: an access from another device is accepted and performed at its home, or refused with PROTECTION. -/
def execFabricAccess (fdev part rpart pa kind key : Nat) (ke : Bool) (bytes : List Byte) (s : State) : Out := event (fun s =>
  if bytes.isEmpty || decide (64 < pa % 64 + bytes.length) || decide (4 < kind) || heldByOther s none pa then none
  else if !fabricAccepts s fdev part rpart pa bytes.length key ke then
    some (s.modBoard (fun b => { b with fabricReply := some (Cause.protection + kind, []) }))
  else
    let r := fabricServe rpart pa kind { loc := pa, key := if ke then some key else none } bytes s
    some (r.1.modBoard (fun b => { b with fabricReply := some r.2 }))) s

end Sys2Proof.Machine
end

