-- ==== Sys2Proof/Machine/Loader.lean ====
section
/-! DEFINITION. The loader (R98 to R110, R445): the parts of a ZOF file, the checks of R109 in order, the layout of an object's global memory, its
relocation, and the unloading of an object. -/

namespace Sys2Proof.Machine

/-! Statuses of a load (R109, R110). -/

namespace Load
def ok : Nat := 0
def badSig : Nat := 1
def badHdr : Nat := 2
def badSec : Nat := 3
def badReloc : Nat := 4
def range : Nat := 5
def frame : Nat := 6
def align : Nat := 7
def spad : Nat := 8
def feature : Nat := 9
def table : Nat := 10
def formula : Nat := 11
def cycle : Nat := 12
def noSpace : Nat := 13
def busy : Nat := 14
end Load

/-! ### The parts of a file (R98 to R108) -/

/-- A section table entry (R99). -/
structure Sec where
  kind : Nat
  align : Nat
  link : Nat
  off : Nat
  size : Nat
  mbz : Nat
  deriving DecidableEq, Repr

/-- The section table of a file; none where it does not lie within the file (R98). -/
def secsOf (b : List Byte) : Option (List Sec) :=
  let tab := fieldAt b 8 8
  let n := fieldAt b 16 2
  if b.length < 64 || decide (b.length < tab + 32 * n) then none
  else some ((List.range n).map (fun k =>
    let e := b.drop (tab + 32 * k)
    { kind := fieldAt e 4 1, align := fieldAt e 5 1, link := fieldAt e 6 2, off := fieldAt e 8 8, size := fieldAt e 16 8, mbz := fieldAt e 24 8 }))

/-- Check 2 (R98, R109): BADHDR also for an NSEC out of range and for a SECTAB that is no multiple of 8, which R109 does not name. FLAGS
bit 0 is not compared with the file's symbols, nor bit 1 with its SIGNATURE section. DESIGN CHOICE (log 108). -/
def fileHeaderOk (b : List Byte) : Bool :=
  fieldAt b 0 4 == 0x464F5A && fieldAt b 4 2 == 1 && fieldAt b 6 2 / 4 == 0 && fieldAt b 8 8 % 8 == 0 && fieldAt b 16 2 != 0 &&
  decide (fieldAt b 16 2 ≤ 4096) && zeroAt b 20 44 && (secsOf b).isSome

/-- The contents of a section. -/
def Sec.bytes (b : List Byte) (x : Sec) : List Byte := (b.drop x.off).take x.size

/-- A table cut into entries of `n` bytes. -/
def entries (n : Nat) (b : List Byte) : List (List Byte) := (List.range (b.length / n)).map (fun k => (b.drop (n * k)).take n)

/-- The tables of the JTABLES section (R103): the offset of each header. Padding that is missing or not zero, and fewer than 16 stray bytes at the end, no
check of R109 names: they are accepted. DESIGN CHOICE (log 108). -/
def jtableOffsets : Nat → Nat → List Byte → List Nat
  | 0, _, _ => []
  | f + 1, off, b =>
    if b.length < 16 then []
    else
      let states := if fieldAt b 5 1 ≤ 4 then 16 * 2 ^ fieldAt b 5 1 else 16
      let n := fieldAt b 8 4
      let data := if fieldAt b 4 1 = 0 then n * states else states * alignUp 16 ((n + 7) / 8)
      let k := alignUp 64 (16 + data)
      off :: jtableOffsets f (off + k) (b.drop k)

/-- What a load works on: the file, its sections, and where everything goes. -/
structure LoadFile where
  file : List Byte
  secs : List Sec
  base : Nat
  deriving DecidableEq, Repr

namespace LoadFile

/-- The contents of the only section of a kind as the file has them, before any relocation; empty where there is none. The layout and the relocations go by
these. -/
def rawBytes (f : LoadFile) (kind : Nat) : List Byte :=
  match f.secs.find? (fun x => x.kind == kind) with | some x => x.bytes f.file | none => []
def rawTable (f : LoadFile) (kind n : Nat) : List (List Byte) := entries n (f.rawBytes kind)
def handlers (f : LoadFile) : List (List Byte) := f.rawTable 3 16
def regions (f : LoadFile) : List (List Byte) := f.rawTable 4 24
def cells (f : LoadFile) : List (List Byte) := f.rawTable 5 40
def jbytes (f : LoadFile) : List Byte := f.rawBytes 6
def jtables (f : LoadFile) : List Nat := jtableOffsets (f.jbytes.length / 64 + 1) 0 f.jbytes
def symbols (f : LoadFile) : List (List Byte) := f.rawTable 9 24
def sec? (f : LoadFile) (k : Nat) : Option Sec := f.secs[k]?

/-! ### Layout (R93, R219, R221, R445; log 44) -/

/-- One group of sections placed from an address up: the address of each section of a kind, in file order, and the end. -/
def place (kind : Nat) : List Sec → Nat → Nat → List (Nat × Nat) × Nat
  | [], _, a => ([], a)
  | x :: r, k, a =>
    if x.kind = kind then
      let s := alignUp (if x.align < 8 then 256 else 2 ^ x.align) a
      let q := place kind r (k + 1) (s + x.size)
      ((k, s) :: q.1, q.2)
    else place kind r (k + 1) a

/-- Addresses of the code and data sections. -/
def codePlan (f : LoadFile) : List (Nat × Nat) × Nat := place 1 f.secs 0 f.base
def dataPlan (f : LoadFile) : List (Nat × Nat) × Nat := place 2 f.secs 0 (alignUp 65536 f.codePlan.2)
def secAddr (f : LoadFile) (k : Nat) : Nat := (KV.find? (f.codePlan.1 ++ f.dataPlan.1) k).getD 0

/-- Addresses of the Juggler tables, each at a multiple of 256: by the offset of the header. -/
def jtabPlace (f : LoadFile) : List Nat → Nat → List (Nat × Nat) × Nat
  | [], a => ([], a)
  | o :: r, a =>
    let s := alignUp 256 a
    let n := (match r with | x :: _ => x | [] => f.jbytes.length) - o
    let q := jtabPlace f r (s + n)
    ((o, s) :: q.1, q.2)
def jtabPlan (f : LoadFile) : List (Nat × Nat) × Nat := jtabPlace f f.jtables (alignUp 65536 f.dataPlan.2)

/-- The image size of a cell (R222). -/
def imageBytes (fmt rows cols : Nat) : Nat :=
  let n := rows * cols
  alignUp 16 ((n * fmtWidth fmt + 7) / 8) + (if fmt = 0x10 ∨ fmt = 0x11 ∨ fmt = 0x12 then alignUp 16 (n / 16 * 2) else 0)

def cellSz (c : List Byte) : Nat := imageBytes (fieldAt c 4 1) (fieldAt c 8 2) (fieldAt c 10 2)

/-- The cell table, and the buffers behind it. -/
def cellBase (f : LoadFile) : Nat := alignUp 65536 f.jtabPlan.2
def bufPlace : List (List Byte) → Nat → List Nat × Nat
  | [], a => ([], a)
  | c :: r, a =>
    let s := alignUp 256 a
    let q := bufPlace r (s + 3 * alignUp 256 (cellSz c))
    (s :: q.1, q.2)
def bufPlan (f : LoadFile) : List Nat × Nat :=
  if f.cells.isEmpty then ([], f.cellBase) else bufPlace f.cells (f.cellBase + 128 + 128 * f.cells.length + 64 * ovfRoom f.cells.length)

/-- The end of the object's global memory. -/
def top (f : LoadFile) : Nat := f.bufPlan.2

/-- Scratchpad addresses of the regions, in declaration order (R93). -/
def regPlace : List (List Byte) → Nat → List Nat × Nat
  | [], a => ([], a)
  | r :: rs, a =>
    let s := alignUp (2 ^ fieldAt r 8 1) a
    let q := regPlace rs (s + fieldAt r 4 4)
    (s :: q.1, q.2)
def regPlan (f : LoadFile) : List Nat × Nat := regPlace f.regions 0

/-! ### Symbols and relocations (R106, R107) -/

/-- A symbol's value (log 45); none for one that a relocation cannot resolve: of a region, cell or table that the file does not have, of a section that is
no CODE or DATA section, or of a BIND above 2 or a KIND above 5. A symbol that no relocation names is not looked at. DESIGN CHOICE (log 108). -/
def symValue (f : LoadFile) (y : List Byte) : Option Nat :=
  let v := fieldAt y 8 8
  let sec := fieldAt y 4 2
  if 2 < fieldAt y 6 1 then none
  else match fieldAt y 7 1 with
    | 2 => f.regPlan.1[v]?
    | 3 => if v < f.cells.length then some (f.cellBase + 128 + 128 * v) else none
    | 4 => KV.find? f.jtabPlan.1 v
    | 0 | 1 | 5 => if sec = 0xFFFF then some v else (KV.find? (f.codePlan.1 ++ f.dataPlan.1) sec).map (· + v)
    | _ => none

/-- The handler index a symbol names. -/
def symHandler (f : LoadFile) (y : List Byte) : Option Nat :=
  if fieldAt y 7 1 = 1 then f.handlers.findIdx? (fun h => fieldAt h 4 2 == fieldAt y 4 2 && fieldAt h 6 4 == fieldAt y 8 8) else none

/-- A symbol no load resolves. -/
def symExtern (y : List Byte) : Bool := fieldAt y 4 2 == 0xFFFE || fieldAt y 6 1 == 2

/-- Whether a 64-bit value is the sign extension of its low 32 bits. -/
def signed32 (v : Nat) : Bool := v % 2 ^ 64 == (BitVec.ofNat 32 v |>.signExtend 64).toNat

/-- What a relocation writes: the bytes; none where it is refused, also for reserved bytes that are not zero. `link` is the section patched. DESIGN CHOICE (log
108). -/
def relocBytes (f : LoadFile) (link : Nat) (r : List Byte) : Option (List Byte) :=
  match f.symbols[fieldAt r 8 4]?, f.sec? link with
  | some y, some x =>
    let off := fieldAt r 0 8
    let kind := fieldAt r 12 2
    let s := f.symValue y
    let v := (s.getD 0 + fieldAt r 16 8) % 2 ^ 64
    let rel := (v + 2 ^ 64 - (f.secAddr link + off + 2 ^ 64 - 8) % 2 ^ 64) % 2 ^ 64
    let put := fun (n w : Nat) (c : Bool) => if c && decide (off + n ≤ x.size) then some (leBytes n w) else none
    if symExtern y || s.isNone || fieldAt r 14 2 != 0 then none
    else match kind with
      | 1 => put 8 v true
      | 2 => put 4 v (signed32 v)
      | 3 => put 4 rel (signed32 rel && rel % 4 == 0)
      | 4 => put 8 rel (rel % 4 == 0)
      | 5 => put 4 v (fieldAt y 7 1 == 2 && decide (v < ownTop))
      | 6 => put 8 v (fieldAt y 7 1 == 2 && decide (v < ownTop))
      | 7 => match f.symHandler y with | some h => put 2 h true | none => none
      | 8 => put 2 (fieldAt y 8 8) (fieldAt y 7 1 == 3 && decide (fieldAt y 8 8 < f.cells.length))
      | 9 => put 8 v (fieldAt y 7 1 == 3 && decide (fieldAt y 8 8 < f.cells.length))
      | 10 => put 8 v (fieldAt y 7 1 == 4 && (KV.find? f.jtabPlan.1 (fieldAt y 8 8)).isSome)
      | _ => none
  | _, _ => none

/-- Every relocation with the section it patches. -/
def relocs (f : LoadFile) : List (Nat × List Byte) :=
  (f.secs.filter (fun x => x.kind == 10)).flatMap (fun x => (entries 24 (x.bytes f.file)).map (fun r => (x.link, r)))

/-- A section's contents with its relocations applied. -/
def relocated (f : LoadFile) (k : Nat) : List Byte :=
  match f.sec? k with
  | none => []
  | some x => f.relocs.foldl (fun b r =>
      if r.1 = k then (match f.relocBytes k r.2 with | some w => patch b (fieldAt r.2 0 8) w | none => b) else b) (x.bytes f.file)

/-- The contents of the only section of a kind, with the relocations that patch it applied (R107). -/
def patched (f : LoadFile) (kind : Nat) : List Byte :=
  match f.secs.findIdx? (fun x => x.kind == kind) with | some k => f.relocated k | none => []
def handlerTable (f : LoadFile) : List (List Byte) := entries 16 (f.patched 3)
def regionTable (f : LoadFile) : List (List Byte) := entries 24 (f.patched 4)
def cellTable (f : LoadFile) : List (List Byte) := entries 40 (f.patched 5)
def tableBytes (f : LoadFile) : List Byte := f.patched 6
def launches (f : LoadFile) : List (List Byte) := entries 96 (f.patched 7)

/-! ### The checks (R109) -/

/-- The end of what stands before an offset: the header, the section table, and the sections that begin there. -/
def endBefore (f : LoadFile) (off : Nat) : Nat :=
  let tab := fieldAt f.file 8 8
  (f.secs.filter (fun x => decide (x.off < off) && x.kind != 12)).foldl (fun n x => if n < x.off + x.size then x.off + x.size else n)
    (if tab < off && decide (64 < tab + 32 * f.secs.length) then tab + 32 * f.secs.length else 64)

/-- Check 1: the signature (R108). It begins at the first multiple of 8 behind what stands before it, and the bytes between are zero. -/
def sigOk (f : LoadFile) (required : Bool) : Bool :=
  match f.secs.find? (fun x => x.kind == 12) with
  | some x =>
    let b := x.bytes f.file
    let n := f.endBefore x.off
    x.off == alignUp 8 n && zeroAt f.file n (x.off - n) && x.size == 4659 && fieldAt b 0 4 == 1 && fieldAt b 4 4 == 4627 && zeroAt b 24 8 &&
    (match Config.monitorKey ((b.drop 8).take 16) with
     | some k => Config.mldsaVerify k (Config.sha3_512 (f.file.take x.off)) (b.drop 32)
     | none => false)
  | none => !required && !testBit (fieldAt f.file 6 2) 1

/-- Nothing of the file stands behind the signature (R99). -/
def sigLast (f : LoadFile) : Bool :=
  match f.secs.find? (fun x => x.kind == 12) with
  | some g => f.secs.all (fun x => x.kind == 12 || decide (x.off + x.size ≤ g.off)) && decide (fieldAt f.file 8 8 + 32 * f.secs.length ≤ g.off)
  | none => true

/-- Check 3: the sections (R99); BADSEC also for a STRSEC that names no STRINGS section, which R109 does not name. DESIGN CHOICE (log 108). -/
def secsOk (f : LoadFile) : Bool :=
  let single := [3, 4, 5, 6, 7, 8, 9, 11, 12]
  let unit := fun (k : Nat) => match k with | 3 => 16 | 4 => 24 | 5 => 40 | 7 => 96 | 8 => 16 | 9 => 24 | 10 => 24 | _ => 1
  f.secs.all (fun x => decide (1 ≤ x.kind) && decide (x.kind ≤ 12) && decide (x.align ≤ 12) && x.mbz == 0 && decide (x.off + x.size ≤ f.file.length) &&
    x.size % unit x.kind == 0 && (if x.kind = 10 then decide (x.link < f.secs.length) else x.link == 0)) &&
  single.all (fun k => decide ((f.secs.filter (fun x => x.kind == k)).length ≤ 1)) &&
  f.sigLast && ((f.sec? (fieldAt f.file 18 2)).any (fun x => x.kind == 11)) &&
  f.secs.all (fun x => x.kind != 8 || x.size == 16)

/-- Whether bytes of a DATA section hold an initial value. -/
def initOk (f : LoadFile) (sec off size : Nat) : Bool :=
  sec == 0xFFFF || (match f.sec? sec with | some x => x.kind == 2 && decide (off + size ≤ x.size) | none => false)

/-- The OR of every handler's FEAT. -/
def featAll (f : LoadFile) : Nat := f.handlerTable.foldl (fun n h => Nat.lor n (fieldAt h 11 1)) 0

def handlerOk (f : LoadFile) (h : List Byte) : Bool :=
  (match f.sec? (fieldAt h 4 2) with | some x => x.kind == 1 && decide (fieldAt h 6 4 < x.size) | none => false) &&
  testBit (fieldAt h 11 1) 0 && zeroAt h 12 4

/-- The ranges of a region's entry (R101); RANGE also for reserved bytes that are not zero. DESIGN CHOICE (log 108). -/
def regionOk (f : LoadFile) (r : List Byte) : Bool :=
  let n := fieldAt r 4 4
  decide (16 ≤ n) && decide (n ≤ 229376) && n % 16 == 0 && decide (4 ≤ fieldAt r 8 1) && decide (fieldAt r 8 1 ≤ 12) && fieldAt r 9 1 == 0 && zeroAt r 16 8 &&
  f.initOk (fieldAt r 10 2) (fieldAt r 12 4) n

/-- The ranges of a cell's entry (R102); RANGE also for an input cell that is iterative. DESIGN CHOICE (log 108). -/
def cellOk (f : LoadFile) (c : List Byte) : Bool :=
  let t := fieldAt c 4 1
  let np := fieldAt c 7 1
  (decide (t ≤ 0x0D) || isLb t) && decide (fieldAt c 5 1 ≤ 1) && (if fieldAt c 5 1 = 1 then decide (1 ≤ fieldAt c 6 1) && decide (1 ≤ np) else fieldAt c 6 1 == 0) &&
  decide (np ≤ 8) && decide (1 ≤ fieldAt c 8 2) && decide (fieldAt c 8 2 ≤ 4096) && decide (1 ≤ fieldAt c 10 2) && decide (fieldAt c 10 2 ≤ 4096) &&
  (!isLb t || fieldAt c 10 2 % 16 == 0) && (fieldAt c 12 2 == 0xFFFF) == (np == 0) && f.initOk (fieldAt c 14 2) (fieldAt c 16 4) (cellSz c) && zeroAt c 36 4 &&
  (List.range 8).all (fun k => decide (k < np) || fieldAt c (20 + 2 * k) 2 == 0xFFFF)

/-- The ranges of a Juggler table's header (R103); RANGE also for reserved bytes that are not zero. DESIGN CHOICE (log 108). -/
def jtableOk (f : LoadFile) (o : Nat) : Bool :=
  let b := f.tableBytes.drop o
  decide (fieldAt b 4 1 ≤ 1) && decide (fieldAt b 5 1 ≤ 4) && zeroAt b 6 2 && decide (1 ≤ fieldAt b 8 4) && decide (fieldAt b 8 4 ≤ 262144) &&
  (fieldAt b 4 1 == 1 || fieldAt b 12 4 == 0)

def launchOk (f : LoadFile) (l : List Byte) : Bool :=
  decide (fieldAt l 4 2 < f.handlers.length) && decide (fieldAt l 6 1 ≤ 4) && decide (fieldAt l 7 1 ≤ 7) && decide (fieldAt l 8 1 ≤ 63) && decide (fieldAt l 9 1 ≤ 3) &&
  fieldAt l 10 1 == f.featAll && decide (fieldAt l 11 1 ≤ 7) && zeroAt l 18 6 && zeroAt l 88 8

/-- Check 5: the ranges of R100 to R104, the feature note (R105) and the number of cells (R221). A NAME may be any string offset. DESIGN CHOICE (log 136). -/
def rangesOk (f : LoadFile) : Bool :=
  f.handlerTable.all f.handlerOk && f.regionTable.all f.regionOk && f.cellTable.all f.cellOk && decide (f.cells.length ≤ 65535) && f.jtables.all f.jtableOk &&
  f.launches.all f.launchOk && (entries 16 (f.patched 8)).all (fun b => fieldAt b 0 1 == f.featAll && zeroAt b 1 15)

/-- An instruction after which sequential decode stops (R109). -/
def endsDecode (opc : Nat) (e : Enc) : Bool :=
  e.ga.p == 0 && !e.ga.neg && e.gb.p == 0 && !e.gb.neg &&
  (opc == 0x25 || opc == 0x23 || opc == 0xEC || opc == 0x21 || (opc == 0x20 && e.v == 0) || (opc == 0x28 && e.v == 0))

/-- Sequential decode from an offset: checks 1, 2 and 6 of R81 on every instruction; bytes past the end of the section read as zero. DESIGN CHOICE (log 108). -/
def decodesFrom (b : List Byte) : Nat → Nat → Bool
  | 0, _ => true
  | n + 1, pc =>
    if b.length ≤ pc then true
    else
      let w := b.drop pc
      match rawOf (pc % 32) none w with
      | .error _ => false
      | .ok r => safePointOk r.opc r.enc && (endsDecode r.opc r.enc || decodesFrom b n (nextPc pc r.size))

/-- Check 7. -/
def codeOk (f : LoadFile) : Bool :=
  f.handlerTable.all (fun h =>
    let b := f.relocated (fieldAt h 4 2)
    fieldAt h 6 4 % 32 == 0 && decodesFrom b (b.length / 8 + 1) (fieldAt h 6 4))

/-- Check 8: regions end below the spill areas for the largest L1 of any launch (R93). -/
def spadOk (f : LoadFile) : Bool :=
  let l1 := f.launches.foldl (fun n l => if n < fieldAt l 11 1 then fieldAt l 11 1 else n) 0
  decide (f.regPlan.2 + 4096 + 32768 * l1 ≤ 393216)

/-- Check 10: the table rules of R96; TABLE also for a mask table whose MAPREF names no map table, or one of another SCODE or NSYM, which R109 does not
name. DESIGN CHOICE (log 108). -/
def jtableRules (f : LoadFile) (o : Nat) : Bool :=
  let b := f.tableBytes.drop o
  let st := 16 * 2 ^ fieldAt b 5 1
  let n := fieldAt b 8 4
  let row := alignUp 16 ((n + 7) / 8)
  if fieldAt b 4 1 = 0 then
    decide (16 + n * st ≤ b.length) &&
    (List.range n).all (fun k => (List.range st).all (fun i => decide (fieldAt b (16 + k * st + i) 1 < st)) && fieldAt b (16 + k * st) 1 == 0)
  else
    decide (16 + st * row ≤ b.length) && zeroAt b 16 row &&
    f.jtables.any (fun m => let d := f.tableBytes.drop m; m == fieldAt b 12 4 && fieldAt d 4 1 == 0 && fieldAt d 5 1 == fieldAt b 5 1 && fieldAt d 8 4 == n)

/-- The precedents of a cell table entry. -/
def precOf (c : List Byte) : List Nat := (List.range (fieldAt c 7 1)).map (fun k => fieldAt c (20 + 2 * k) 2)

/-- Check 11. -/
def formulaOk (f : LoadFile) : Bool :=
  f.cellTable.all (fun c => (fieldAt c 12 2 == 0xFFFF || decide (fieldAt c 12 2 < f.handlers.length)) && (precOf c).all (fun j => decide (j < f.cells.length)))

/-- The cells as loaded: generation 0 (R95, R220, R221). -/
def cellList (f : LoadFile) : List CellD :=
  let precs := f.cellTable.map precOf
  rerank (f.cellTable.mapIdx (fun i c =>
    let sz := cellSz c
    let sec := fieldAt c 14 2
    let va := f.bufPlan.1.getD i 0
    let init := if sec = 0xFFFF then List.replicate sz 0 else ((f.relocated sec).drop (fieldAt c 16 4)).take sz
    { fmt := fieldAt c 4 1, form := fieldAt c 7 1 != 0, iter := testBit (fieldAt c 5 1) 0, rounds := fieldAt c 6 1, rows := fieldAt c 8 2, cols := fieldAt c 10 2
      handler := fieldAt c 12 2, prec := precOf c
      dep := (List.range precs.length).filter (fun j => (precs.getD j []).contains i), sz := sz, bufA := init
      va := va, vb := va + alignUp 256 sz, vp := va + 2 * alignUp 256 sz }))

/-- Check 12. -/
def cyclesOk (f : LoadFile) : Bool :=
  let cs := f.cellList
  !(List.range cs.length).any (onCycle cs (fun j => !(cs.getD j {}).iter))

/-- Checks 3 to 12 in order; 0 where all pass. -/
def status (f : LoadFile) : Nat :=
  if !f.secsOk then Load.badSec
  else if !f.relocs.all (fun r => (f.relocBytes r.1 r.2).isSome) || f.symbols.any (fun y => symExtern y) then Load.badReloc
  else if !f.rangesOk then Load.range
  else if f.handlerTable.any (fun h => fieldAt h 10 1 % 4 != 0 || decide (24 < fieldAt h 10 1)) then Load.frame
  else if !f.codeOk then Load.align
  else if !f.spadOk then Load.spad
  else if f.launches.any (fun l => decide (255 < fieldAt l 10 1)) then Load.feature
  else if !f.jtables.all f.jtableRules then Load.table
  else if !f.formulaOk then Load.formula
  else if !f.cyclesOk then Load.cycle
  else Load.ok

end LoadFile

/-! ### The object in place (R110, R445) -/

/-- The pages of an address range. -/
def pagesOf (lo hi : Nat) : List Nat := if lo < hi then (List.range ((hi + 65535) / 65536 - lo / 65536)).map (fun k => (lo / 65536 + k) * 65536) else []

/-- The level-0 leaf of a page of a partition: where it stands, and its value. -/
def leafOfPage (s : State) (part va : Nat) : Option (Nat × Nat) :=
  match walk s (whoPart s part) va 3 (s.part part).proot.toNat with
  | some e => if e.level = 0 && pteAper e.pte = 0 then e.at_.map (fun a => (a, e.pte)) else none
  | none => none

/-- A page's leaf given the permissions of R445: R, W, X and ATTR; SUP clear. R445 leaves KE and KEY to partition policy, which the spec gives no form: the leaf
keeps those it has, as the partition's software has set them. DESIGN CHOICE (log 44). -/
def setLeaf (part : Nat) (w x : Bool) (attr : Nat) (s : State) (va : Nat) : State :=
  match leafOfPage s part va with
  | none => s
  | some (a, pte) =>
    let keep := pte - bitsN pte 3 1 * 2 - bitsN pte 5 5 * 32 - bitsN pte 49 48 * 2 ^ 48
    let new := keep + 2 + (if w then 4 else 0) + (if x then 8 else 0) + attr * 2 ^ 48
    homeStore none { loc := a } (leBytes 8 new) s

/-- Bytes placed at global addresses of a partition through its leaves, whatever they permit. -/
def placeBytes (part va : Nat) (b : List Byte) (s : State) : State :=
  (piecesOf va b.length).foldl (fun s x =>
    match leafOfPage s part x.1 with
    | none => s
    | some (_, pte) =>
      homeStore none { loc := ptePhys pte 0 x.1, key := if pteKe pte then some (pteKey pte) else none } ((b.drop (x.1 - va)).take x.2) s) s

/-- The object's memory mapped and filled: no unit keeps an older translation, and no core an older copy of its bytes (R110). -/
def placeObject (part : Nat) (f : LoadFile) (s : State) : State :=
  let code := pagesOf f.base f.codePlan.2
  let data := pagesOf (alignUp 65536 f.codePlan.2) f.dataPlan.2
  let jtab := pagesOf (alignUp 65536 f.dataPlan.2) f.jtabPlan.2
  let cell := pagesOf f.cellBase f.top
  let s := code.foldl (setLeaf part false true 0) s
  let s := (data ++ jtab).foldl (setLeaf part true false 0) s
  let s := cell.foldl (setLeaf part true false 2) s
  let s := { s with tlb := s.tlb.filter (fun e => e.part != part), cores := s.cores.map (fun (e : Nat × Core) => (e.1, { e.2 with l1 := [] })) }
  let s := (f.codePlan.1 ++ f.dataPlan.1).foldl (fun s (x : Nat × Nat) => placeBytes part x.2 (f.relocated x.1) s) s
  f.jtabPlan.1.foldl (fun s (x : Nat × Nat) =>
    let n := ((f.jtables.find? (fun o => decide (x.1 < o))).getD f.jbytes.length) - x.1
    placeBytes part x.2 ((f.tableBytes.drop x.1).take n) s) s

/-- The loaded object. -/
def objectOf (part id : Nat) (f : LoadFile) : Obj :=
  { part := part, id := id
    handlers := f.handlerTable.map (fun h => { addr := f.secAddr (fieldAt h 4 2) + fieldAt h 6 4, frame := fieldAt h 10 1, feat := fieldAt h 11 1 })
    regions := f.regionTable.mapIdx (fun i r =>
      { off := f.regPlan.1.getD i 0, size := fieldAt r 4 4
        init := if fieldAt r 10 2 = 0xFFFF then none else some (((f.relocated (fieldAt r 10 2)).drop (fieldAt r 12 4)).take (fieldAt r 4 4)) })
    launches := f.launches, table := if f.cells.isEmpty then none else some (objKey part id), base := f.base, size := f.top - f.base }

/-- The cell table of a loaded object (R219, R220). The view limit comes from the partition's LIM (R358). -/
def tableOf (s : State) (part die id : Nat) (f : LoadFile) : Table :=
  { part := part, base := f.cellBase, obj := id, home := die, vwlim := 2 ^ ((s.part part).lim.toNat / 2 ^ 8 % 64), cells := f.cellList
    pages := (pagesOf f.cellBase f.top).filterMap (fun p => (leafOfPage s part p).map (fun x => (p, ptePhys x.2 0 p))) }

/-- The status of a load, and the file's parts (R109). -/
def loadCheck (s : State) (part base : Nat) (file : List Byte) : Nat × Option LoadFile :=
  let req := (s.part part).sigreq
  match secsOf file with
  | none => (if req || testBit (fieldAt file 6 2) 1 then Load.badSig else Load.badHdr, none)
  | some secs =>
    let f : LoadFile := { file := file, secs := secs, base := base }
    if !f.sigOk req then (Load.badSig, none)
    else if !fileHeaderOk file then (Load.badHdr, none)
    else if f.status != 0 then (f.status, none)
    else if base % 65536 == 0 && decide (globalBase ≤ base) && (pagesOf base f.top).all (fun p => (leafOfPage s part p).isSome) then (Load.ok, some f)
    else (Load.noSpace, none)

/-- Event OBJECT_LOAD. A load whose object identifier is in use, or whose partition is not enabled, does nothing and posts no status: no check of R109 names
either. DESIGN CHOICE (log 108). -/
def execObjectLoad (part die objId base : Nat) (file : List Byte) (s : State) : Out := event (fun s =>
  if !(s.part part).en || (KV.find? s.objs (objKey part objId)).isSome || decide (4 ≤ die) then none
  else
    let c := loadCheck s part base file
    let s := s.modBoard (fun b => { b with loadStatus := c.1 })
    match c.2 with
    | none => some s
    | some f =>
      let s := placeObject part f s
      let k := objKey part objId
      let s := { s with objs := KV.set s.objs k (objectOf part objId f) }
      some (if f.cells.isEmpty then s else { s with tables := KV.set s.tables k (tableOf s part die objId f), frontier := KV.erase s.frontier (tableDomain k) })) s

/-- Whether a command that stands in a queue's ring, between HEAD and TAIL, names an object: it is QUEUED (R24). -/
def ringNames (s : State) (q : Queue) (objId : Nat) : Bool :=
  match runAct (readQcb q) s with
  | none => false
  | some (b, _) =>
    let n := diff32 (qcbTail b) q.head
    decide (n ≤ 2 ^ q.rlog) && (List.range n).any (fun k =>
      match runAct (partRead q.part (q.ring + 128 * ((q.head + k) % 2 ^ q.rlog)) 128) s with
      | some (c, _) => fieldAt c 8 8 == objId
      | none => false)

/-- A launch of an object is queued or unfinished (R110). -/
def objectBusy (s : State) (part objId : Nat) : Bool :=
  s.launches.any (fun (e : Nat × Launch) => e.2.objKey == objKey part objId) || s.queues.any (fun (e : Nat × Queue) => e.2.part == part && ringNames s e.2 objId)

/-- Event OBJECT_UNLOAD. The object's pages and bytes stay as they are, and an object that is not loaded is not unloaded: no status is posted. DESIGN CHOICE (log
127). -/
def execObjectUnload (part objId : Nat) (s : State) : Out := event (fun s =>
  let k := objKey part objId
  if (KV.find? s.objs k).isNone then none
  else if objectBusy s part objId then some (s.modBoard (fun b => { b with loadStatus := Load.busy }))
  else some { s.modBoard (fun b => { b with loadStatus := Load.ok }) with objs := KV.erase s.objs k, tables := KV.erase s.tables k }) s

end Sys2Proof.Machine
end

