-- ==== Sys2Proof/Machine/Privileged.lean ====
section
/-! DEFINITION. The privileged control registers, traps and interrupts, `halt`, `uipost`, translations and keys, and partitions (R336 to R361). -/

namespace Sys2Proof.Machine

/-! ### Shared operations -/

/-- A full fence at device scope (R360). -/
def fullFence (p : Nat) : Act Unit := do
  storesDone p
  acquireAt p 3

/-- The PSLOT word an instruction names (R342). -/
def pslotArg (p : Nat) (w : Word) : Act Nat := do
  let s ← Act.look id
  let c := (s.slot p).ctl
  Act.require (pslotOk w.toNat) Cause.illegalOperand
  Act.require (c.level != 1 || pslotIn s c.pid w.toNat) Cause.privilege
  pure w.toNat

/-- A status written to D, or discarded (R356). -/
def putStatus (p : Nat) (e : Enc) (st : Nat) : Act Flow := do
  writeX p e.d (BitVec.ofNat 64 st)
  pure .next

/-- A store made now, with the checks of a store of the slot (R360: the instruction is a full fence). -/
def storeDirect (p va : Nat) (b : List Byte) : Act Unit := do
  let s ← Act.look id
  let qs ← (piecesOf va b.length).mapM (fun x => do
    let q ← resolve (whoSlot s p) .store Need.write x.1 x.2
    let s ← Act.look id
    Act.ready (!heldByOther s (some p) q.loc)
    poisonGuard .store x.1 q x.2
    pure (q, x))
  qs.forM (fun y => Act.upd (homeStore (some (coreOf p)) y.1 ((b.drop (y.2.1 - va)).take y.2.2)))

/-- The clusters of a partition's entry, by device number. -/
def maskHas (e : Part) (cluster : Nat) : Bool := (KV.get (0 : Word) e.clmask (cluster / 64)).getLsbD (cluster % 64)
/-- The number of a control core: 4 * die + core (R343). -/
def ccNumber (p : Nat) : Nat := 4 * dieOf p + p / 16 % 8
def maskHasCc (e : Part) (cc : Nat) : Bool := testBit e.ccmask cc

/-! ### The registers (R341) -/

/-- Whether a number names a register. -/
def pregListed (n : Nat) : Bool :=
  decide (n ≤ 5) || (decide (0x100 ≤ n) && decide (n ≤ 0x104)) || (decide (0x108 ≤ n) && decide (n ≤ 0x10A)) || n == 0x10C || n == 0x10D ||
  (decide (0x110 ≤ n) && decide (n ≤ 0x113)) || n / 0x20 == 0x10 || n / 0x10 == 0x30 || (decide (0x310 ≤ n) && decide (n ≤ 0x313)) ||
  n / 0x40 == 0x10 || n / 0x40 == 0x14

/-- Whether the table permits an access of a listed register at a level; at S a cluster's register belongs to a cluster of the partition PID. -/
def pregPermits (s : State) (p : Nat) (write : Bool) (n : Nat) : Bool :=
  let c := (s.slot p).ctl
  let m := c.level == 2
  let own := m || maskHas (s.part c.pid) (64 * dieOf p + n % 0x40)
  if n ≤ 0x104 then true
  else if n = 0x108 then m || !write
  else if n = 0x109 ∨ n = 0x10D then !write
  else if n = 0x10A ∨ n = 0x10C then true
  else if 0x110 ≤ n ∧ n ≤ 0x113 then m
  else if n / 0x20 = 0x10 then true
  else if n / 0x10 = 0x30 then m
  else if 0x310 ≤ n ∧ n ≤ 0x313 then m || !write
  else if n / 0x40 = 0x10 then own
  else m || (!write && own)

/-- PSTAT (R337). -/
def pstatWord (c : Ctl) : Word := BitVec.ofNat 64 (c.level + c.spl * 4 + c.mpl * 16 + c.sie.toNat * 64 + c.mie.toNat * 128)

/-- A write of PSTAT: MIE and MPL only at M; MPL 3 is taken as 2, SPL 2 and 3 as 1. -/
def pstatWrite (w : Word) (c : Ctl) : Ctl :=
  let v := w.toNat
  let c := { c with sie := testBit v 6, spl := if bitsN v 3 2 < 2 then bitsN v 3 2 else 1 }
  if c.level = 2 then { c with mie := testBit v 7, mpl := if bitsN v 5 4 < 3 then bitsN v 5 4 else 2 } else c

/-- PCTL of an entry (R343). -/
def pctlWord (e : Part) : Word :=
  BitVec.ofNat 64 (e.err * 2 ^ 60 + e.en.toNat * 2 ^ 59 + e.sigreq.toNat * 2 ^ 58 + e.vf * 2 ^ 54 + e.ccmask * 2 ^ 38 + e.rquota * 2 ^ 29 +
    e.keybase * 2 ^ 16 + e.keycount)

/-- The fields of PCTL other than ERR and EN. -/
def pctlFields (v : Nat) (e : Part) : Part :=
  { e with sigreq := testBit v 58, vf := bitsN v 57 54, ccmask := bitsN v 53 38, rquota := bitsN v 37 29, keybase := bitsN v 28 16
           keycount := bitsN v 13 0 }

/-- The flags now held in the FCS of the ACTIVE or PARKED slots of a cluster (R53, LIVE). -/
def liveFlags (s : State) (cluster : Nat) : Fl :=
  s.slots.foldl (fun f e => if !isCtl e.1 && clusterOf e.1 == cluster && (e.2.st == .active || e.2.st == .parked) then f ||| Fcs.flags e.2.fcs else f) 0

/-- CLFLG. -/
def clflgWord (s : State) (cluster : Nat) : Word :=
  BitVec.ofNat 64 ((s.cluster cluster).sticky.toNat * 256 + (liveFlags s cluster).toNat)

/-- VMAP: the core that runs the queried virtual core of the partition PID now. -/
def vmapWord (s : State) (c : Ctl) : Word :=
  let q := c.vmapq.toNat
  let lk := launchKey c.pid (bitsN q 63 48)
  match List.find? (fun (e : Nat × GInst) => e.2.launch == lk && e.2.num == bitsN q 47 32 && !e.2.formula && (KV.find? s.launches lk).isSome) s.ginsts with
  | some e =>
    match KV.find? e.2.cores (bitsN q 10 0) with
    | some core => BitVec.ofNat 64 (2 ^ 63 + core)
    | none => 0
  | none => 0

/-- The fields of registers that hold less than a word. -/
def maskPage : Word := 0x0000FFFFFFFFF000
def maskVmapq : Word := 0xFFFFFFFF000007FF
def maskPmpc : Word := 0x0000FFFFFFFFF00F
def maskRange : Word := 0x3FF03FF
def maskLim : Word := 0x1F3F
def maskClperm : Word := 0xFFFF

/-- The value of a listed register for a slot. None gives the core's counter of discarded packets (R126). DESIGN CHOICE (log 138). -/
def pregRead (s : State) (p n : Nat) : Word :=
  let c := (s.slot p).ctl
  let e := s.part s.ptsel
  if n ≤ 5 then crdValue s p n
  else if n = 0x100 then pstatWord c
  else if n = 0x101 then c.sepc
  else if n = 0x102 then c.scause
  else if n = 0x103 then c.sval
  else if n = 0x104 then c.svec
  else if n = 0x108 then BitVec.ofNat 64 c.pid
  else if n = 0x109 then BitVec.ofNat 64 p
  else if n = 0x10A then c.ptbase
  else if n = 0x10C then c.vmapq
  else if n = 0x10D then vmapWord s c
  else if n = 0x110 then c.mepc
  else if n = 0x111 then c.mcause
  else if n = 0x112 then c.mval
  else if n = 0x113 then c.mvec
  else if n / 0x20 = 0x10 then (if n % 2 = 0 then KV.get 0 c.pmpb (n % 0x20 / 2) else KV.get 0 c.pmpc (n % 0x20 / 2))
  else if n = 0x300 then BitVec.ofNat 64 s.ptsel
  else if n = 0x301 then pctlWord e
  else if n ≤ 0x305 then KV.get 0 e.clmask (n - 0x302)
  else if n ≤ 0x30D then KV.get 0 e.prange (n - 0x306)
  else if n = 0x30E then e.proot
  else if n = 0x30F then e.lim
  else if n ≤ 0x313 then (s.die (n - 0x310)).outsvc
  else if n / 0x40 = 0x10 then clflgWord s (64 * dieOf p + n % 0x40)
  else (s.cluster (64 * dieOf p + n % 0x40)).clperm

/-- A write of a register that has no behaviour of its own (R7, R341). -/
def pregSet (p n : Nat) (w : Word) (s : State) : State :=
  let ctl := fun (f : Ctl → Ctl) => s.modSlot p (fun t => { t with ctl := f t.ctl })
  let part := fun (f : Part → Part) => s.modPart s.ptsel f
  let cl := 64 * dieOf p + n % 0x40
  if n ≤ 5 then cwrIn p n w s
  else if n = 0x100 then ctl (pstatWrite w)
  else if n = 0x101 then ctl (fun c => { c with sepc := w })
  else if n = 0x102 then ctl (fun c => { c with scause := w })
  else if n = 0x103 then ctl (fun c => { c with sval := w })
  else if n = 0x104 then ctl (fun c => { c with svec := w })
  else if n = 0x108 then ctl (fun c => { c with pid := w.toNat % 16 })
  else if n = 0x10A then ctl (fun c => { c with ptbase := w &&& maskPage })
  else if n = 0x10C then ctl (fun c => { c with vmapq := w &&& maskVmapq })
  else if n = 0x110 then ctl (fun c => { c with mepc := w })
  else if n = 0x111 then ctl (fun c => { c with mcause := w })
  else if n = 0x112 then ctl (fun c => { c with mval := w })
  else if n = 0x113 then ctl (fun c => { c with mvec := w })
  else if n / 0x20 = 0x10 then
    (if n % 2 = 0 then ctl (fun c => { c with pmpb := KV.set c.pmpb (n % 0x20 / 2) (w &&& maskPage) })
     else ctl (fun c => { c with pmpc := KV.set c.pmpc (n % 0x20 / 2) (w &&& maskPmpc) }))
  else if n = 0x300 then { s with ptsel := w.toNat % 16 }
  else if 0x302 ≤ n ∧ n ≤ 0x305 then part (fun e => { e with clmask := KV.set e.clmask (n - 0x302) w })
  else if 0x306 ≤ n ∧ n ≤ 0x30D then part (fun e => { e with prange := KV.set e.prange (n - 0x306) (w &&& maskRange) })
  else if n = 0x30E then part (fun e => { e with proot := w &&& maskPage })
  else if n = 0x30F then part (fun e => { e with lim := w &&& maskLim })
  else if n / 0x40 = 0x10 then s.modCluster cl (fun c => { c with sticky := c.sticky &&& ~~~(w.extractLsb' 8 6) })
  else if n / 0x40 = 0x14 then s.modCluster cl (fun c => { c with clperm := w &&& maskClperm })
  else s

/-- Registers whose write does more than set fields: PCTL and OUTSVC. -/
def pregActs (n : Nat) : Bool := n == 0x301 || n / 4 == 0xC4

/-- A field of an entry that may be written only while EN = 0 (R344). -/
def pregLocked (s : State) (n : Nat) : Bool := decide (0x302 ≤ n) && decide (n ≤ 0x30E) && (s.part s.ptsel).en

/-! ### Enabling and resetting a partition (R344, R345) -/

/-- The clusters named by a mask. -/
def clustersOf (e : Part) : List Nat := (List.range 256).filter (maskHas e)
def ccsOf (e : Part) : List Nat := (List.range 16).filter (maskHasCc e)

/-- The ranges of an entry in use: base and end. -/
def rangesOf (e : Part) : List (Nat × Nat) :=
  ((e.prange.map (fun r => (r.2.toNat % 2 ^ 10 * 2 ^ 30, (r.2.toNat % 2 ^ 10 + r.2.toNat / 2 ^ 16 % 2 ^ 10) * 2 ^ 30)))).filter (fun r => decide (r.1 < r.2))

/-- A range within one stack's populated HBM. -/
def rangeOk (s : State) (r : Nat × Nat) : Bool := populated s r.1 && populated s (r.2 - 1) && r.1 / 2 ^ 37 == (r.2 - 1) / 2 ^ 37
def rangesMeet (a b : Nat × Nat) : Bool := decide (a.1 < b.2) && decide (b.1 < a.2)
/-- No two ranges of a list overlap. -/
def apart : List (Nat × Nat) → Bool
  | [] => true
  | r :: rest => rest.all (fun x => !rangesMeet r x) && apart rest

/-- The other enabled partitions. -/
def othersEnabled (s : State) (n : Nat) : List Part := (s.parts.filter (fun e => e.1 != n && e.2.en)).map Prod.snd

/-- The first failing check of R344; 0 when all pass. -/
def enableCheck (s : State) (n : Nat) : Nat :=
  let e := s.part n
  let os := othersEnabled s n
  let cs := clustersOf e
  if cs.isEmpty || cs.any (fun c => (s.die (c / 64)).outsvc.getLsbD (c % 64) || os.any (fun o => maskHas o c)) then 1
  else if (ccsOf e).isEmpty || (ccsOf e).any (fun c => os.any (fun o => maskHasCc o c)) then 2
  else if !((rangesOf e).all (rangeOk s) && apart (rangesOf e) && (rangesOf e).all (fun r => os.all (fun o => (rangesOf o).all (fun x => !rangesMeet r x)))) then 3
  else if !(decide (e.keybase + e.keycount ≤ 8192) &&
      os.all (fun o => decide (o.keybase + o.keycount ≤ e.keybase) || decide (e.keybase + e.keycount ≤ o.keybase) || o.keycount == 0 || e.keycount == 0)) then 4
  else 0

/-- The scratchpad of a core cleared: bytes zero, granules empty. -/
def clearSpad (core : Nat) (s : State) : State :=
  let mine := fun (loc : Nat) => decide (spadLoc core 0 ≤ loc) && decide (loc < spadLoc core 0 + 2 ^ 20)
  { s with
    mem := s.mem.filter (fun (c : Host.Cell) => !mine c.1)
    fe := s.fe.filter (fun (c : Nat × Bool) => !mine (c.1 * 16))
    poison := s.poison.filter (fun (c : Nat × Bool) => !mine (c.1 * 16)) }

/-- The named regions that launches which have ended and not posted still have on a core, cleared too; nothing of them is left there when such a launch posts. -/
def clearCopies (core : Nat) (s : State) : State :=
  let s := s.ginsts.foldl (fun s (g : Nat × GInst) => (g.2.cores.filter (fun c => c.2 == core)).foldl (fun s c => clearCopy g.1 c.1 s) s) s
  { s with ginsts := s.ginsts.map (fun g => (g.1, { g.2 with cores := g.2.cores.filter (fun c => c.2 != core) })) }

/-- Every buffered store of a slot performed at its home, in order. -/
def flushStores (p : Nat) (s : State) : State :=
  let st := (s.slot p).store
  st.foldl (fun s x => performAt p x s) (s.modSlot p (fun t => { t with store := [] }))

/-- The register files, window, spill state, channels and streams of a slot cleared; its program counter and privileged registers stay, and q7 stays the
interrupt channel (R345, R372). -/
def Slot.cleared (t : Slot) : Slot :=
  { t with xg := [], win := [], v := [], preds := 0, chans := [(7, { kind := .input })], strms := [], offs := 0, frames := [], replies := 0, wait := .none, loads := [] }

/-- A core cleared as it passes to another partition (R345). An ACTIVE slot of a control core keeps its program counter, level and control registers.
DEDUCED (log 65). -/
def clearCore (core : Nat) (s : State) : State :=
  let s := (List.range 4).foldl (fun s k => flushStores (core + k) s) s
  let s := clearCopies core (clearSpad core s)
  let s := (List.range 4).foldl (fun s k =>
    if isCtl core && (s.slot (core + k)).st == .active then s.modSlot (core + k) Slot.cleared else s.setSlot (core + k) { ctl := { level := 0 } }) s
  s.modCore core (fun c => { discarded := c.discarded })

/-- The clusters and control cores that an entry takes from a different partition, cleared and recorded as the entry's. -/
def takeOver (n : Nat) (s : State) : State :=
  let e := s.part n
  let s := (clustersOf e).foldl (fun s c =>
    let s := match (s.cluster c).lastPart with
      | some m => if m != n then ((clusterCores c).foldl (fun s k => clearCore k s) s).modCluster c (fun x => { x with sticky := 0 }) else s
      | none => s
    s.modCluster c (fun x => { x with lastPart := some n })) s
  (ccsOf e).foldl (fun s c =>
    let core := 0x8000 + c / 4 * 2 ^ 13 + c % 4 * 16
    let s := match KV.find? (s.die (c / 4)).ccLast (c % 4) with
      | some m => if m != n then clearCore core s else s
      | none => s
    s.modDie (c / 4) (fun d => { d with ccLast := KV.set d.ccLast (c % 4) n })) s

/-- A write of EN = 1 to an entry with EN = 0. -/
def enablePartition (n : Nat) (s : State) : State :=
  let k := enableCheck s n
  if k != 0 then s.modPart n (fun e => { e with err := k })
  else (takeOver n s).modPart n (fun e => { e with en := true, err := 0 })

/-- The commands a queue has not taken are dropped (R344). -/
def emptyQueue (k : Nat) (s : State) : State :=
  let q := s.queue k
  match readQcb q s with
  | .ok (b, s) =>
    let q := { q with head := qcbTail b }
    tryAct q.part (partWrite q.part (q.qcb + 4) (leBytes 4 q.head)) { s with queues := KV.set s.queues k q }
  | .error e => poisonMet q.part e s

/-- A write of EN = 0: every launch ends with PARTITION, queues are emptied, region slots and the partition's control-core slots become FREE.
A slot at level M runs the monitor and is no slot of the partition. -/
def resetPartition (n : Nat) (s : State) : State :=
  let s := s.launches.foldl (fun s (e : Nat × Launch) =>
    if e.2.part == n then launchFault e.1 { cause := Cause.partition, detail := 0, where_ := 0, ginst := 0 } s else s) s
  let s := s.queues.foldl (fun s (e : Nat × Queue) => if e.2.part == n then emptyQueue e.1 s else s) s
  let s := abortRegions ((s.rslots.filter (fun e => e.2.live && e.2.part == n)).map (fun e => (e.1, 8))) s
  let e := s.part n
  let s := { s with slots := s.slots.map (fun (x : Nat × Slot) =>
    (x.1, if isCtl x.1 && maskHasCc e (ccNumber x.1) && x.2.ctl.level != 2 then x.2.freed else x.2)) }
  s.modPart n (fun e => { e with en := false, image := 0, imageDigest := [] })

/-- A write of PCTL (R344). -/
def pctlWrite (w : Word) : Act Unit := do
  let s ← Act.look id
  let n := s.ptsel
  let e := s.part n
  let v := w.toNat
  if e.en then
    Act.require (pctlFields v e == e) Cause.illegalOperand
    if testBit v 59 then pure () else Act.upd (resetPartition n)
  else do
    Act.upd (fun s => s.modPart n (pctlFields v))
    if testBit v 59 then Act.upd (enablePartition n) else pure ()

/-! ### Clusters out of service (R346) -/

/-- Whether a launch has an act or an engine entry on a cluster. -/
def usesCluster (s : State) (l c : Nat) : Bool :=
  let mine := fun (q : List Entry) => q.any (fun e => e.org.launch == l)
  s.slots.any (fun e => !isCtl e.1 && clusterOf e.1 == c && e.2.ofLaunch l) ||
  s.cores.any (fun e => !isCtl e.1 && clusterOf e.1 == c && (mine e.2.copyq || mine e.2.mx.queue || mine e.2.jug.queue)) || mine (s.cluster c).sdq

/-- A cluster of a die taken out of service. -/
def outOfService (die k : Nat) (s : State) : State :=
  if (s.die die).outsvc.getLsbD k then s
  else
    let c := 64 * die + k
    let ls := (s.launches.filter (fun e => usesCluster s e.1 c)).map Prod.fst
    let s := s.modDie die (fun d => { d with outsvc := d.outsvc ||| (1#64 <<< k) })
    let s := { s with parts := s.parts.map (fun (e : Nat × Part) =>
      (e.1, if e.2.en && maskHas e.2 c then { e.2 with clmask := KV.set e.2.clmask die (KV.get 0 e.2.clmask die &&& ~~~(1#64 <<< k)) } else e.2)) }
    ls.foldl (fun s l => launchFault l { cause := Cause.service, detail := 0, where_ := 0, ginst := 0 } s) s

/-- The bits that a write to OUTSVC sets. -/
def setOutsvc (die : Nat) (w : Word) (s : State) : State :=
  (List.range 64).foldl (fun s k => if w.getLsbD k then outOfService die k s else s) s

/-! ### `pcrd` and `pcwr` -/

/-- `pcrd`. -/
def execPcrd (e : Enc) (s : State) : Out := issue 0xEA e (fun p => do
  let s ← Act.look id
  let n := e.imm32 % 2 ^ 12
  Act.require (pregListed n) Cause.illegalInstruction
  Act.require (pregPermits s p false n) Cause.privilege
  writeX p e.d (pregRead s p n)
  pure .next) s

/-- `pcwr`, whole, `.set` or `.clr`. For a W1C field, R356 says only "field by field under R7": the value written to it by `.set` is the old value OR X(A), by
`.clr` the old value AND NOT X(A), so that `.clr` clears the set bits that X(A) does not name. DESIGN CHOICE (log 104). -/
def execPcwr (e : Enc) (s : State) : Out := issue 0xEB e (fun p => do
  operandsBound p e
  let n := e.imm32 % 2 ^ 12
  Act.require (pregListed n) Cause.illegalInstruction
  let a ← readX p e.a
  let s ← Act.look id
  Act.require (pregPermits s p true n) Cause.privilege
  let w := cwrValue e.v (pregRead s p n) a
  if n = 0x301 then pctlWrite w
  else if pregActs n then Act.upd (setOutsvc (n - 0x310) w)
  else do
    Act.require (!pregLocked s n) Cause.illegalOperand
    Act.upd (pregSet p n w)
  pure .next) s

/-- Event REGISTER_WRITE: a write to a register without behaviour of its own, by an ACTIVE control-core slot that may make it. -/
def execRegisterWrite (pslot num : Nat) (value : Word) (s : State) : Out := event (fun s =>
  if isCtl pslot && (s.slot pslot).st == .active && (s.slot pslot).ctl.level != 0 && pregListed num && pregPermits s pslot true num &&
      !pregActs num && !pregLocked s num then
    some (pregSet pslot num value s)
  else none) s

/-- Event PARTITION_ENABLE: by the monitor, which runs from stage S2 on (R434). -/
def execPartitionEnable (part : Nat) (s : State) : Out := event (fun s =>
  if part < 16 ∧ (s.part part).en = false ∧ s.board.stage = .s2 then some (enablePartition part s) else none) s

/-- Event PARTITION_DISABLE. -/
def execPartitionDisable (part : Nat) (s : State) : Out := event (fun s =>
  if (s.part part).en then some (resetPartition part s) else none) s

/-- Event VF_RESET: a virtual function is enabled while its partition is in stage S3 (R434). -/
def execVfReset (vf : Nat) (s : State) : Out := event (fun s =>
  match List.find? (fun (e : Nat × Part) => e.2.booted && e.2.vf == vf) s.parts with
  | some e => some (((resetPartition e.1 s).modPart e.1 (fun x => { x with en := true })).modBoard (fun b => { b with vfreset := true }))
  | none => none) s

/-- Event OUTSVC_SET: by the monitor, which runs from stage S2 on (R434). -/
def execOutsvcSet (die : Nat) (bits : Word) (s : State) : Out := event (fun s =>
  if die < 4 ∧ s.board.stage = .s2 then some (setOutsvc die bits s) else none) s

/-! ### Traps, returns, interrupts -/

/-- `eret`: at S or M. A target that breaks R61 raises PC-ALIGN at the new level, at this instruction. -/
def execEret (e : Enc) (s : State) : Out := issue 0xEC e (fun p => do
  let t ← Act.slot p
  let a := eretTarget t.ctl
  Act.modSlot p (fun t => { t with ctl := eretCtl t.ctl, wait := .none, reexec := false, safe := false })
  if pcAligned a then Act.modSlot p (fun t => { t with pc := a })
  else Act.modSlot p (fun t => trapTo (trapTarget t.ctl.level Cause.pcAlign) false Cause.pcAlign (BitVec.ofNat 64 t.pc) 0 t)
  pure .settled) s

/-- `mcall`: a trap to M from S and M; PRIVILEGE at P. -/
def execMcall (e : Enc) (s : State) : Out := issue 0xED e (fun p => do
  let t ← Act.slot p
  Act.require (t.ctl.level != 0) Cause.privilege
  Act.modSlot p (fun t => trapTo 2 false Cause.mcall (BitVec.ofNat 64 (nextOf e t.pc)) (BitVec.ofNat 64 e.imm32) t)
  pure .settled) s

/-- `scall`: a trap to S from P and S; PRIVILEGE at M. -/
def execScall (e : Enc) (s : State) : Out := issue 0xEE e (fun p => do
  let t ← Act.slot p
  Act.require (t.ctl.level != 2) Cause.privilege
  Act.modSlot p (fun t => trapTo 1 false Cause.scall (BitVec.ofNat 64 (nextOf e t.pc)) (BitVec.ofNat 64 e.imm32) t)
  pure .settled) s

/-- Event TRAP_TAKEN: a trap of an ACTIVE control-core slot with a listed code. `scall` at M and `mcall` at P raise PRIVILEGE; the address
saved of a call is the one after its 12 bytes. -/
def execTrapTaken (pslot code : Nat) (value : Word) (s : State) : Out := event (fun s =>
  let t := s.slot pslot
  let lv := t.ctl.level
  if !isCtl pslot || t.st != .active || !causeListed code then none
  else if (code == Cause.scall && lv == 2) || (code == Cause.mcall && lv == 0) then
    some (s.modSlot pslot (trapTo (trapTarget lv Cause.privilege) false Cause.privilege (BitVec.ofNat 64 t.pc) 0))
  else
    let call := code == Cause.scall || code == Cause.mcall
    some (s.modSlot pslot (trapTo (trapTarget lv code) false code (BitVec.ofNat 64 (if call then nextPc t.pc 12 else t.pc))
      (if call then value else trapValue code value)))) s

/-- The interrupts pending at M, lowest code first. -/
def pendingM (s : State) : Option Nat :=
  if s.board.mcheck then some 0 else if s.board.mailbox then some 1 else if s.board.vfreset then some 2 else none

/-- The interrupts pending at S for a partition, lowest code first. -/
def pendingS (e : Part) : Option Nat := if e.pendDebug then some 3 else if e.pendQueue then some 4 else none

/-- The interrupt a control-core slot takes now (R340): an M interrupt by any control core, an S interrupt by a control core of its partition. -/
def interruptFor (s : State) (p : Nat) : Option Nat :=
  let c := (s.slot p).ctl
  match (if c.level != 2 || c.mie then pendingM s else none) with
  | some k => some k
  | none => if (c.level == 0 || (c.level == 1 && c.sie)) && maskHasCc (s.part c.pid) (ccNumber p) then pendingS (s.part c.pid) else none

/-- A pending interrupt is no longer pending. -/
def clearPending (pid k : Nat) (s : State) : State :=
  match k with
  | 0 => s.modBoard (fun b => { b with mcheck := false })
  | 1 => s.modBoard (fun b => { b with mailbox := false })
  | 2 => s.modBoard (fun b => { b with vfreset := false })
  | 3 => s.modPart pid (fun e => { e with pendDebug := false })
  | _ => s.modPart pid (fun e => { e with pendQueue := false })

/-- Event INTERRUPT_TAKEN: a trap, and an acquire at device scope (R360, R371). -/
def execInterruptTaken (pslot : Nat) (s : State) : Out := event (fun s =>
  let t := s.slot pslot
  if !isCtl pslot || t.st != .active || t.wait.over then none
  else match interruptFor s pslot with
    | none => none
    | some k =>
      some ((acquired pslot 3 (clearPending t.ctl.pid k s)).modSlot pslot (trapTo (if k < 3 then 2 else 1) true k (BitVec.ofNat 64 t.pc) 0))) s

/-- `idle`: not ready until an interrupt is pending for the slot's partition at any level. -/
def execIdle (e : Enc) (s : State) : Out := issue 0xFA e (fun p => do
  let s ← Act.look id
  Act.ready ((pendingM s).isSome || (pendingS (s.part (s.slot p).ctl.pid)).isSome)
  pure .next) s

/-! ### Translations and caches -/

/-- Whether a cached translation maps an address. -/
def Tlb.covers (e : Tlb) (va : Nat) : Bool := e.level != 3 && e.page * 2 ^ 16 / 2 ^ leafBits e.level == va / 2 ^ leafBits e.level

/-- Every access translated through an entry of the named ones has been performed: buffered stores, loads under way, and the versions of regions.
`mine` takes a partition, an address and the level of the leaf (R360). -/
def translatedDone (s : State) (mine : Nat → Nat → Nat → Bool) : Bool :=
  s.slots.all (fun e => e.2.store.all (fun x => isSpad x.loc || !mine x.part x.va x.level) &&
    e.2.loads.all (fun x => isSpad x.loc || !mine x.part x.va x.level)) &&
  s.versions.all (fun v => !mine (s.rslot v.rslot).part v.va v.level)

/-- Translations removed: after the slot's stores and every access made through them. -/
def removeTlb (p : Nat) (named : Tlb → Bool) (mine : Nat → Nat → Nat → Bool) : Act Unit := do
  storesDone p
  let s ← Act.look id
  Act.ready (translatedDone s mine)
  Act.upd (fun s => { s with tlb := s.tlb.filter (fun e => !named e) })

/-- `tlbi.va`: at every level of page size. -/
def execTlbiVa (e : Enc) (s : State) : Out := issue 0xEF e (fun p => do
  let a ← readX p e.a
  let t ← Act.slot p
  removeTlb p (fun e => e.part == t.ctl.pid && e.covers a.toNat)
    (fun n va level => n == t.ctl.pid && va / 2 ^ leafBits level == a.toNat / 2 ^ leafBits level)
  pure .next) s

/-- `tlbi.part`. -/
def execTlbiPart (e : Enc) (s : State) : Out := issue 0xEF e (fun p => do
  let b ← readX p e.b
  let t ← Act.slot p
  Act.require (decide (b.toNat ≤ 15)) Cause.illegalOperand
  Act.require (t.ctl.level == 2 || b.toNat == t.ctl.pid) Cause.privilege
  removeTlb p (fun e => e.part == b.toNat) (fun n _ _ => n == b.toNat)
  pure .next) s

/-- `tlbi.dev`. -/
def execTlbiDev (e : Enc) (s : State) : Out := issue 0xEF e (fun p => do
  removeTlb p (fun _ => true) (fun _ _ _ => true)
  pure .next) s

/-- The line of an address that `cflush` names, after the slot's stores to it; none for scratchpad, which has no home in HBM. -/
def flushLine (p : Nat) (a : Nat) : Act (Option Nat) := do
  let s ← Act.look id
  let q ← resolve (whoSlot s p) .load {} a 1
  let s ← Act.look id
  let line := q.loc / 64 * 64
  Act.ready ((s.slot p).store.all (fun x => !x.touches line 64))
  pure (if isSpad q.loc then none else some line)

/-- `cflush.wb`: after the slot's own stores to it, every die writes its copy of the line back. -/
def execCflushWb (e : Enc) (s : State) : Out := issue 0xF8 e (fun p => do
  let a ← readX p e.a
  let l ← flushLine p a.toNat
  match l with
  | some line => Act.upd (fun s => if isHbm line then (List.range 4).foldl (fun s d => cleanCopy line d s) s else s)
  | none => pure ()
  pure .next) s

/-- The lines of a die's L2 that are left when some are gone. -/
def Die.without (mine : Nat → Bool) (d : Die) : Die :=
  { d with l2 := d.l2.filter (fun (c : Nat × (Nat × Moesi)) => !mine (c.1 * 64)), hints := d.hints.filter (fun (h : Nat × Nat) => !mine (h.1 * 64)) }

/-- Copies of lines leave the L2 of every die, as the directory learns (R404), and every L1. -/
def dropLines (mine : Nat → Bool) (s : State) : State :=
  let gone := fun (d : Nat) => ((s.die d).l2.filter (fun (c : Nat × (Nat × Moesi)) => mine (c.1 * 64))).map (fun c => c.1 * 64)
  let s := (List.range 4).foldl (fun s d => (gone d).foldl (fun s pa => evict d pa s) s) s
  { s with dies := s.dies.map (fun (e : Nat × Die) => (e.1, e.2.without mine))
           cores := s.cores.map (fun (e : Nat × Core) => (e.1, { e.2 with l1 := e.2.l1.filter (fun l => !mine l.loc) })) }

/-- `cflush.wbi`. -/
def execCflushWbi (e : Enc) (s : State) : Out := issue 0xF8 e (fun p => do
  let a ← readX p e.a
  let l ← flushLine p a.toNat
  match l with
  | some line => Act.upd (dropLines (fun loc => loc == line))
  | none => pure ()
  pure .next) s

/-- `cflush.part`. -/
def execCflushPart (e : Enc) (s : State) : Out := issue 0xF8 e (fun p => do
  let b ← readX p e.b
  storesDone p
  Act.upd (fun s => dropLines (fun loc => rangeHas (s.part b.toNat) loc) s)
  pure .next) s

/-! ### Keys (R353) -/

/-- Gauntlet entries. -/
def keyEntries : Nat := 8192

/-- Whether an index lies in a partition's key range. -/
def keyIn (e : Part) (i : Nat) : Bool := decide (e.keybase ≤ i) && decide (i < e.keybase + e.keycount)

/-- At S an index outside the partition's key range raises PRIVILEGE. -/
def keyArg (p : Nat) (e : Enc) : Act Nat := do
  let s ← Act.look id
  let i := e.imm32 % keyEntries
  let c := (s.slot p).ctl
  Act.require (c.level == 2 || keyIn (s.part c.pid) i) Cause.privilege
  pure i

/-- Whether PART of a record may own an index, at M. -/
def keyOwner (s : State) (part i : Nat) : Bool :=
  if part < 16 then keyIn (s.part part) i
  else part == 0xFF && s.parts.all (fun (e : Nat × Part) => !e.2.en || !keyIn e.2 i)

/-- A key record's own bytes are well formed. -/
def keyRecordOk (b : List Byte) : Bool :=
  let typ := fieldAt b 64 1
  zeroAt b 66 30 && (typ == 1 || (typ == 2 && zeroAt b 32 32))

/-- Accesses begun under an entry's key are performed before the entry changes: buffered stores, loads under way, and versions of regions (R353). -/
def keyFree (i : Nat) : Act Unit := do
  let s ← Act.look id
  Act.ready (s.slots.all (fun e => e.2.store.all (fun x => x.key != some i) && e.2.loads.all (fun x => x.key != some i)) && s.versions.all (fun v => v.key != some i))

/-- No core holds a line that it read under the entry's former key (R353). -/
def keyGone (i : Nat) (s : State) : State :=
  if s.cores.any (fun (e : Nat × Core) => e.2.l1.any (fun l => l.key == some i)) then
    { s with cores := s.cores.map (fun (e : Nat × Core) => (e.1, { e.2 with l1 := e.2.l1.filter (fun l => l.key != some i) })) }
  else s

/-- `keyld`. -/
def execKeyld (e : Enc) (s : State) : Out := issue 0xF4 e (fun p => do
  let a ← readX p e.a
  let i ← keyArg p e
  let t ← Act.slot p
  if a.toNat % 16 != 0 then Act.accessFault Cause.misalign .load a.toNat
  else do
    fullFence p
    let b ← loadBytes p a.toNat 96
    let part := fieldAt b 65 1
    Act.require (t.ctl.level == 2 || part == t.ctl.pid) Cause.privilege
    let s ← Act.look id
    if keyRecordOk b && keyOwner s part i then do
      keyFree i
      Act.upd (fun s => keyGone i { s with keys := KV.set s.keys i { typ := fieldAt b 64 1, part := part, mat := b.take 64 } })
      putStatus p e PStat.ok
    else putStatus p e PStat.badrec) s

/-- `keyclr`. -/
def execKeyclr (e : Enc) (s : State) : Out := issue 0xF5 e (fun p => do
  let i ← keyArg p e
  fullFence p
  keyFree i
  Act.upd (fun s => keyGone i { s with keys := KV.erase s.keys i })
  putStatus p e PStat.ok) s

/-! ### Interrupts to slots, limits -/

/-- `uipost`: a release at device scope. -/
def execUipost (e : Enc) (s : State) : Out := issue 0xF6 e (fun p => do
  let a ← readX p e.a
  let b ← readX p e.b
  let v ← pslotArg p a
  storesDone p
  let s ← Act.look id
  let r := uintPost s v b
  Act.upd (fun _ => r.1)
  putStatus p e r.2) s

/-- The exponent `wdset` sets. -/
def wdsetArg (p : Nat) (e : Enc) (lo hi : Nat) : Act Nat := do
  let n ← if e.isImm32 then pure e.imm32 else do let a ← readX p e.a; pure a.toNat
  Act.require (decide (lo ≤ n) && decide (n ≤ hi)) Cause.illegalOperand
  pure n

/-- `wdset.act`. -/
def execWdsetAct (e : Enc) (s : State) : Out := issue 0xF7 e (fun p => do
  let n ← wdsetArg p e 10 32
  Act.upd (fun s => s.modPart (s.slot p).ctl.pid (fun x => { x with lim := BitVec.ofNat 64 (bitsN x.lim.toNat 12 8 * 256 + n) }))
  pure .next) s

/-- `wdset.view`. -/
def execWdsetView (e : Enc) (s : State) : Out := issue 0xF7 e (fun p => do
  let n ← wdsetArg p e 12 30
  Act.upd (fun s => s.modPart (s.slot p).ctl.pid (fun x => { x with lim := BitVec.ofNat 64 (n * 256 + bitsN x.lim.toNat 5 0) }))
  pure .next) s

/-! ### `halt` -/

/-- The park message to a core of a group copy that holds no act of it (R380). -/
def parkItem (s : State) (g v core : Nat) : NetItem :=
  let l := (s.ginst g).launch
  { kind := .park, src := ringSrc + (s.launch l).die, launch := l, ginst := g, dst := core, vcore := v, prio := (s.launch l).prio, isMessage := true }

/-- A park request to a group copy: its acts park at their next safe points, and each core without one gets a park message. -/
def parkInstance (g : Nat) (s : State) : State :=
  if (s.ginst g).parkReq then s
  else
    let s := s.modGinst g (fun x => { x with parkReq := true })
    let s := { s with slots := s.slots.map (fun (e : Nat × Slot) => (e.1, if e.2.liveIn g && e.2.st != SlotState.parked then { e.2 with parkReq := true } else e.2)) }
    (s.ginst g).cores.foldl (fun s (c : Nat × Nat) =>
      if s.slots.any (fun e => coreOf e.1 == c.2 && e.2.liveIn g) then s else netPush (parkItem s g c.1 c.2) s) s

/-- `halt.park`. -/
def execHaltPark (e : Enc) (s : State) : Out := issue 0xF9 e (fun p => do
  let a ← readX p e.a
  let v ← pslotArg p a
  fullFence p
  let s ← Act.look id
  let t := s.slot v
  if t.st != .active then putStatus p e PStat.noact
  else do
    if isCtl v then Act.modSlot v (fun t => { t with parkReq := true }) else Act.upd (parkInstance t.ginst)
    putStatus p e PStat.requested) s

/-- `halt.stop`. -/
def execHaltStop (e : Enc) (s : State) : Out := issue 0xF9 e (fun p => do
  let a ← readX p e.a
  let v ← pslotArg p a
  fullFence p
  let s ← Act.look id
  if (s.slot v).st != .active then putStatus p e PStat.noact
  else do
    Act.modSlot v (fun t => { t with st := .halted, halt := .stop, wdSaved := s.cycle })
    putStatus p e PStat.ok) s

/-- `halt.rel`: the watchdog does not count the time in HALTED. -/
def execHaltRel (e : Enc) (s : State) : Out := issue 0xF9 e (fun p => do
  let a ← readX p e.a
  let v ← pslotArg p a
  fullFence p
  let s ← Act.look id
  let t := s.slot v
  if t.st == .halted && (t.halt == .stop || t.halt == .brk) then do
    Act.modSlot v (fun t => { t with st := .active, halt := .none, wdBase := t.wdBase + ((s.cycle : Int) - t.wdSaved), wdSaved := 0 })
    putStatus p e PStat.ok
  else putStatus p e PStat.noact) s

/-- The state in which `halt.start` starts a slot (R359). -/
def startedSlot (s : State) (act : Nat) (b : List Byte) (st : List PStore) : Slot :=
  let lv := fieldAt b 8 1
  let pid := fieldAt b 9 1
  let vec : Word := BitVec.ofNat 64 (fieldAt b 24 8)
  { st := .active, act := act, pc := fieldAt b 0 8, feat := 7, chans := [(7, { kind := .input })], store := st
    xg := [(1, BitVec.ofNat 64 (fieldAt b 16 8))]
    ctl := { level := lv, pid := pid, ptbase := if lv = 1 then (s.part pid).proot else 0
             svec := if lv = 1 then vec else 0, mvec := if lv = 2 then vec else 0 } }

/-- A partition's image is booted when the monitor starts a control core for it (R434); at the first start, its digest is fixed for the boot (R439). -/
def bootPartition (n : Nat) (s : State) : State :=
  if (s.part n).image = 2 then s
  else { s.modPart n (fun x => { x with image := 2, imageDigest := (List.range 64).map (Config.imageDigest s.freeCount) }) with freeCount := s.freeCount + 1 }

/-- `halt.start`. -/
def execHaltStart (e : Enc) (s : State) : Out := issue 0xF9 e (fun p => do
  let a ← readX p e.a
  let x ← readX p e.b
  let v ← pslotArg p a
  Act.require (isCtl v) Cause.illegalOperand
  if x.toNat % 16 != 0 then Act.accessFault Cause.misalign .load x.toNat
  else do
    fullFence p
    let b ← loadBytes p x.toNat 32
    let s ← Act.look id
    let c := (s.slot p).ctl
    let lv := fieldAt b 8 1
    let pid := fieldAt b 9 1
    Act.require (c.level == 2 || (lv != 2 && pid == c.pid)) Cause.privilege
    let owned := c.level != 2 || lv != 1 || ((s.part pid).en && maskHasCc (s.part pid) (ccNumber v))
    if !(owned && pcAligned (fieldAt b 0 8) && fieldAt b 24 8 % 32 == 0 && (lv == 1 || lv == 2) && decide (pid < 16) && zeroAt b 10 6) then
      putStatus p e PStat.badrec
    else if (s.slot v).st != .free then putStatus p e PStat.busy
    else do
      let act ← Act.fresh
      Act.upd (fun s => s.setSlot v (startedSlot s act b (s.slot v).store))
      if c.level == 2 && lv == 1 then Act.upd (bootPartition pid) else pure ()
      putStatus p e PStat.ok) s

end Sys2Proof.Machine
end

