-- ==== Sys2Proof/Machine/Park.lean ====
section
/-! DEFINITION. Parking a group instance, its quiesce point, the save area, `xsave`, `xrest` and the resumption (R380 to R393). -/

namespace Sys2Proof.Machine

/-! ### Parking an act (R381) -/

/-- Whether a live mask names a register, a predicate or a channel (R76). -/
def liveX (m : Word) (j : Nat) : Bool := m.getLsbD (1 + j)
def liveV (m : Word) (k : Nat) : Bool := m.getLsbD (33 + k / 2)
def liveP (m : Word) (j : Nat) : Bool := m.getLsbD (48 + j)
def liveQ (m : Word) (j : Nat) : Bool := m.getLsbD (56 + j)

/-- An act asked to park goes no further: it stands at a safe point, or is blocked at one and its wait is not over. -/
def Slot.parking (t : Slot) : Bool := t.parkReq && t.safe && !t.wait.over

/-- It may park now: the data of its loads under way has come, such as a step that was guarded off leaves behind it (R65). -/
def Slot.parkable (t : Slot) : Bool := t.parking && t.loads.isEmpty

/-- What an act has sent or stored and must see done before it is PARKED. -/
def parkPending (s : State) (p : Nat) : Bool :=
  !(s.slot p).store.isEmpty || s.net.any (fun i => i.src == p && i.isMessage && i.act == (s.slot p).act)

/-- The act of a slot parks: its wait is withdrawn, but a draw keeps its number (R166), its hold is released, and channels outside the live mask are unbound. -/
def parkAct (p : Nat) (s : State) : State :=
  let s := withdrawPosts p s
  let m := (s.slot p).live
  let s := (List.range 8).foldr (fun q s => if liveQ m q then s else unbindChan p q s) s
  s.modSlot p (fun t => { t with st := .parked, wait := .none, hold := none, parkReq := false, yielded := false, urgent := false, readyFor := 0
                                 wdSaved := ((s.cycle : Int) - t.wdBase).toNat })

/-- Event ACT_PARK. An act whose watchdog has reached the limit does not park: it faults (R34). -/
def execActPark (pslot : Nat) (s : State) : Out := event (fun s =>
  let t := s.slot pslot
  if t.st == .active && t.parkable && !parkPending s pslot && !watchdogDue s pslot then some (parkAct pslot s) else none) s

/-! ### The quiesce point (R382) -/

/-- Whether an engine queue still has work of a group copy that must complete first. -/
def joinOf (g : Nat) (q : List Entry) : Bool := q.any (fun e => e.org.ginst == g && e.join.isSome)
def workOf (g : Nat) (q : List Entry) : Bool := q.any (fun e => e.org.ginst == g)

def ownWork (l : Nat) (q : List Entry) : Bool := q.any (fun e => e.org.launch == l)

/-- The unit is within an entry that has no K-step boundary to stop at: a STORE that has begun, or a drain whose last row has ended (R272). -/
def storeOpen (g : Nat) (q : List Entry) : Bool :=
  match q with
  | e :: _ => e.org.ginst == g && e.started && (msgEop e.msg == 3 || (e.dispatched && e.rows.isEmpty))
  | [] => false

/-- Another act of the launch is ACTIVE on the core, so that the matrix unit does not stop (R272). -/
def matrixRuns (s : State) (g core : Nat) : Bool :=
  (List.range 4).any (fun k => let t := s.slot (core + k)
    t.launch == some (s.ginst g).launch && t.ginst != g && t.st == .active && !t.boundary)

/-- The engines of a core have treated the work of a group copy. -/
def coreQuiet (s : State) (g core : Nat) : Bool :=
  let c := s.core core
  !joinOf g c.copyq && !joinOf g c.mx.queue && !ownWork (s.ginst g).launch c.jug.queue && !storeOpen g c.mx.queue && !workOf g (s.cluster (clusterOf core)).sdq &&
  !(matrixRuns s g core && workOf g c.mx.queue)

/-- Whether a packet is an entry of an `.out` channel that a PARKED act keeps (R77, R385). -/
def inChannel (s : State) (i : NetItem) : Bool :=
  match i.chan with
  | some q => (s.slot i.src).st == .parked && (s.slot i.src).act == i.act && ((s.slot i.src).chan q).kind == .output
  | none => false

/-- A group copy can be brought to rest: every core of it has a PARKED slot and no other, no message of it is on its way, every store is
performed, and the engines have treated its work. -/
def canQuiesce (s : State) (g : Nat) : Bool :=
  let x := s.ginst g
  x.parkReq && !x.quiesced &&
  s.slots.all (fun e => !(e.2.liveIn g) || e.2.st == SlotState.parked) &&
  x.cores.all (fun c => s.slots.any (fun e => coreOf e.1 == c.2 && e.2.ginst == g && e.2.st == SlotState.parked && e.2.launch.isSome)) &&
  !(s.net.any (fun i => i.ginst == g && i.launch == x.launch && !inChannel s i)) && !(s.slots.any (fun e => e.2.store.any (fun y => y.ginst == g && y.launch.isSome))) &&
  x.cores.all (fun c => coreQuiet s g c.2)

/-- Re-issuable copies leave the copy queue of each core of the group copy and are recorded (R382). -/
def recordCopies (g : Nat) (s : State) : State :=
  (s.ginst g).cores.foldl (fun s (c : Nat × Nat) =>
    let q := (s.core c.2).copyq
    let mine := q.filter (fun e => e.org.ginst == g)
    (s.modCore c.2 (fun x => { x with copyq := q.filter (fun e => e.org.ginst != g) })).modGinst g (fun x =>
      { x with copies := x.copies ++ mine.map (fun e => (c.1, e)) })) s

/-- Event QUIESCE. -/
def execQuiesce (ginst : Nat) (s : State) : Out := event (fun s =>
  if canQuiesce s ginst then some ((recordCopies ginst s).modGinst ginst (fun x => { x with quiesced := true })) else none) s

/-! ### The save area (R383 to R387) -/

/-- `n` zero bytes. -/
def zeros (n : Nat) : List Byte := List.replicate n 0

/-- A word by number of 8 bytes, if it is live. -/
def wordIf (c : Bool) (w : Word) : List Byte := if c then bytesOfWord w else zeros 8

/-- Predicates p1 to p7 as a byte. -/
def predsByte (m : Option Word) (p : BitVec 8) : Nat :=
  (List.range 8).foldl (fun n j => if j != 0 && p.getLsbD j && (match m with | some w => liveP w j | none => true) then n + 2 ^ j else n) 0

/-- WP of a depth, frame and OFFS (R123). -/
def wpOf (depth frame offs : Nat) : Word := BitVec.ofNat 64 (depth * 2 ^ 16 + frame * 2 ^ 8 + offs)

/-- A frame record as R122 lays it out. -/
def Frame.bytes (f : Frame) : List Byte := leBytes 8 f.link ++ leBytes 1 f.callee ++ leBytes 1 f.caller ++ zeros 6

/-- Frame records of depths 1 to 32; the newest comes first in the state. -/
def framesBytes (fs : List Frame) : List Byte :=
  (List.range 32).flatMap (fun d => match fs.reverse[d]? with | some f => f.bytes | none => zeros 16)

/-- A stream record (R385). -/
def strmBytes (x : Strm) : List Byte :=
  if x.valid then (x.desc ++ zeros 64).take 64 ++ (List.range 5).flatMap (fun d => leBytes 8 (x.idx.getD d 0)) ++ leBytes 1 1 ++ zeros 23
  else zeros 128

/-- KIND of a channel (R128). -/
def ChanKind.code : ChanKind → Nat | .unbound => 0 | .input => 1 | .output => 2

/-- A channel record (R385); `sent` are the packets of an `.out` channel that no core has accepted. -/
def chanBytes (c : Chan) (sent : List NetItem) : List Byte :=
  let es := c.entries ++ sent.map (fun i => vecOfBytes i.data)
  match c.kind with
  | .unbound => zeros 144
  | k =>
    leBytes 8 (k.code + es.length * 16 + c.tag * 2 ^ 16) ++ leBytes 8 (if k == .output then c.route else 0) ++
    (es.flatMap bytesOfVec ++ zeros 128).take 128

/-- The region snapshot (R288, R384). -/
def snapBytes (n : Snapshot) : List Byte :=
  (List.range 31).flatMap (fun i =>
    let j := i + 1
    bytesOfWord (if j < 8 then KV.get 0 n.xg j else KV.get 0 n.win (n.offs + j - 8))) ++
  bytesOfWord (wpOf n.frames.length n.frame n.offs) ++ leBytes 8 (predsByte none n.preds) ++ bytesOfWord n.fcs

/-- The live region of a context, if it still holds its slot. -/
def openRegionOf (s : State) (t : Slot) : Option Nat :=
  match t.region with
  | some rs => if (s.rslot rs).live && (s.rslot rs).act == t.act then some rs else none
  | none => none

/-- The slot part (R384): 0x12C0 bytes from offset 0x40. -/
def slotPart (s : State) (v : Nat) (t : Slot) : List Byte :=
  let m := t.live
  (List.range 7).flatMap (fun i => wordIf (liveX m (i + 1)) (t.x (i + 1))) ++
  (List.range 24).flatMap (fun i => wordIf (liveX m (i + 8)) (t.x (i + 8))) ++
  bytesOfWord t.wp ++
  (List.range 32).flatMap (fun k => if liveV m k then bytesOfVec (t.vreg k) else zeros 16) ++
  leBytes 8 (predsByte (some m) t.preds) ++ bytesOfWord t.fcs ++ bytesOfWord t.rto ++ leBytes 8 t.wdSaved ++ leBytes 8 (t.replies % 256) ++
  leBytes 8 (t.uints.length + t.uintLoss * 256) ++
  (match t.view with | some (_, g, h) => bytesOfWord h ++ leBytes 8 g | none => zeros 16) ++
  (t.uints.flatMap bytesOfWord ++ zeros 64).take 64 ++
  (match openRegionOf s t with
   | some rs => leBytes 8 (s.rslot rs).key ++ bytesOfWord (rswOf rs (s.rslot rs)) ++ snapBytes t.snap
   | none => zeros 288) ++
  (List.range 4).flatMap (fun k => strmBytes (t.strm k)) ++
  (List.range 8).flatMap (fun q => chanBytes (t.chan q) (if (t.chan q).kind == .output then outItems s v q else [])) ++
  framesBytes t.frames ++
  ((List.range t.offs).flatMap (fun i => bytesOfWord (KV.get 0 t.win i)) ++ zeros 1344).take 1344 ++ zeros 96

/-- The header (R383). -/
def areaHeader (s : State) (v : Nat) (t : Slot) (core : Bool) (size : Nat) : List Byte :=
  let l : Launch := match t.launch with | some k => s.launch k | none => {}
  let b := t.boundary
  [0x43, 0x54, 0x58, 0x41] ++ leBytes 2 1 ++
  leBytes 2 (core.toNat + 2 * b.toNat + (if b then 0 else 4 * (openRegionOf s t).isSome.toNat + 8 * t.view.isSome.toNat + 16 * t.reexec.toNat)) ++
  leBytes 2 l.lid ++ leBytes 1 (l.queue % 64 + l.die % 4 * 64) ++ leBytes 1 (partOf s v) ++ zeros 4 ++ bytesOfWord t.actid ++ bytesOfWord t.actln ++
  wordIf (!b) t.live ++ leBytes 8 (if b then 0 else t.pc) ++ leBytes 1 t.feat ++ leBytes 1 t.tier ++ zeros 6 ++ leBytes 4 size ++ zeros 4

/-- The tags of a group copy on a core. -/
def tagsOf (s : State) (core g : Nat) : List Tag := (s.core core).tags.filter (fun x => x.ginst == g)

def Tag.bytes (x : Tag) : List Byte :=
  leBytes 8 (x.tag + (match x.handler with | some h => 2 ^ 16 + h * 2 ^ 32 | none => 0)) ++ zeros 8

/-- The messages of a group copy in a core's inbox, and its parked packets. -/
def inboxOf (s : State) (core g : Nat) : List NetItem := (s.core core).inbox.filter (fun i => i.ginst == g && i.kind != .park)
def parkedOf (s : State) (core g : Nat) : List Parked := (s.core core).parking.filter (fun x => x.ginst == g)

/-- The bytes of a held message: a code-bearing one as it was sent (R136); of a launch-start or port message the registers that it sets, its handler in
bytes [63:56]; of a row dispatch its row. DESIGN CHOICE: the spec lays out only the first (log 98). -/
def itemBytes (i : NetItem) : List Byte :=
  match i.kind with
  | .code => leBytes 8 (i.regs.getD 1 0).toNat ++ leBytes 8 (i.vcore * 2 ^ 16) ++ i.data
  | .start | .port => ((i.regs.flatMap bytesOfWord) ++ zeros 56).take 56 ++ leBytes 8 i.handler
  | _ => i.data

/-- TAG of a held message's record: a packet's tag; else what tells the kinds of messages apart, with the row and the tile of a row dispatch (log 98). -/
def itemTag (i : NetItem) : Nat :=
  match i.kind with
  | .start => 1
  | .port => 2
  | .row => 0x8000 + (match i.row with | some (r, t) => r + 16 * t | none => 0)
  | _ => i.tag

/-- A message record: its bytes, its tag, and whether it is a packet. -/
def msgRecord (data : List Byte) (tag : Nat) (packet : Bool) : List Byte :=
  (data ++ zeros 64).take 64 ++ leBytes 2 tag ++ leBytes 1 packet.toNat ++ zeros 13

/-- A re-issuable copy (R387). -/
def copyRecord (e : Entry) : List Byte :=
  let rep := msgReply e.msg
  let hint := payAt e.msg 32 1 % 4
  (if e.started then leBytes 8 e.src ++ leBytes 8 e.dst ++ leBytes 4 e.len else leBytes 8 (payAt e.msg 0 8) ++ leBytes 8 (payAt e.msg 8 8) ++ leBytes 4 (payAt e.msg 16 4)) ++
  leBytes 1 (hint + 64 * rep.toNat + 128 * e.started.toNat) ++ leBytes 1 0 ++ leBytes 2 (if rep then msgRtag e.msg else 0) ++
  leBytes 8 (payAt e.msg 24 8)

/-- The 64 tickets before the next one, oldest first. -/
def lastTickets (next : Nat) : List Nat := (List.range 64).map (fun k => (next + 2 ^ 32 - 64 + k) % 2 ^ 32)

/-- A matrix entry as it is recorded: an MMAZ whose zeroing is done becomes an MMA (R272). -/
def recordMx (e : Entry) : Entry :=
  if msgEop e.msg == 2 && e.started then { e with msg := patch e.msg 1 [1] } else e

/-- An entry whose rows have been dispatched is written as a DRAIN, with the rows not yet ended as a mask in place of the steps done. DESIGN CHOICE:
R272 has the rows recorded, and R386 gives them no other place (log 98). -/
def drainForm (e : Entry) : Entry :=
  if e.dispatched then
    let m := if msgEop e.msg == 4 then e.msg else patch (patch (patch e.msg 1 [4]) 16 (zeros 36)) 56 (zeros 2)
    { e with msg := patch m 59 (leBytes 1 (mxFlags e.msg / 8 % 2 * 8)), done := e.rows.foldl (fun n r => n + 2 ^ r) 0 }
  else e

/-- A matrix entry's 80 bytes. -/
def mxEntryBytes (e : Entry) : List Byte :=
  let e := drainForm e
  (e.msg ++ zeros 64).take 64 ++ leBytes 4 e.ticket ++ leBytes 2 e.done ++ zeros 10

/-- The matrix section with MXOWN. -/
def matrixBytes (m : Matrix) (q : List Entry) : List Byte :=
  bytesOfWord m.tcfg ++ leBytes 8 m.next ++
  (List.range 1024).flatMap (fun i => leBytes 4 (KV.get 0 m.tiles i).toNat) ++
  (lastTickets m.next).flatMap (fun t => match m.status.find? (fun x => x.1 == t) with | some x => bytesOfWord x.2 | none => zeros 8) ++
  q.flatMap mxEntryBytes

/-- The Juggler section: contexts of the launch, the next ticket, and the retained words. -/
def jugBytes (j : Juggler) (g l lid : Nat) : List Byte :=
  let c := KV.get {} j.counts g
  (List.range 4).flatMap (fun k =>
    match KV.find? j.ctx k with
    | some x => if x.launch == l then (x.desc ++ zeros 64).take 64 ++ leBytes 8 (1 + lid * 2 ^ 16) ++ zeros 8 else zeros 80
    | none => zeros 80) ++
  leBytes 8 c.next ++
  (lastTickets c.next).flatMap (fun t => match c.kept.find? (fun x => x.1 == t) with
    | some x => bytesOfWord x.2.1 ++ bytesOfWord x.2.2.1 ++ leBytes 8 (if x.2.2.2 = l then lid else 0)
    | none => zeros 24)

/-- Whether the core has Juggler state of the group copy or its launch. -/
def jugPresent (j : Juggler) (g l : Nat) : Bool := (KV.find? j.counts g).isSome || j.ctx.any (fun x => x.2.launch == l)

/-- The scopes whose units a virtual core leads (R386): it has the lowest numbers of the unit, cores on other devices included. -/
def leads (vs : List Nat) (v scope : Nat) : Bool := vs.all (fun x => barrierKey scope x 0 != barrierKey scope v 0 || decide (v ≤ x))
def leadScopes (x : GInst) (v : Nat) : List Nat :=
  (List.range 5).filter (fun sc => decide (sc ≤ x.tier) && leads (KV.keys x.cores ++ KV.keys x.far ++ x.savedCores) v sc)

def Barrier.bytes (b : Barrier) : List Byte := leBytes 4 b.phase ++ leBytes 2 b.n ++ leBytes 2 b.count

/-- The end of the named regions, as a multiple of 16 (R386). -/
def rendOf (x : GInst) : Nat := alignUp 16 (regionsEnd x.regions)

/-- Full-empty bits, eight granules a byte. -/
def packBits (l : List Bool) : Nat := l.foldr (fun b n => b.toNat + 2 * n) 0

/-- Whether the matrix unit goes with the core part: it belongs to the launch, and no other act of the launch is ACTIVE on the core or PARKED there and not yet saved
(R272). -/
def matrixGoes (s : State) (p : Nat) : Bool :=
  let t := s.slot p
  (s.core (coreOf p)).mx.owner.isSome && (s.core (coreOf p)).mx.owner == t.launch &&
  (List.range 4).all (fun k => let u := s.slot (coreOf p + k); coreOf p + k == p || u.launch != t.launch || u.st == .free || u.st == .halted || u.boundary)

/-- The matrix entries that go with a core part. -/
def mxGoing (s : State) (p : Nat) : List Entry :=
  if matrixGoes s p then ((s.core (coreOf p)).mx.queue.filter (fun e => some e.org.launch == (s.slot p).launch)).map recordMx else []

/-- The core part (R386) up to its matrix section, with NACTS acts saved on the core. -/
def corePartHead (s : State) (p nacts : Nat) : List Byte :=
  let t := s.slot p
  let core := coreOf p
  let g := t.ginst
  let l := t.launch.getD 0
  let x := s.ginst g
  let c := s.core core
  let rend := rendOf x
  let tags := tagsOf s core g
  let msgs := inboxOf s core g
  let pks := parkedOf s core g
  let copies := (x.copies.filter (fun e => e.1 == t.vcore)).map Prod.snd
  let mx := matrixGoes s p
  let jug := jugPresent c.jug g l
  let scopes := leadScopes x t.vcore
  let mxq := mxGoing s p
  leBytes 8 (t.vcore * 2 ^ 16) ++ leBytes 4 nacts ++ leBytes 4 rend ++ leBytes 2 tags.length ++ leBytes 2 (msgs.length + pks.length) ++
  leBytes 2 copies.length ++ leBytes 1 (mxq.length + 128 * mx.toNat) ++ leBytes 1 jug.toNat ++
  leBytes 1 (scopes.foldl (fun n k => n + 2 ^ k) 0) ++ zeros 39 ++
  (List.range rend).map (fun off => Memory.read s.mem (spadAt s g t.vcore core off)) ++
  leBytes (alignUp 16 ((rend + 127) / 128)) (packBits ((List.range (rend / 16)).map (fun k => feOf s (spadAt s g t.vcore core (16 * k))))) ++
  tags.flatMap Tag.bytes ++
  (byNumber (msgs.map (fun i => (i.at_, msgRecord (itemBytes i) (itemTag i) (i.kind == .packet || i.kind == .reply))) ++
    pks.map (fun y => (y.at_, msgRecord (bytesOfVec y.data) y.tag true)))).flatMap Prod.snd ++
  scopes.flatMap (fun sc => (List.range 16).flatMap (fun k => (KV.get {} x.barriers (barrierKey sc t.vcore k)).bytes)) ++
  copies.flatMap copyRecord

/-- The core part (R386), with NACTS acts saved on the core. -/
def corePart (s : State) (p nacts : Nat) : List Byte :=
  let t := s.slot p
  let c := s.core (coreOf p)
  let l := t.launch.getD 0
  corePartHead s p nacts ++ (if matrixGoes s p then matrixBytes c.mx (mxGoing s p) else []) ++
  (if jugPresent c.jug t.ginst l then jugBytes c.jug t.ginst l (s.launch l).lid else [])

/-- The granules of a save area to which marked bytes are copied: of the core part's scratchpad section, and of its tiles, which begin after the section's TCFG and
ticket. -/
def marksOf (s : State) (p nacts : Nat) : List Nat :=
  let t := s.slot p
  let tiles := 0x1300 + (corePartHead s p nacts).length + 16
  ((List.range (rendOf (s.ginst t.ginst) / 16)).filter (fun k => poisoned s (spadAt s t.ginst t.vcore (coreOf p) (16 * k) / 16))).map (fun k => 0x1340 + 16 * k) ++
  (if matrixGoes s p then (KV.keys (s.core (coreOf p)).mx.errs).map (fun w => tiles + 8 * w) else [])

/-- A mark travels with the copy of its bytes in the save area (R430); the area's load by `xrest` meets it there. DEDUCED (log 122). -/
def markArea (p a : Nat) (ks : List Nat) : Act Unit := do
  let s ← Act.look id
  ks.forM (fun k => do
    let q ← resolve (whoSlot s p) .store Need.write ((a + k) / 16 * 16) 16
    Act.upd (fun s => { s with poison := KV.set s.poison (q.loc / 16) true, poisonSeen := s.poisonSeen.filter (· != q.loc / 64) }))

/-! ### `xsave` -/

/-- The context a slot leaves behind while it is saved (R372, R388). -/
def savedOf (p : Nat) (t : Slot) : Saved :=
  { act := t.act, launch := t.launch.getD 0, ginst := t.ginst, vcore := t.vcore, actid := t.actid, pslot := p, boundary := t.boundary
    table := t.view.map (fun v => (v.1, v.2.1)), formula := t.formula, row := t.row, mxLast := t.mxLast, jqLast := t.jqLast, snap := t.snap
    region := t.region, draw := t.drawNo, pc := t.pc, live := t.live }

/-- The launch of a context that belongs to none: a control-core slot's. -/
def noLaunch : Nat := 2 ^ 20

/-- Whether the Juggler contexts of a launch stay on a core: another live or unsaved act of it is there (R319). -/
def jugStays (s : State) (p : Nat) : Bool :=
  let t := s.slot p
  (List.range 4).any (fun k => let u := s.slot (coreOf p + k); coreOf p + k != p && u.launch == t.launch && u.st != .free && !u.boundary)

/-- Replies under way to a group copy's core (of collectives, which pre-emption does not stop: R418). -/
def repliesTo (core g : Nat) (i : NetItem) : Bool := i.kind == .reply && i.dst == core && i.ginst == g

/-- What a core gives up when the core part of a group copy is saved. -/
def leaveCore (p : Nat) (s : State) : State :=
  let t := s.slot p
  let core := coreOf p
  let g := t.ginst
  let late := (s.net.filter (repliesTo core g)).map (fun i => ((t.vcore, { ginst := g, tag := i.tag, data := vecOfBytes i.data, launch := i.launch, at_ := s.cycle }) : Nat × Parked))
  let s := { s with net := s.net.filter (fun i => !repliesTo core g i) }
  let l := t.launch.getD 0
  let c := s.core core
  let v := t.vcore
  let mx := matrixGoes s p
  let stays := jugStays s p
  let s := leaveCopy g v core s
  let s := s.modGinst g (fun x => { x with
    held := x.held ++ (inboxOf s core g).map (fun i => (v, i))
    heldParked := x.heldParked ++ (parkedOf s core g).map (fun y => (v, y)) ++ late
    heldMx := x.heldMx ++ (if mx then (c.mx.queue.filter (fun e => e.org.launch == l)).map (fun e => (v, recordMx e)) else [])
    savedCores := v :: x.savedCores, back := x.back.filter (· != v), cores := KV.erase x.cores v })
  s.modCore core (fun c => { c with
    inbox := c.inbox.filter (fun i => i.ginst != g), parking := c.parking.filter (fun y => y.ginst != g), tags := c.tags.filter (fun y => y.ginst != g)
    mx := if mx then {} else c.mx
    jug := { c.jug with ctx := (c.jug.ctx.filter (fun y => stays || y.2.launch != l)).map (fun y => (y.1, if y.2.launch == l then { y.2 with saved := true } else y.2)), counts := KV.erase c.jug.counts g } })

/-- `xsave`. -/
def execXsave (e : Enc) (s : State) : Out := issue 0xF0 e (fun p => do
  let a ← readX p e.a
  let b ← readX p e.b
  let v ← pslotArg p b
  fullFence p
  let s ← Act.look id
  let t := s.slot v
  match t.st with
  | .free | .halted => putStatus p e PStat.noact
  | .active => if t.parkReq then Act.block else putStatus p e PStat.notparked
  | .parked =>
    if a.toNat % 256 != 0 then Act.accessFault Cause.misalign .store a.toNat
    else if isCtl v then do
      -- A control-core slot belongs to no group instance: its context is the slot part alone.
      let body := areaHeader s v t false 0x1300 ++ slotPart s v t
      storeDirect p a.toNat body
      Act.upd (fun s => { s with saved := s.saved ++ [{ savedOf v t with launch := noLaunch }] }.modSlot v (fun t => { t.freed with savedFrom := some t.act }))
      putStatus p e PStat.ok
    else do
      let g := t.ginst
      let last := !((List.range 4).any (fun k => let u := s.slot (coreOf v + k); coreOf v + k != v && u.st != .free && u.launch.isSome && u.ginst == g))
      Act.ready (((s.ginst g).quiesced || (!last && t.replies == 0)) && !ownWork (t.launch.getD 0) (s.core (coreOf v)).jug.queue)
      let nacts := (s.saved.filter (fun x => x.ginst == g && x.vcore == t.vcore && !x.boundary)).length + (if t.boundary then 0 else 1)
      let tail := if last then corePart s v nacts else []
      let size := alignUp 256 (0x1300 + tail.length)
      let body := areaHeader s v t last size ++ (if t.boundary then zeros 0x12C0 else slotPart s v t) ++ tail
      storeDirect p a.toNat (body ++ zeros (size - body.length))
      if last then markArea p a.toNat (marksOf s v nacts)
      let self := if t.boundary then 0 else 1
      if (s.ginst g).back.contains t.vcore then
        Act.upd (fun s => s.modGinst g (fun x => { x with owed := if last then x.owed - (nacts - self) else x.owed + self }))
      if last then Act.upd (leaveCore v)
      Act.upd (fun s => { s with saved := s.saved ++ [savedOf v t], net := s.net.filter (fun i => !(i.src == v && inChannel s i)) }.modSlot v (fun t => { t.freed with savedFrom := some t.act }))
      putStatus p e PStat.ok) s

/-! ### Reading an area back -/

/-- A word of an area. -/
def areaWord (b : List Byte) (off : Nat) : Word := BitVec.ofNat 64 (fieldAt b off 8)

/-- FLAGS, and the parts of the header that are used. -/
def areaCore (b : List Byte) : Bool := testBit (fieldAt b 6 2) 0
def areaBoundary (b : List Byte) : Bool := testBit (fieldAt b 6 2) 1

/-- The sizes of the sections of a core part, from its header. -/
structure CoreHdr where
  vcore : Nat
  nacts : Nat
  rend : Nat
  ntag : Nat
  nmsg : Nat
  ncopy : Nat
  mx : Bool
  nmx : Nat
  jug : Bool
  scopes : List Nat

/-- The core header of an area. -/
def coreHdr (b : List Byte) : CoreHdr :=
  let h := b.drop 0x1300
  { vcore := fieldAt h 0 8 / 2 ^ 16 % 2 ^ 21, nacts := fieldAt h 8 4, rend := fieldAt h 12 4, ntag := fieldAt h 16 2, nmsg := fieldAt h 18 2
    ncopy := fieldAt h 20 2, mx := testBit (fieldAt h 22 1) 7, nmx := fieldAt h 22 1 % 16, jug := testBit (fieldAt h 23 1) 0
    scopes := (List.range 8).filter (fun k => testBit (fieldAt h 24 1) k) }

/-- Offsets of the sections from the start of the area. -/
def CoreHdr.spadAt (_ : CoreHdr) : Nat := 0x1340
def CoreHdr.feAt (h : CoreHdr) : Nat := h.spadAt + h.rend
def CoreHdr.tagAt (h : CoreHdr) : Nat := h.feAt + alignUp 16 ((h.rend + 127) / 128)
def CoreHdr.msgAt (h : CoreHdr) : Nat := h.tagAt + 16 * h.ntag
def CoreHdr.barAt (h : CoreHdr) : Nat := h.msgAt + 80 * h.nmsg
def CoreHdr.copyAt (h : CoreHdr) : Nat := h.barAt + 128 * h.scopes.length
def CoreHdr.mxAt (h : CoreHdr) : Nat := h.copyAt + 32 * h.ncopy
def CoreHdr.jugAt (h : CoreHdr) : Nat := h.mxAt + (if h.mx then 4624 + 80 * h.nmx else 0)
def CoreHdr.end_ (h : CoreHdr) : Nat := h.jugAt + (if h.jug then 1864 else 0)

/-- Counts and reserved fields of a core header (R386, R388). -/
def coreHdrOk (b : List Byte) (h : CoreHdr) : Bool :=
  let x := b.drop 0x1300
  fieldAt x 0 8 % 2 ^ 16 == 0 && fieldAt x 0 8 / 2 ^ 37 == 0 && decide (h.nacts ≤ 4) && h.rend % 16 == 0 && decide (h.rend ≤ 384 * 1024) &&
  decide (h.ntag ≤ 1024) && decide (h.nmsg ≤ 64) && decide (h.ncopy ≤ 16) && decide (h.nmx ≤ 8) && bitsN (fieldAt x 22 1) 6 4 == 0 &&
  (h.mx || h.nmx == 0) && decide (fieldAt x 23 1 < 2) && decide (fieldAt x 24 1 < 32) && zeroAt x 25 39

/-- The fields of the records of a core part that must be zero (R386, R387). -/
def coreRecordsOk (b : List Byte) (h : CoreHdr) : Bool :=
  (List.range h.ntag).all (fun k =>
    let w := fieldAt b (h.tagAt + 16 * k) 8
    bitsN w 31 17 == 0 && w / 2 ^ 48 == 0 && (testBit w 16 || bitsN w 47 32 == 0) && zeroAt b (h.tagAt + 16 * k + 8) 8) &&
  (List.range h.nmsg).all (fun k => decide (fieldAt b (h.msgAt + 80 * k + 66) 1 < 2) && zeroAt b (h.msgAt + 80 * k + 67) 13 &&
    (fieldAt b (h.msgAt + 80 * k + 66) 1 == 0 || zeroAt b (h.msgAt + 80 * k + 16) 48)) &&
  (List.range h.ncopy).all (fun k => bitsN (fieldAt b (h.copyAt + 32 * k + 20) 1) 5 2 == 0 && fieldAt b (h.copyAt + 32 * k + 21) 1 == 0 &&
    (testBit (fieldAt b (h.copyAt + 32 * k + 20) 1) 6 || fieldAt b (h.copyAt + 32 * k + 22) 2 == 0)) &&
  (!h.mx || (fieldAt b (h.mxAt + 12) 4 == 0 && (List.range h.nmx).all (fun k => zeroAt b (h.mxAt + 4624 + 80 * k + 70) 10))) &&
  (!h.jug || ((List.range 4).all (fun k => bitsN (fieldAt b (h.jugAt + 80 * k + 64) 8) 15 1 == 0 && fieldAt b (h.jugAt + 80 * k + 64) 8 / 2 ^ 32 == 0 &&
    zeroAt b (h.jugAt + 80 * k + 72) 8) && fieldAt b (h.jugAt + 324) 4 == 0))

/-- Bytes of an area. -/
def areaSize (b : List Byte) : Nat := fieldAt b 56 4

/-- A stream record is well formed (R385). -/
def strmRecordOk (r : List Byte) : Bool := decide (fieldAt r 104 1 < 2) && zeroAt r 105 23
/-- A channel record is well formed (R385). -/
def chanRecordOk (r : List Byte) : Bool :=
  let w := fieldAt r 0 8
  decide (w % 4 ≤ 2) && bitsN w 3 2 == 0 && decide (bitsN w 7 4 ≤ 8) && bitsN w 15 8 == 0 && w / 2 ^ 32 == 0 && (w % 4 == 2 || zeroAt r 8 8)

/-- WP, the predicates and FCS at their offsets: reserved bits zero, and the counts of WP within R121 and R123. -/
def registersOk (b : List Byte) (wpAt pAt fcsAt : Nat) : Bool :=
  let wp := fieldAt b wpAt 8
  wp / 2 ^ 22 == 0 && decide (wp / 2 ^ 16 ≤ 32) && decide (wp % 256 ≤ 168) && decide (wp / 256 % 256 ≤ 28) && fieldAt b pAt 8 / 256 == 0 &&
  fieldAt b pAt 8 % 2 == 0 && (areaWord b fcsAt &&& ~~~Fcs.mask) == 0

/-- Reserved fields and counts of the slot part (R384), those of the region snapshot among them. -/
def slotPartOk (b : List Byte) : Bool :=
  if areaBoundary b then zeroAt b 0x40 0x12C0
  else
    registersOk b 0x138 0x340 0x348 && registersOk b 0x4C8 0x4D0 0x4D8 && fieldAt b 0x350 8 / 2 ^ 32 == 0 && decide (16 ≤ fieldAt b 0x350 8) &&
    fieldAt b 0x360 8 / 256 == 0 && decide (fieldAt b 0x368 8 % 16 ≤ 8) && bitsN (fieldAt b 0x368 8) 7 4 == 0 && fieldAt b 0x368 8 / 2 ^ 16 == 0 &&
    (List.range 4).all (fun k => strmRecordOk (b.drop (0x4E0 + 128 * k))) && (List.range 8).all (fun q => chanRecordOk (b.drop (0x6E0 + 144 * q))) &&
    (List.range 32).all (fun d => zeroAt b (0xB60 + 16 * d + 10) 6) && zeroAt b 0x12A0 96

/-- MAGIC, VERSION, SIZE and the reserved fields of the header (R383), and of its ACTID and ACTLN (R32). -/
def areaHeaderOk (b : List Byte) : Bool :=
  b.take 4 == [0x43, 0x54, 0x58, 0x41] && fieldAt b 4 2 == 1 && fieldAt b 6 2 / 32 == 0 && decide (fieldAt b 11 1 < 16) && zeroAt b 12 4 &&
  decide (fieldAt b 49 1 < 8) && zeroAt b 50 6 && zeroAt b 60 4 && areaSize b % 256 == 0 &&
  fieldAt b 32 8 % 4 == 0 && fieldAt b 16 8 % 2 ^ 19 == 0 && bitsN (fieldAt b 24 8) 38 36 == 0 && (!areaBoundary b || (areaCore b && zeroAt b 32 16 && fieldAt b 6 2 / 4 == 0))

/-- The launch an area names. -/
def areaLaunch (b : List Byte) : Nat := launchKey (fieldAt b 11 1 % 16) (fieldAt b 8 2)

/-- Whether a saved context parked where an area says: at its PC, with its LIVE, in its region. -/
def Saved.parkedAt (b : List Byte) (v : Saved) : Bool :=
  v.pc == fieldAt b 40 8 && v.live == areaWord b 32 && (!testBit (fieldAt b 6 2) 2 || v.region == some (fieldAt b 0x3C8 8 % 2 ^ 10))

/-- The saved context that an area restores (log 40): of its launch, with its ACTID and kind. Formula acts of one launch in equal slots have one ACTID (R228): of these, the
one that parked where the area says, which its region tells from the others. -/
def savedFor (s : State) (b : List Byte) : Option Saved :=
  let mine := s.saved.filter (fun v => v.launch == areaLaunch b && v.actid == areaWord b 16 && v.boundary == areaBoundary b)
  match mine.find? (Saved.parkedAt b) with
  | some v => some v
  | none => mine.head?

/-- GINST and the virtual core of an ACTID (R32). -/
def actidGinst (w : Nat) : Nat := bitsN w 60 45
def actidVcore (w : Nat) : Nat := bitsN w 44 24

/-- An area without such a context passes the identity check when its launch has some act saved and not yet restored, and takes the place of one (R392): of one saved
on its virtual core; a core part of a core where no act was saved, of its boundary context. DEDUCED (log 19). -/
def strayFor (s : State) (b : List Byte) : Option Saved :=
  let mine := s.saved.filter (fun v => v.launch == areaLaunch b)
  let vcore := if areaCore b then (coreHdr b).vcore else actidVcore (fieldAt b 16 8)
  match mine.find? (fun v => !v.boundary) with
  | none => none
  | some first =>
    match mine.find? (fun v => !v.boundary && v.vcore == vcore) with
    | some v => some v
    | none => if areaCore b then mine.find? (fun v => v.vcore == vcore) else some first

/-- The group copy of an imported launch that an area belongs to, as the device takes it up. -/
def importedGinst (s : State) (b : List Byte) : GInst :=
  let l := s.launch (areaLaunch b)
  { launch := areaLaunch b, num := actidGinst (fieldAt b 16 8), tier := l.tier, ncores := if l.tier = 0 then 1 else 8 * bitsN (fieldAt b 24 8) 19 0
    parkReq := true, quiesced := true, regions := (s.obj l.objKey).regions }

/-- The context of an area, with the state that knows its group copy: saved here, or by another device for an imported launch, whose group copy has cores to come. An
area has no field for the number of a cluster draw in progress (R166, R383 to R387): an imported act has none, and its group copy counts its draws from 0.
DESIGN CHOICE (log 123). -/
def contextOf (s : State) (b : List Byte) : Option (Saved × State) :=
  match savedFor s b with
  | some v => some (v, s)
  | none =>
    let lk := areaLaunch b
    let w := fieldAt b 16 8
    let known := List.find? (fun (e : Nat × GInst) => e.2.launch == lk && e.2.num == actidGinst w && e.2.quiesced && e.2.savedCores.isEmpty) s.ginsts
    let open_ := match known with | some e => decide (e.2.cores.length < e.2.ncores) | none => false
    if (s.launch lk).away = 0 && !open_ then (strayFor s b).map (fun v => (v, s))
    else
      let g := match known with | some e => e.1 | none => s.nextId + 1
      let v : Saved := { act := s.nextId, launch := lk, ginst := g, vcore := actidVcore w, actid := areaWord b 16, pslot := 0, boundary := areaBoundary b, away := true }
      let s := { s with nextId := s.nextId + 2 }
      some (v, if known.isSome then s else { s with ginsts := KV.set s.ginsts g (importedGinst s b) })

/-- A core part keeps its tier's shape at a target core (R388): its virtual core is not elsewhere, no other of the instance is on this core, the
peers of a cluster lie in one cluster, and the clusters of a domain in one stack domain. -/
def tierKept (x : GInst) (v core : Nat) : Bool :=
  (KV.find? x.cores v).isNone && x.cores.all (fun c => c.2 != core &&
    (c.1 / 8 != v / 8 || clusterOf c.2 == clusterOf core) && (c.1 / 2 ^ 8 != v / 2 ^ 8 || clusterOf c.2 / 32 == clusterOf core / 32))

/-- A core part of another instance was restored on the core, and that instance has not resumed. -/
def partThere (s : State) (g core : Nat) : Bool :=
  s.ginsts.any (fun e => e.1 != g && e.2.back.any (fun v => KV.find? e.2.cores v == some core))

/-- A saved context conflicts with one that another launch configured at the target (R319). -/
def ctxConflict (s : State) (b : List Byte) (h : CoreHdr) (l core : Nat) : Bool :=
  h.jug && (List.range 4).any (fun k => testBit (fieldAt b (h.jugAt + 80 * k + 64) 1) 0 &&
    (match KV.find? (s.core core).jug.ctx k with | some x => x.launch != l | none => false))

/-- The checks of R388 on a core part. -/
def corePartOk (s : State) (b : List Byte) (v : Saved) (core : Nat) : Bool :=
  let h := coreHdr b
  let x := s.ginst v.ginst
  let l := s.launch v.launch
  h.vcore == v.vcore && (v.away || x.savedCores.contains h.vcore) && tierKept x h.vcore core && !partThere s v.ginst core && decide (h.rend ≤ spadRoom l.l1) &&
  coreFits s core l.l1 x.regions && !ctxConflict s b h v.launch core && decide ((s.core core).tags.length + h.ntag ≤ maxTags)

/-- The whole of R388 for an area, a target slot and the issuing slot's partition. -/
def areaOk (s : State) (b : List Byte) (p target : Nat) : Option (Saved × State) :=
  let lk := areaLaunch b
  let l := s.launch lk
  if !(areaHeaderOk b && slotPartOk b && (!areaCore b || (coreHdrOk b (coreHdr b) && coreRecordsOk b (coreHdr b))) &&
      areaSize b == alignUp 256 (if areaCore b then (coreHdr b).end_ else 0x1300)) then none
  else if fieldAt b 11 1 != (s.slot p).ctl.pid || (KV.find? s.launches lk).isNone || l.st.terminal || l.st == .ending || fieldAt b 49 1 != l.tier then none
  else match contextOf s b with
    | none => none
    | some (v, s) =>
      if areaCore b then (if corePartOk s b v (coreOf target) then some (v, s) else none)
      else if coreOfV s v.ginst v.vcore == some (coreOf target) then some (v, s) else none

/-! ### Restoring (R389) -/

/-- A stream register from its record. -/
def strmOf (r : List Byte) : Strm :=
  if fieldAt r 104 1 = 1 then { valid := true, desc := r.take 64, idx := (List.range 5).map (fun d => fieldAt r (64 + 8 * d) 8) } else {}

/-- A channel from its record. -/
def chanOf (r : List Byte) : Chan :=
  let w := fieldAt r 0 8
  let es := (List.range (bitsN w 7 4)).map (fun k => vecOfBytes ((r.drop (16 + 16 * k)).take 16))
  match w % 4 with
  | 1 => { kind := .input, tag := bitsN w 31 16, entries := es }
  | 2 => { kind := .output, tag := bitsN w 31 16, route := fieldAt r 8 8, entries := es }
  | _ => {}

/-- A list of numbered values, those equal to a default left out. -/
def listed {α : Type} [BEq α] (d : α) (l : List (Nat × α)) : KV α := l.filter (fun x => x.2 != d)

/-- Frame records of an area, the newest first. -/
def framesOf (b : List Byte) (n : Nat) : List Frame :=
  ((List.range n).map (fun d => let o := 0xB60 + 16 * d
    ({ link := fieldAt b o 8, callee := fieldAt b (o + 8) 1, caller := fieldAt b (o + 9) 1 } : Frame))).reverse

/-- Window entries below OFFS of an area. -/
def lowWindow (b : List Byte) (n : Nat) : List (Nat × Word) := (List.range n).map (fun i => (i, areaWord b (0xD60 + 8 * i)))

/-- The region snapshot of an area; its caller frames are those of the area, and its program counter the device keeps. -/
def snapOf (b : List Byte) (pc : Nat) : Snapshot :=
  let o := 0x3D0
  let wp := fieldAt b (o + 248) 8
  let offs := wp % 256
  { xg := listed 0 ((List.range 7).map (fun i => (i + 1, areaWord b (o + 8 * i))))
    win := listed 0 (lowWindow b offs ++ (List.range 24).map (fun i => (offs + i, areaWord b (o + 56 + 8 * i))))
    offs := offs, frame := wp / 256 % 256, frames := framesOf b (wp / 2 ^ 16), preds := BitVec.ofNat 8 (fieldAt b (o + 256) 1)
    fcs := areaWord b (o + 264) &&& Fcs.mask, pc := pc }

/-- The view of an area: the table, the generation and the handle. -/
def areaView (s : State) (b : List Byte) (v : Saved) : Option (Nat × Nat × Word) :=
  match v.table with
  | some x => some (x.1, x.2, areaWord b 0x370)
  | none =>
    if testBit (fieldAt b 6 2) 3 then (cellOf s (s.launch v.launch).part (fieldAt b 0x370 8)).map (fun c => (c.1, fieldAt b 0x378 8, areaWord b 0x370)) else none

/-- The region of an area: the live region slot that its RSW names, by number and generation. -/
def areaRegion (s : State) (b : List Byte) (v : Saved) : Option Nat :=
  match v.region with
  | some rs => some rs
  | none =>
    let w := fieldAt b 0x3C8 8
    let rs := w % 2 ^ 10
    if testBit (fieldAt b 6 2) 2 && (s.rslot rs).live && (s.rslot rs).gen % 2 ^ 32 == bitsN w 41 10 && (s.rslot rs).launch == v.launch then some rs else none

/-- The row of an imported row-handler act: the first of the rows that the recorded drain still awaits and no act has. DESIGN CHOICE: an area does not
name the row (log 98). -/
def areaRow (s : State) (b : List Byte) (v : Saved) (core : Nat) : Option (Nat × Nat) :=
  match v.row with
  | some x => some x
  | none =>
    if bitsN (fieldAt b 16 8) 21 19 != 3 then none
    else ((s.core core).mx.queue.find? (fun x => x.org.ginst == v.ginst && x.dispatched)).bind (fun x =>
      (x.rows.find? (fun r => !(s.slots.any (fun e => e.2.ginst == v.ginst && e.2.vcore == v.vcore && e.2.row == some (r, mxTile x.msg)))))
        |>.map (fun r => (r, mxTile x.msg)))

/-- The bits of ACTLN and TCFG that are not reserved; reserved bits read 0 (R8). -/
def actlnMask : Word := 0xFFFFFF8FFFFFFFFF
def tcfgMask : Word := 0xFFFF0FFFC0000F0F

/-- The act of an area in a slot (R389): PARKED until the whole instance resumes. Its ACTID changes in SLOT alone. DESIGN CHOICE: no check of R388 names
the PC, and one that breaks R61 ends the act's next fetch in `unalignedFetch` (log 18); FCS flags that come back with it set no STICKY bit (log 103); an act of another device's area has placed no
Juggler entry (log 144). -/
def restoredSlot (s : State) (b : List Byte) (v : Saved) (p : Nat) : Slot :=
  let wp := fieldAt b 0x138 8
  let offs := wp % 256
  let id := fieldAt b 16 8
  let n := fieldAt b 0x368 8
  let list := (List.range (n % 16)).map (fun k => areaWord b (0x380 + 8 * k))
  let all := v.uints.foldl (fun l w => uintHold w l) (list, n / 256 % 256)
  { st := .parked, act := v.act, launch := some v.launch, ginst := v.ginst, vcore := v.vcore
    actid := BitVec.ofNat 64 (id / 2 ^ 24 * 2 ^ 24 + p % 4 * 2 ^ 22 + bitsN id 21 19 * 2 ^ 19), actln := areaWord b 24 &&& actlnMask, feat := fieldAt b 48 1, tier := fieldAt b 49 1
    pc := fieldAt b 40 8, frame := wp / 256 % 256, offs := offs, frames := framesOf b (wp / 2 ^ 16)
    xg := listed 0 ((List.range 7).map (fun i => (i + 1, areaWord b (0x40 + 8 * i))))
    win := listed 0 (lowWindow b offs ++ (List.range 24).map (fun i => (offs + i, areaWord b (0x78 + 8 * i))))
    v := listed 0 ((List.range 32).map (fun k => (k, vecOfBytes ((b.drop (0x140 + 16 * k)).take 16))))
    preds := BitVec.ofNat 8 (fieldAt b 0x340 1), fcs := areaWord b 0x348, rto := areaWord b 0x350, wdSaved := fieldAt b 0x358 8
    replies := fieldAt b 0x360 1, uints := all.1, uintLoss := (if all.2 + v.uintLoss < 255 then all.2 + v.uintLoss else 255)
    strms := listed {} ((List.range 4).map (fun k => (k, strmOf ((b.drop (0x4E0 + 128 * k)).take 128))))
    chans := listed {} ((List.range 8).map (fun q => (q, chanOf ((b.drop (0x6E0 + 144 * q)).take 144))))
    view := areaView s b v, region := areaRegion s b v, snap := snapOf b v.snap.pc
    live := areaWord b 32, safe := true, reexec := testBit (fieldAt b 6 2) 4, resumed := testBit (fieldAt b 6 2) 4
    drawNo := v.draw, formula := v.formula, row := areaRow s b v (coreOf p), mxLast := v.mxLast, jqLast := v.jqLast
    origin := bitsN id 21 19, store := (s.slot p).store, ctl := { level := 0 } }

/-- The scratchpad of a core part written at the target: bytes and full-empty bits. -/
def restoreSpad (b : List Byte) (h : CoreHdr) (g core : Nat) (s : State) : State :=
  let s := { s with mem := (List.range h.rend).foldl (fun m off => Memory.write m (spadAt s g h.vcore core off) ((b.drop (h.spadAt + off)).headD 0)) s.mem }
  (List.range (h.rend / 16)).foldl (fun s k => setFe s (spadAt s g h.vcore core (16 * k)) (testBit (fieldAt b (h.feAt + k / 8) 1) (k % 8))) s

/-- The tags of a core part. -/
def restoredTags (b : List Byte) (h : CoreHdr) (g l : Nat) : List Tag :=
  (List.range h.ntag).map (fun k =>
    let w := fieldAt b (h.tagAt + 16 * k) 8
    { ginst := g, tag := w % 2 ^ 16, launch := l, handler := if testBit w 16 then some (bitsN w 47 32) else none })

/-- The barriers of a core part. -/
def restoreBarriers (b : List Byte) (h : CoreHdr) (x : GInst) : GInst :=
  (List.zip h.scopes (List.range h.scopes.length)).foldl (fun x sc => (List.range 16).foldl (fun x k =>
    let w := fieldAt b (h.barAt + 128 * sc.2 + 8 * k) 8
    { x with barriers := KV.set x.barriers (barrierKey sc.1 h.vcore k) { phase := w % 2 ^ 32, n := bitsN w 47 32, count := bitsN w 63 48 } }) x) x

/-- A re-issuable copy as a command again (R391): its remaining bytes, its object, its reply. -/
def copyAgain (r : List Byte) (org : Origin) : Entry :=
  let ctl := fieldAt r 20 1
  let rep := testBit ctl 6
  { org := org
    msg := leBytes 1 2 ++ leBytes 1 1 ++ leBytes 2 (if rep then fieldAt r 22 2 else 0xFFFF) ++ leBytes 1 rep.toNat ++ zeros 11 ++ (r.take 16) ++
      (r.drop 16).take 4 ++ zeros 4 ++ (r.drop 24).take 8 ++ leBytes 1 (ctl % 4) ++ zeros 15 }

/-- The recorded copies of a virtual core, as the area gives them. -/
def restoreCopies (b : List Byte) (h : CoreHdr) (v : Saved) (x : GInst) : GInst :=
  let old := (x.copies.filter (fun e => e.1 == h.vcore)).map Prod.snd
  let new := (List.range h.ncopy).map (fun k =>
    (h.vcore, copyAgain ((b.drop (h.copyAt + 32 * k)).take 32)
      ((old[k]?.map (fun (e : Entry) => e.org)).getD { launch := v.launch, ginst := v.ginst, vcore := v.vcore, pslot := 0, act := 0 })))
  { x with copies := x.copies.filter (fun e => e.1 != h.vcore) ++ new }

/-- The matrix state of a core part: the unit takes ownership, with TCFG, tiles, tickets and status words (R272). -/
def restoredMatrix (b : List Byte) (h : CoreHdr) (l : Nat) (held : List Entry) : Matrix :=
  let o := h.mxAt
  let next := fieldAt b (o + 8) 8 % 2 ^ 32
  let open_ := fun (t : Nat) => held.any (fun e => e.ticket == t)
  { owner := some l, tcfg := areaWord b o &&& tcfgMask
    tiles := listed 0 ((List.range 1024).map (fun i => (i, BitVec.ofNat 32 (fieldAt b (o + 16 + 4 * i) 4))))
    queue := [], next := next, accepted := next
    status := (List.zip (List.range 64) (lastTickets next)).filterMap (fun x =>
      let w := areaWord b (o + 4112 + 8 * x.1)
      if w.toNat / 2 ^ 32 = x.2 ∧ open_ x.2 = false then some (x.2, w) else none) }

/-- The rows of a recorded drain whose acts ended while the unit was saved are +0, unless KEEP is set (R257). -/
def clearEnded (tc : Word) (held : List Entry) (m : Matrix) : Matrix :=
  held.foldl (fun m e => if e.dispatched && !e.keeps then
    ((List.range (tcM tc)).filter (fun i => !e.rows.contains i)).foldl (fun m i => clearRow (mxTile e.msg) i m) m else m) m

/-- The Juggler state of a core part: contexts under their numbers, the ticket counter and the retained words. -/
def restoreJug (b : List Byte) (h : CoreHdr) (g l : Nat) (j : Juggler) : Juggler :=
  if !h.jug then j
  else
    let o := h.jugAt
    let next := fieldAt b (o + 320) 8 % 2 ^ 32
    let kept := (List.zip (List.range 64) (lastTickets next)).filterMap (fun x =>
      let w := areaWord b (o + 328 + 24 * x.1)
      if w.toNat / 2 ^ 32 = x.2 then some (x.2, w, areaWord b (o + 336 + 24 * x.1), l) else none)
    { j with
      ctx := (List.range 4).foldl (fun c k =>
        if testBit (fieldAt b (o + 80 * k + 64) 1) 0 then KV.set c k { desc := (b.drop (o + 80 * k)).take 64, launch := l } else c) j.ctx
      counts := KV.set j.counts g { next := next, kept := kept } }

/-- A message record of an imported area: a packet, or a message of the kind that its TAG tells (log 98). -/
def importedItem (b : List Byte) (h : CoreHdr) (v : Saved) (core k : Nat) : NetItem :=
  let r := (b.drop (h.msgAt + 80 * k)).take 80
  let tag := fieldAt r 64 2
  let i : NetItem := { kind := .code, src := 0x8000, launch := v.launch, ginst := v.ginst, dst := core, vcore := h.vcore, tag := tag, isMessage := true, at_ := k }
  let words := (List.range 7).map (fun n => BitVec.ofNat 64 (fieldAt r (8 * n) 8))
  if testBit (fieldAt r 66 1) 0 then { i with kind := .packet, data := r.take 16, isMessage := false }
  else if tag = 1 then { i with kind := .start, regs := words, handler := fieldAt r 56 8 }
  else if tag = 2 then { i with kind := .port, regs := words.take 3, handler := fieldAt r 56 8 }
  else if 0x8000 ≤ tag && tag < 0xFFFF then
    { i with kind := .row, src := engineSrc, handler := tcRhnd (areaWord b h.mxAt), regs := [BitVec.ofNat 64 (tag % 16), BitVec.ofNat 64 (tag / 16 % 4)]
             data := r.take 64, row := some (tag % 16, tag / 16 % 4) }
  else { i with data := (r.take 64).drop 16, regs := [BitVec.ofNat 64 (fieldAt r 56 8), BitVec.ofNat 64 (fieldAt r 0 8)] }

/-- A matrix entry of an imported area. -/
def importedMx (b : List Byte) (h : CoreHdr) (v : Saved) (k : Nat) : Entry :=
  let r := (b.drop (h.mxAt + 4624 + 80 * k)).take 80
  let n := fieldAt r 68 2
  if msgEop r == 4 && n != 0 then
    { org := { launch := v.launch, ginst := v.ginst, vcore := h.vcore, pslot := 0, act := 0 }, msg := r.take 64, ticket := fieldAt r 64 4, started := true,
      dispatched := true, rows := (List.range 16).filter (testBit n) }
  else { org := { launch := v.launch, ginst := v.ginst, vcore := h.vcore, pslot := 0, act := 0 }, msg := r.take 64, ticket := fieldAt r 64 4,
           done := n, started := n != 0 }

/-- An imported packet goes where an arriving one would: to the inbox under a handler's tag, else to the parking buffer. -/
def importPacket (tags : List Tag) (i : NetItem) (c : Core) : Core :=
  match (tags.find? (fun t => t.tag == i.tag)).bind (fun t => t.handler) with
  | some hd => { c with inbox := c.inbox ++ [{ i with handler := hd }] }
  | none => { c with parking := c.parking ++ [{ ginst := i.ginst, tag := i.tag, data := vecOfBytes i.data, launch := i.launch, at_ := i.at_ }] }

/-- The messages of an imported area put back in their order. -/
def importMessages (b : List Byte) (h : CoreHdr) (v : Saved) (core : Nat) (c : Core) : Core :=
  (List.range h.nmsg).foldl (fun c k =>
    let i := importedItem b h v core k
    if i.kind == .packet then importPacket (restoredTags b h v.ginst v.launch) i c else { c with inbox := c.inbox ++ [i] }) c

/-- A core part restored: the target core becomes the home of its virtual core. The recorded matrix entries stand ahead of any other, and the unit takes them up when
the group copy goes on (R272). -/
def restoreCore (b : List Byte) (v : Saved) (core : Nat) (s : State) : State :=
  let h := coreHdr b
  let g := v.ginst
  let x := s.ginst g
  let held := (x.held.filter (fun i => i.1 == h.vcore)).map (fun i => { i.2 with dst := core })
  let pks := (x.heldParked.filter (fun i => i.1 == h.vcore)).map Prod.snd
  let imported := if v.away then (List.range h.nmx).map (importedMx b h v) else []
  let mxq := (x.heldMx.filter (fun i => i.1 == h.vcore)).map Prod.snd ++ imported
  let s := restoreSpad b h g core s
  let s := s.modGinst g (fun x => restoreCopies b h v (restoreBarriers b h { x with
    cores := KV.set x.cores h.vcore core, savedCores := x.savedCores.filter (· != h.vcore), back := h.vcore :: x.back, owed := x.owed + h.nacts
    heldMx := x.heldMx.filter (fun i => i.1 != h.vcore)
    held := x.held.filter (fun i => i.1 != h.vcore), heldParked := x.heldParked.filter (fun i => i.1 != h.vcore) }))
  let s := if v.away then s.modCore core (importMessages b h v core) else s
  s.modCore core (fun c => { c with
    tags := c.tags ++ restoredTags b h g v.launch, inbox := c.inbox ++ held, parking := c.parking ++ pks
    mx := if h.mx then { clearEnded (areaWord b h.mxAt) mxq (restoredMatrix b h v.launch mxq) with queue := mxq ++ (if c.mx.owner == some v.launch then c.mx.queue else []) } else c.mx
    jug := restoreJug b h g v.launch c.jug })

/-- A restored act holds its view's pin and its region, whichever device saved it. -/
def adopt (p : Nat) (s : State) : State :=
  let t := s.slot p
  let s := match t.view with
    | some (n, g, h) => if (s.table n).views.any (fun x => x.act == t.act) then s else s.modTable n (fun x => { x with views := x.views ++ [{ act := t.act, gen := g, handle := h }] })
    | none => s
  match t.region with
  | some rs => s.modRslot rs (fun r => if r.live && r.launch == t.launch.getD 0 then { r with act := t.act } else r)
  | none => s

/-- A context that has been restored is no longer saved. -/
def unsave (v : Saved) (s : State) : State :=
  let s := if v.boundary then s else s.modGinst v.ginst (fun x => { x with owed := x.owed - 1 })
  let s := if v.away && !v.boundary then s.modLaunch v.launch (fun l => { l with away := l.away - 1 }) else s
  { s with saved := s.saved.filter (fun x => !(x.act == v.act && x.boundary == v.boundary && x.ginst == v.ginst && x.vcore == v.vcore)) }

/-- `xrest`. -/
def execXrest (e : Enc) (s : State) : Out := issue 0xF1 e (fun p => do
  let a ← readX p e.a
  let x ← readX p e.b
  let t ← pslotArg p x
  fullFence p
  let s ← Act.look id
  if a.toNat % 256 != 0 then Act.accessFault Cause.misalign .load a.toNat
  else if (s.slot t).st != .free then putStatus p e PStat.busy
  else do
    let hd ← loadBytes p a.toNat 64
    Act.require (!isCtl t && maskHas (s.part (fieldAt hd 11 1 % 16)) (clusterOf t)) Cause.privilege
    let n := areaSize hd
    if !areaHeaderOk hd || decide (n < 0x1300) || decide (2 ^ 20 < n) then putStatus p e PStat.badarea
    else do
      let b ← loadBytes p a.toNat n
      let s ← Act.look id
      match areaOk s b p t with
      | none => putStatus p e PStat.badarea
      | some (v, s) =>
        Act.upd (fun _ => s)
        let core := coreOf t
        if areaCore b then do
          Act.upd (fun s => if (coreHdr b).mx then (matrixRelease core s).getD s else s)
          let s ← Act.look id
          Act.ready (!(coreHdr b).mx || (s.core core).mx.owner.isNone || (s.core core).mx.owner == some v.launch)
          Act.upd (restoreCore b v core)
        if !areaBoundary b then Act.upd (fun s => adopt t (noteFull t (s.setSlot t (restoredSlot s b v t))))
        Act.upd (unsave v)
        putStatus p e PStat.ok) s

/-! ### The resumption (R390) -/

/-- Everything of a parked group copy is restored: every core part, and every act. -/
def canResume (s : State) (g : Nat) : Bool :=
  let x := s.ginst g
  x.quiesced && x.savedCores.isEmpty && decide (0 < x.ncores) && x.back.length == x.ncores && x.owed == 0

/-- An act of the group copy goes on: its watchdog from the saved count. -/
def resumedSlot (g cycle : Nat) (t : Slot) : Slot :=
  if t.liveIn g && t.st == .parked then { t with st := .active, wdBase := (cycle : Int) - t.wdSaved, wdSaved := 0, parkReq := false } else t

/-- The recorded copies of the group copy enter their queues ahead of any new entry of it. -/
def reissue (g : Nat) (s : State) : State :=
  let x := s.ginst g
  let s := x.cores.foldl (fun s (c : Nat × Nat) => s.modCore c.2 (fun y => { y with
    copyq := y.copyq ++ (x.copies.filter (fun e => e.1 == c.1)).map Prod.snd })) s
  s.modGinst g (fun x => { x with copies := [], parkReq := false, quiesced := false, back := [] })

/-- The entries that an act's `.out` channels had when it was saved are packets again (R385). -/
def sendHeld (p : Nat) (s : State) : State :=
  (List.range 8).foldl (fun s q =>
    let c := (s.slot p).chan q
    if c.kind == .output && !c.entries.isEmpty then
      let v := routeVcore c.route
      let s' := c.entries.foldl (fun s x => netPush { itemFrom s p .packet ((destOf s (s.slot p).ginst v).getD 0) v with
        tag := c.route % 2 ^ 16, data := bytesOfVec x, chan := some q } s) s
      s'.modSlot p (fun t => t.setChan q { c with entries := [] })
    else s) s

/-- Event INSTANCE_RESUME: no lease of an earlier time is left on the cores where the acts go on (R216). -/
def execInstanceResume (ginst : Nat) (s : State) : Out := event (fun s =>
  if canResume s ginst then
    let s := (s.ginst ginst).cores.foldl (fun s c => s.modCore c.2 (fun x => { x with l1 := [] })) (reissue ginst s)
    let s := s.slots.foldl (fun s (e : Nat × Slot) => if e.2.liveIn ginst && e.2.st == .parked then sendHeld e.1 s else s) s
    some (launchSettle (s.ginst ginst).launch { s with slots := s.slots.map (fun (e : Nat × Slot) => (e.1, resumedSlot ginst s.cycle e.2)) })
  else none) s

end Sys2Proof.Machine
end

