-- ==== Sys2Proof/Machine/Ports.lean ====
section
/-! DEFINITION. The Ultra Ethernet ports (R420 to R428): the landing of an arriving message in its flow's ring, and the transmit rings. -/

namespace Sys2Proof.Machine

/-! ### Flows (R421, R422) -/

/-- The flow an index names: its partition, its number and the address of its entry; none where the packet is dropped at the port (R421): also before the
partition's image is booted, since its flows land in stage S3 (R434). -/
def flowAt (s : State) (index : Nat) : Option (Nat × Nat × Nat) :=
  match KV.find? s.keys index with
  | none => none
  | some k =>
    let e := s.part k.part
    match portTable s k.part with
    | none => none
    | some base =>
      if k.typ != 2 || decide (16 ≤ k.part) || !e.booted || index < e.keybase || e.keybase + e.keycount ≤ index then none
      else some (k.part, index - e.keybase, base + 128 * (index - e.keybase))

/-- A field of a flow entry. -/
def flowField (s : State) (at_ off n : Nat) : Nat := ofLe (homeRead s (at_ + off) n none)
/-- A field of a flow entry written by the port. -/
def setFlow (at_ off n v : Nat) (s : State) : State := homeStore none { loc := at_ + off } (leBytes n v) s
/-- A counter of a flow entry raised, modulo its width. -/
def addFlow (at_ off n k : Nat) (s : State) : State := setFlow at_ off n ((flowField s at_ off n + k) % 2 ^ (8 * n)) s

/-- The fields of a flow entry that configure it. -/
structure Flow128 where
  v : Bool
  mode : Nat
  policy : Nat
  spad : Bool
  hnd : Bool
  txen : Bool
  ports : Nat
  slog : Nat
  rlog : Nat
  rcore : Nat
  hlaunch : Nat
  hidx : Nat
  hcore : Nat
  mbz : Nat
  rbase : Nat
  txbase : Nat
  deriving DecidableEq, Repr

def flowOf (s : State) (at_ : Nat) : Flow128 :=
  let c := flowField s at_ 0 1
  { v := testBit c 0, mode := bitsN c 2 1, policy := bitsN c 4 3, spad := testBit c 5, hnd := testBit c 6, txen := testBit c 7
    ports := flowField s at_ 1 1, slog := flowField s at_ 2 1, rlog := flowField s at_ 3 1, rcore := flowField s at_ 4 2
    hlaunch := flowField s at_ 6 2, hidx := flowField s at_ 8 2, hcore := flowField s at_ 10 2, mbz := flowField s at_ 12 4
    rbase := flowField s at_ 16 8, txbase := flowField s at_ 64 8 }

/-- Whether the fields are in range (R422): RCORE and HCORE are PSLOT words where they are used (R342), and a ring in scratchpad lies within its core's (R168,
R338). -/
def Flow128.ok (f : Flow128) : Bool :=
  decide (f.mode ≤ 2) && decide (f.policy ≤ 2) && decide (8 ≤ f.slog) && decide (f.slog ≤ 14) && decide (4 ≤ f.rlog) && decide (f.rlog ≤ 16) && f.mbz == 0 &&
  (if f.spad then f.rbase % 256 == 0 && pslotOk (coreOf f.rcore) && decide (f.rbase + 2 ^ (f.slog + f.rlog) ≤ if isCtl f.rcore then 320 * 1024 else ownTop) else f.rbase % 4096 == 0) && (!f.txen || f.txbase % 4096 == 0) &&
  (f.policy != 2 || f.mode == 1) && (!f.hnd || pslotOk (coreOf f.hcore))

/-- Whether a core belongs to an enabled partition's mask (R423). -/
def coreServes (s : State) (e : Part) (core : Nat) : Bool :=
  if isCtl core then testBit e.ccmask (4 * dieOf core + core / 16 % 8)
  else (KV.get (0 : Word) e.clmask (clusterOf core / 64)).getLsbD (clusterOf core % 64) &&
    !(s.die (clusterOf core / 64)).outsvc.getLsbD (clusterOf core % 64)

/-- Whether every page of a ring translates for the port's writes. -/
def ringMaps (s : State) (part : Nat) (f : Flow128) : Bool :=
  let n := 2 ^ (f.slog + f.rlog)
  decide (globalBase ≤ f.rbase) &&
  ((List.range ((n + 65535) / 65536 + 1)).all (fun k =>
    let va := if f.rbase + 65536 * k < f.rbase + n then f.rbase + 65536 * k else f.rbase + n - 1
    match resolve (whoPart s part) .engine Need.write va 1 false s with | .ok _ => true | .error _ => false))

/-- Whether an arrival on a port is dropped for a bad entry (R423). -/
def flowBad (s : State) (part port : Nat) (f : Flow128) : Bool :=
  !f.v || !testBit f.ports port || !f.ok || (if f.spad then !coreServes s (s.part part) (coreOf f.rcore) else !ringMaps s part f)

/-! ### Landing (R424, R425) -/

/-- A record written to its slot: the new state; none where it must wait; or, on the left, not written (a granule poisoned in part). -/
def landBytes (part : Nat) (f : Flow128) (off : Nat) (b : List Byte) (s : State) : Option (Bool × State) :=
  if f.spad then
    let loc := spadLoc (coreOf f.rcore) (f.rbase + off)
    if (granules loc b.length).any (fun g => heldByOther s none (g * 16)) then none
    else if (poisonPart s loc b.length).isSome then some (false, s)
    else some (true, (granules loc b.length).foldl (fun s g => changeFe s (g * 16) true) (homeStore none { loc := loc } b s))
  else match (engineWrite (whoPart s part) (f.rbase + off) b : Act Unit) s with
    | .ok (_, s') => some (true, s')
    | .error (.wait _) => none
    | .error _ => some (false, s)

/-- LEN of the record in a slot. -/
def recordLen (part : Nat) (f : Flow128) (off : Nat) (s : State) : Nat :=
  if f.spad then ofLe (homeRead s (spadLoc (coreOf f.rcore) (f.rbase + off)) 4 none)
  else match engineRead (whoPart s part) (f.rbase + off) 4 s with
    | .ok (b, _) => ofLe b
    | .error _ => 0

/-- The sender number of a port's start messages. -/
def portSrc (port : Nat) : Nat := 0x30000 + port

/-- The virtual core of an unfinished launch that a core holds. -/
def launchOnCore (s : State) (lk core : Nat) : Option (Nat × Nat) :=
  s.ginsts.findSome? (fun (g : Nat × GInst) =>
    if g.2.launch == lk && !g.2.formula then (List.find? (fun (c : Nat × Nat) => c.2 == core) g.2.cores).map (fun c => (g.1, c.1)) else none)

/-- The handler act of a landing starts, or CFGERR rises (R425). -/
def startHandler (port part k at_ : Nat) (f : Flow128) (addr len : Nat) (s : State) : State :=
  let lk := launchKey part f.hlaunch
  match KV.find? s.launches lk, launchOnCore s lk (coreOf f.hcore) with
  | some l, some (g, v) =>
    if !l.st.terminal && decide (f.hidx < (s.obj l.objKey).handlers.length) then
      netPush { kind := .port, src := portSrc port, launch := lk, ginst := g, dst := coreOf f.hcore, vcore := v, prio := l.prio, handler := f.hidx
                regs := [BitVec.ofNat 64 addr, BitVec.ofNat 64 len, BitVec.ofNat 64 k] } s
    else addFlow at_ 124 4 1 s
  | _, _ => addFlow at_ 124 4 1 s

/-- A record lost at the port. -/
def lost (at_ len : Nat) (s : State) : State := addFlow at_ 48 8 len (addFlow at_ 40 8 1 s)

/-- The landing of a record whose entry is good (R424); none where acceptance is withheld or a write must wait. -/
def landRecord (port part k at_ mode : Nat) (f : Flow128) (payload : List Byte) (s : State) : Option State :=
  let len := payload.length
  let n := flowField s at_ 32 8
  let h := flowField s at_ 24 8
  let slot := fun (i : Nat) => 2 ^ f.slog * (i % 2 ^ f.rlog)
  if 2 ^ f.slog - 16 < len then some (lost at_ len s)
  else
    let full := decide (2 ^ f.rlog ≤ (n + 2 ^ 64 - h) % 2 ^ 64)
    if full && f.policy == 0 then some (lost at_ len s)
    else if full && f.policy == 2 then none
    else
      let s1 := if full then lost at_ (recordLen part f (slot h) s) (setFlow at_ 24 8 ((h + 1) % 2 ^ 64) s) else s
      let b := leBytes 4 len ++ leBytes 1 port ++ leBytes 1 mode ++ leBytes 2 0 ++ leBytes 8 n ++ payload
      match landBytes part f (slot n) b s1 with
      | none => none
      | some (false, s2) => some (lost at_ len s2)
      | some (true, s2) =>
        let s3 := setFlow at_ 32 8 ((n + 1) % 2 ^ 64) s2
        some (if f.hnd then startHandler port part k at_ f (f.rbase + slot n + 16) len s3 else s3)

/-- An arrival counted in one of the port's own counters (R420, R421). -/
def portCount (port kind : Nat) (s : State) : State := countUp (portCounter port kind) s

/-- Whether the ports land nothing: before stage S2, and after a fatal error (R420, R433). -/
def portsClosed (s : State) : Bool := s.board.fatal || s.board.stage == .s0 || s.board.stage == .s1

/-- A port's update of a flow entry, or of its half at `off`, which waits while another unit holds that line (R178, R179). -/
def unheld (at_ off : Nat) (s : State) (r : Option State) : Option State := if heldByOther s none (at_ + off) then none else r

/-- A flow entry one of whose granules is poisoned, which the port cannot read: the port drops what arrives for it, and a first consumption is recorded. DEDUCED (log
117). -/
def flowPoison (s : State) (at_ : Nat) : Option Nat := poisonIn s at_ 128

/-- Event PORT_LANDING: a transport message arrives. Mode 3 stands for a mode that is not supported (R420). -/
def execPortLanding (port index mode : Nat) (tagOk : Bool) (payload : List Byte) (s : State) : Out := boardEvent (fun s =>
  if 8 ≤ port then none
  else if portsClosed s || decide (3 ≤ mode) then some (portCount port 0 s)
  else match flowAt s index with
    | none => some (portCount port 1 s)
    | some (part, k, at_) =>
      match flowPoison s at_ with
      | some l => some (portCount port 1 (consumePoison s l (homeDie l) part 0 0))
      | none =>
        if !tagOk then unheld at_ 0 s (some (addFlow at_ 56 8 1 s))
        else
          let f := flowOf s at_
          if flowBad s part port f then unheld at_ 64 s (some (addFlow at_ 124 4 1 s))
          else unheld at_ 0 s (if f.hnd then unheld at_ 64 s (landRecord port part k at_ mode f payload s) else landRecord port part k at_ mode f payload s)) s

/-! ### Transmission (R427) -/

/-- The key of a flow's transmit state. -/
def txKey (part flow : Nat) : Nat := part * 2 ^ 13 + flow
def txOf (s : State) (part flow : Nat) : TxFlow := KV.get {} s.board.tx (txKey part flow)
def setTx (part flow : Nat) (x : TxFlow) (s : State) : State := s.modBoard (fun b => { b with tx := KV.set b.tx (txKey part flow) x })

/-- A read of a port for a flow: its bytes, and the state it leaves; none where it cannot be done. -/
def txRead (part va n : Nat) (s : State) : Option (List Byte) × State :=
  match partRead part va n s with
  | .ok (b, s') => (some b, s')
  | .error e => (none, poisonMet part e s)

/-- The payload of a descriptor, and the state that its reads leave; none where it is abandoned: a field is bad, or its bytes cannot be read. -/
def txPayload (part : Nat) (f : Flow128) (n : Nat) (s : State) : Option (List Byte) × State :=
  match txRead part (f.txbase + 32 * (n % 2 ^ f.rlog)) 32 s with
  | (none, s') => (none, s')
  | (some d, s') =>
    let len := fieldAt d 8 4
    if len = 0 || decide (2 ^ f.slog - 16 < len) || !zeroAt d 12 20 then (none, s')
    else txRead part (fieldAt d 0 8) len s'

/-- Whether the writer of a TXTAIL may use the ports: CLPERM.PORTS of its cluster; a writer that is none of the device's clusters (number 256) has no CLPERM.
DESIGN CHOICE (log 110). -/
def mayTransmit (s : State) (cluster : Nat) : Bool := decide (256 ≤ cluster) || testBit (s.cluster cluster).clperm.toNat 7

/-- The oldest reported TXTAIL write of a flow entry that the port has not looked at. -/
def nextTail (s : State) (at_ : Nat) : Option TailWrite := s.board.txWrites.find? (fun w => w.entry == at_)

/-- That report gone. -/
def tailSeen (at_ : Nat) (s : State) : State :=
  s.modBoard (fun b => { b with txWrites := b.txWrites.eraseP (fun w => w.entry == at_) })

/-- Event PORT_TRANSMIT: a port, one of the eight, sees the next write of TXTAIL, and accepts or ignores it; with none to see, it reads the next descriptor and its payload.
Which of the ports serves a flow is the event's argument. DESIGN CHOICE (log 110). -/
def execPortTransmit (part flow port : Nat) (s : State) : Out := event (fun s =>
  match flowAt s ((s.part part).keybase + flow) with
  | none => none
  | some (pp, _, at_) =>
    let f := flowOf s at_
    let x := txOf s part flow
    if 8 ≤ port || pp != part || portsClosed s || (flowPoison s at_).isSome then none
    else match nextTail s at_ with
      | some w =>
        if f.txen && mayTransmit s w.writer then some (setTx part flow { x with limit := some w.value } (tailSeen at_ s))
        else unheld at_ 64 s (some (addFlow at_ 120 4 1 (tailSeen at_ s)))
      | none =>
        let n := (flowField s at_ 72 8 + x.out.length) % 2 ^ 64
        if !f.v || !f.ok || !f.txen || x.limit.isNone || x.limit == some n then none
        else
          let r := txPayload part f n s
          some (setTx part flow { x with out := x.out ++ [r.1] } r.2)) s

/-- Event PORT_TX_COMPLETE: the oldest message is acknowledged, sent or abandoned. In UUD a message that was read is sent. -/
def execPortTxComplete (part flow : Nat) (abandoned : Bool) (s : State) : Out := event (fun s =>
  match flowAt s ((s.part part).keybase + flow) with
  | none => none
  | some (pp, _, at_) =>
    let x := txOf s part flow
    match x.out with
    | [] => none
    | m :: r =>
      if pp != part || portsClosed s || (flowPoison s at_).isSome || (abandoned && m.isSome && (flowOf s at_).mode == 2) then none
      else
        let s := addFlow at_ 72 8 1 (setTx part flow { x with out := r } s)
        unheld at_ 64 s (some (if abandoned || m.isNone then addFlow at_ 112 8 1 s else s))) s

end Sys2Proof.Machine
end

