-- ==== Sys2Proof/Machine/QueueImage.lean ====
section
/-! DEFINITION. Export and import of launch queues (R374, R375). -/

namespace Sys2Proof.Machine

/-! ### The queue an instruction names -/

/-- A queue word: bits [5:0] the queue, [7:6] the die, all others zero (R356). -/
def queueArg (w : Word) : Act Nat := do
  Act.require (decide (w.toNat < 256)) Cause.illegalOperand
  pure (queueKey (w.toNat / 64) (w.toNat % 64))

/-- The image address is aligned to 64. -/
def imageAligned (a : Nat) (k : AKind) : Act Unit := if a % 64 = 0 then pure () else Act.accessFault Cause.misalign k a

/-! ### Images -/

/-- STATE of a recorded launch. -/
def LState.imageCode : LState → Nat | .waiting => 1 | .placing => 2 | .running => 3 | _ => 4
def LState.ofImage : Nat → LState | 1 => .waiting | 2 => .placing | 3 => .running | _ => .draining

/-- The launches an image records: past QUEUED and not posted, in queue order. -/
def recorded (s : State) (q : Queue) : List Nat := q.launches.filter (fun l => (s.launch l).st != .queued && !(s.launch l).st.terminal)

/-- Acts of a launch saved and not yet restored. -/
def savedActs (s : State) (l : Nat) : Nat := (s.saved.filter (fun v => v.launch == l && !v.boundary)).length + (s.launch l).away

/-- A recorded launch's 64 bytes. -/
def launchRecord (s : State) (k : Nat) : List Byte :=
  let l := s.launch k
  leBytes 2 l.lid ++ leBytes 1 l.st.imageCode ++ zeros 1 ++ leBytes 4 l.rindex ++ leBytes 4 l.placed ++ leBytes 4 (savedActs s k) ++ zeros 48

/-- The 128-byte header. -/
def imageHeader (q : Queue) (kind flags nsusp featu ndobj : Nat) : List Byte :=
  [0x51, 0x49, 0x4D, 0x47] ++ leBytes 2 1 ++ leBytes 1 kind ++ leBytes 1 flags ++ leBytes 8 q.qcb ++ leBytes 8 q.ring ++ leBytes 8 q.cring ++
  leBytes 1 q.rlog ++ leBytes 1 q.clog ++ leBytes 1 nsusp ++ leBytes 1 featu ++ leBytes 4 q.head ++ leBytes 4 q.ctail ++ leBytes 4 ndobj ++ zeros 80

/-- A full image. -/
def fullImage (s : State) (q : Queue) : List Byte :=
  let ls := recorded s q
  imageHeader q 0 1 ls.length (ls.foldl (fun f l => Nat.lor f (s.launch l).feat) 0) 0 ++ ls.flatMap (launchRecord s)

/-- Bits of ring entries written since the last export, rounded up to 8 bytes. -/
def ringBits (s : State) (q : Queue) (base size log : Nat) : List Byte :=
  leBytes (alignUp 8 (2 ^ log / 8)) (packBits ((List.range (2 ^ log)).map (fun i => writtenSince s q.part (base + size * i) size q.exported)))

/-- A dirty image. -/
def dirtyImage (s : State) (q : Queue) : List Byte :=
  let dirty := (q.objs.take trackedObjs).filter (fun a => writtenSince s q.part a 16 q.exported)
  let lost := q.dovf || objsLost s q
  imageHeader q 1 (1 + 4 * lost.toNat) 0 0 dirty.length ++ ringBits s q q.ring 128 q.rlog ++ ringBits s q q.cring 32 q.clog ++
  dirty.flatMap (leBytes 8)

/-! ### `qexp` -/

/-- An export: the image written, the marks cleared, status and size in X(D). NOACT where the partition has no such queue. -/
def exportQueue (full : Bool) (e : Enc) (p : Nat) : Act Flow := do
  let a ← readX p e.a
  let b ← readX p e.b
  let k ← queueArg b
  imageAligned a.toNat .store
  fullFence p
  let s ← Act.look id
  let pid := (s.slot p).ctl.pid
  match KV.find? s.queues k with
  | none => putStatus p e PStat.noact
  | some q =>
    if q.part != pid then putStatus p e PStat.noact
    else if full && !q.stopped then putStatus p e PStat.busy
    else do
      let img := if full then fullImage s q else dirtyImage s q
      storeDirect p a.toNat img
      Act.upd (fun s => if full then s else s.modQueue k (fun q => { q with dovf := false, exported := s.cycle }))
      writeX p e.d (BitVec.ofNat 64 (PStat.ok + img.length * 2 ^ 32))
      pure .next

/-- `qexp.full`. -/
def execQexpFull (e : Enc) (s : State) : Out := issue 0xF2 e (exportQueue true e) s

/-- `qexp.dirty`. -/
def execQexpDirty (e : Enc) (s : State) : Out := issue 0xF2 e (exportQueue false e) s

/-! ### `qimp` -/

/-- Every 64 KiB page of the `n` bytes at an address translates in the partition. -/
def translates (s : State) (part va n : Nat) : Bool :=
  (List.range ((va + n - 1) / 2 ^ 16 - va / 2 ^ 16 + 1)).all (fun k => (partPhys s part ((va / 2 ^ 16 + k) * 2 ^ 16)).isSome)

/-- The header's checks of R375. -/
def imageOk (s : State) (part : Nat) (b : List Byte) : Bool :=
  let rlog := fieldAt b 32 1
  let clog := fieldAt b 33 1
  let qcb := fieldAt b 8 8
  let ring := fieldAt b 16 8
  let cring := fieldAt b 24 8
  b.take 4 == [0x51, 0x49, 0x4D, 0x47] && fieldAt b 4 2 == 1 && fieldAt b 6 1 == 0 && decide (fieldAt b 7 1 < 8) && zeroAt b 48 80 &&
  decide (4 ≤ rlog) && decide (rlog ≤ 16) && decide (4 ≤ clog) && decide (clog ≤ 16) && decide (fieldAt b 34 1 ≤ 8) &&
  qcb % 32 == 0 && ring % 4096 == 0 && cring % 4096 == 0 &&
  translates s part qcb 32 && translates s part ring (128 * 2 ^ rlog) && translates s part cring (32 * 2 ^ clog) &&
  (testBit (fieldAt b 7 1) 0 || fieldAt b 34 1 == 0)

/-- A recorded launch's checks: reserved bytes, STATE, and an identifier that is not in use. -/
def launchRecordOk (s : State) (part : Nat) (r : List Byte) : Bool :=
  zeroAt r 3 1 && zeroAt r 16 48 && decide (1 ≤ fieldAt r 2 1) && decide (fieldAt r 2 1 ≤ 4) && (KV.find? s.launches (launchKey part (fieldAt r 0 2))).isNone

/-- A queue's launches are gone with it: their regions, contexts, tags and group copies. -/
def dropQueue (k : Nat) (s : State) : State :=
  let s := (s.queue k).launches.foldl (fun s l => retireLaunch l (freeSlots l (stopLaunch l s))) s
  { s with queues := KV.erase s.queues k }

/-- A recorded launch taken up again; its command is read from the ring. -/
def importLaunch (q : Queue) (die num : Nat) (r : List Byte) : Act Unit := do
  let idx := fieldAt r 4 4 % 2 ^ q.rlog
  let cmd ← partRead q.part (q.ring + 128 * idx) 128
  let lid := fieldAt r 0 2
  let l : Launch := { lid := lid, part := q.part, die := die, queue := num, rindex := idx, st := LState.ofImage (fieldAt r 2 1), cmd := cmd, checked := true
                      placed := fieldAt r 8 4, away := fieldAt r 12 4 }
  let k := launchKey q.part lid
  Act.upd (fun s => { s with launches := KV.set s.launches k l }.modQueue (queueKey die num) (fun q => { q with
    launches := q.launches ++ [k], objs := nameObjs cmd q.objs, dovf := q.dovf || objsLost s q }))

/-- `qimp`. A queue number that another partition holds is not to be had: BUSY. -/
def execQimp (e : Enc) (s : State) : Out := issue 0xF3 e (fun p => do
  let a ← readX p e.a
  let b ← readX p e.b
  let k ← queueArg b
  imageAligned a.toNat .load
  fullFence p
  let s ← Act.look id
  let pid := (s.slot p).ctl.pid
  let busy := match KV.find? s.queues k with | some q => q.part != pid || !q.stopped | none => false
  if busy then putStatus p e PStat.busy
  else do
    let h ← loadBytes p a.toNat 128
    let n := fieldAt h 34 1
    let s ← Act.look id
    if !imageOk s pid h then putStatus p e PStat.badimg
    else do
      let recs ← loadBytes p (a.toNat + 128) (64 * n)
      let rs := (List.range n).map (fun i => (recs.drop (64 * i)).take 64)
      let ids := rs.map (fun r => fieldAt r 0 2)
      if !(rs.all (launchRecordOk s pid) && decide (ids.eraseDups.length = n)) then putStatus p e PStat.badimg
      else if !testBit (fieldAt h 7 1) 0 then do
        Act.upd (dropQueue k)
        putStatus p e PStat.ok
      else do
        let q : Queue := { part := pid, qcb := fieldAt h 8 8, ring := fieldAt h 16 8, cring := fieldAt h 24 8, rlog := fieldAt h 32 1, clog := fieldAt h 33 1
                           head := fieldAt h 36 4, ctail := fieldAt h 40 4, stopped := testBit (fieldAt h 7 1) 1 }
        Act.upd (dropQueue k)
        Act.upd (fun s => { s with queues := KV.set s.queues k { q with exported := s.cycle } })
        rs.forM (importLaunch q (b.toNat / 64) (b.toNat % 64))
        let c ← readQcb q
        partWrite pid (q.qcb + 4) (leBytes 4 q.head)
        partWrite pid (q.qcb + 16) (leBytes 4 q.ctail)
        writeQcbFlags q c
        Act.upd (fun s => s.modQueue k (fun q => { q with stopSeen := qcbStop c }))
        putStatus p e PStat.ok) s

end Sys2Proof.Machine
end

