-- ==== Sys2Proof/Machine/Dispatch.lean ====
section
/-! DEFINITION. Dispatch: the meaning of each step, one arm per constructor of `Instr`. -/

namespace Sys2Proof.Machine

/-- The meaning of a step. -/
def exec (i : Instr) (s : State) : Host.Outcome State Fault Refusal :=
  match i with
  | .monitorStart stack0Trained absentStacks => Sys2Proof.Machine.execMonitorStart stack0Trained absentStacks s
  | .attest nonce => Sys2Proof.Machine.execAttest nonce s
  | .recover image => Sys2Proof.Machine.execRecover image s
  | .telemetryUpdate temps dieMw stackMw => Sys2Proof.Machine.execTelemetryUpdate temps dieMw stackMw s
  | .throttleUpdate need brake => Sys2Proof.Machine.execThrottleUpdate need brake s
  | .thermalTrip die => Sys2Proof.Machine.execThermalTrip die s
  | .fatalError source die unit => Sys2Proof.Machine.execFatalError source die unit s
  | .linkFlitError link uncorrectable => Sys2Proof.Machine.execLinkFlitError link uncorrectable s
  | .linkDown link => Sys2Proof.Machine.execLinkDown link s
  | .vfReset vf => Sys2Proof.Machine.execVfReset vf s
  | .partitionEnable part => Sys2Proof.Machine.execPartitionEnable part s
  | .partitionDisable part => Sys2Proof.Machine.execPartitionDisable part s
  | .outsvcSet die bits => Sys2Proof.Machine.execOutsvcSet die bits s
  | .registerWrite pslot num value => Sys2Proof.Machine.execRegisterWrite pslot num value s
  | .trapTaken pslot code value => Sys2Proof.Machine.execTrapTaken pslot code value s
  | .interruptTaken pslot => Sys2Proof.Machine.execInterruptTaken pslot s
  | .objectLoad part die objId base file => Sys2Proof.Machine.execObjectLoad part die objId base file s
  | .objectUnload part objId => Sys2Proof.Machine.execObjectUnload part objId s
  | .launchTake die queue => Sys2Proof.Machine.execLaunchTake die queue s
  | .launchWaiting lid => Sys2Proof.Machine.execLaunchWaiting lid s
  | .dependenceMet lid => Sys2Proof.Machine.execDependenceMet lid s
  | .placeInstance lid => Sys2Proof.Machine.execPlaceInstance lid s
  | .placementFallback core => Sys2Proof.Machine.execPlacementFallback core s
  | .launchDone lid => Sys2Proof.Machine.execLaunchDone lid s
  | .launchEnded lid => Sys2Proof.Machine.execLaunchEnded lid s
  | .launchPost lid => Sys2Proof.Machine.execLaunchPost lid s
  | .queueStopRequest die queue => Sys2Proof.Machine.execQueueStopRequest die queue s
  | .queueStopped die queue => Sys2Proof.Machine.execQueueStopped die queue s
  | .inboxTake pslot => Sys2Proof.Machine.execInboxTake pslot s
  | .packetArrival index => Sys2Proof.Machine.execPacketArrival index s
  | .parkedPacketDeliver core index => Sys2Proof.Machine.execParkedPacketDeliver core index s
  | .packetRetry index => Sys2Proof.Machine.execPacketRetry index s
  | .slotUrgent pslot => Sys2Proof.Machine.execSlotUrgent pslot s
  | .actWatchdog pslot => Sys2Proof.Machine.execActWatchdog pslot s
  | .remoteRequest core => Sys2Proof.Machine.execRemoteRequest core s
  | .remoteTimeout pslot => Sys2Proof.Machine.execRemoteTimeout pslot s
  | .holdExpiry pslot => Sys2Proof.Machine.execHoldExpiry pslot s
  | .storePerform pslot index => Sys2Proof.Machine.execStorePerform pslot index s
  | .matrixOwnerRelease core => Sys2Proof.Machine.execMatrixOwnerRelease core s
  | .copyCommand core => Sys2Proof.Machine.execCopyCommand core s
  | .copyBeat core => Sys2Proof.Machine.execCopyBeat core s
  | .qfenceJoinComplete join => Sys2Proof.Machine.execQfenceJoinComplete join s
  | .mma core mismatch => Sys2Proof.Machine.execMma core mismatch s
  | .mmaz core mismatch => Sys2Proof.Machine.execMmaz core mismatch s
  | .store core => Sys2Proof.Machine.execStore core s
  | .drain core => Sys2Proof.Machine.execDrain core s
  | .drainComplete core => Sys2Proof.Machine.execDrainComplete core s
  | .zero core => Sys2Proof.Machine.execZero core s
  | .mv cluster mismatch => Sys2Proof.Machine.execMv cluster mismatch s
  | .config core => Sys2Proof.Machine.execConfig core s
  | .clear core => Sys2Proof.Machine.execClear core s
  | .run core => Sys2Proof.Machine.execRun core s
  | .allreduce die => Sys2Proof.Machine.execAllreduce die s
  | .reduce die => Sys2Proof.Machine.execReduce die s
  | .bcast die => Sys2Proof.Machine.execBcast die s
  | .collectiveTimeout die index => Sys2Proof.Machine.execCollectiveTimeout die index s
  | .formulaActStart table wave cell => Sys2Proof.Machine.execFormulaActStart table wave cell s
  | .wavePublish table => Sys2Proof.Machine.execWavePublish table s
  | .waveFail table wave => Sys2Proof.Machine.execWaveFail table wave s
  | .editTakeEffect table => Sys2Proof.Machine.execEditTakeEffect table s
  | .viewWatchdog table => Sys2Proof.Machine.execViewWatchdog table s
  | .regionCommit rslot => Sys2Proof.Machine.execRegionCommit rslot s
  | .actPark pslot => Sys2Proof.Machine.execActPark pslot s
  | .quiesce ginst => Sys2Proof.Machine.execQuiesce ginst s
  | .instanceResume ginst => Sys2Proof.Machine.execInstanceResume ginst s
  | .uintPendingDeliver pslot => Sys2Proof.Machine.execUintPendingDeliver pslot s
  | .dirRead die pa => Sys2Proof.Machine.execDirRead die pa s
  | .dirWrite die pa => Sys2Proof.Machine.execDirWrite die pa s
  | .dirWriteback die pa => Sys2Proof.Machine.execDirWriteback die pa s
  | .dirProbe die pa => Sys2Proof.Machine.execDirProbe die pa s
  | .fabricTimeout pslot aperture => Sys2Proof.Machine.execFabricTimeout pslot aperture s
  | .fabricAccess fdev part rpart pa kind key ke bytes => Sys2Proof.Machine.execFabricAccess fdev part rpart pa kind key ke bytes s
  | .portLanding port index mode tagOk payload => Sys2Proof.Machine.execPortLanding port index mode tagOk payload s
  | .portTransmit part flow port => Sys2Proof.Machine.execPortTransmit part flow port s
  | .portTxComplete part flow abandoned => Sys2Proof.Machine.execPortTxComplete part flow abandoned s
  | .nop e => Sys2Proof.Machine.execNop e s
  | .li e => Sys2Proof.Machine.execLi e s
  | .add e => Sys2Proof.Machine.execAdd e s
  | .sub e => Sys2Proof.Machine.execSub e s
  | .mul e => Sys2Proof.Machine.execMul e s
  | .mulh e => Sys2Proof.Machine.execMulh e s
  | .div e => Sys2Proof.Machine.execDiv e s
  | .rem e => Sys2Proof.Machine.execRem e s
  | .and e => Sys2Proof.Machine.execAnd e s
  | .or e => Sys2Proof.Machine.execOr e s
  | .xor e => Sys2Proof.Machine.execXor e s
  | .shl e => Sys2Proof.Machine.execShl e s
  | .shr e => Sys2Proof.Machine.execShr e s
  | .sra e => Sys2Proof.Machine.execSra e s
  | .cmp e => Sys2Proof.Machine.execCmp e s
  | .sel e => Sys2Proof.Machine.execSel e s
  | .lea e => Sys2Proof.Machine.execLea e s
  | .bit e => Sys2Proof.Machine.execBit e s
  | .br e => Sys2Proof.Machine.execBr e s
  | .loop e => Sys2Proof.Machine.execLoop e s
  | .jmp e => Sys2Proof.Machine.execJmp e s
  | .call e => Sys2Proof.Machine.execCall e s
  | .ret e => Sys2Proof.Machine.execRet e s
  | .endact e => Sys2Proof.Machine.execEndact e s
  | .yield e => Sys2Proof.Machine.execYield e s
  | .wait e => Sys2Proof.Machine.execWait e s
  | .waitRep e => Sys2Proof.Machine.execWaitRep e s
  | .trap e => Sys2Proof.Machine.execTrap e s
  | .trapBrk e => Sys2Proof.Machine.execTrapBrk e s
  | .crd e => Sys2Proof.Machine.execCrd e s
  | .cwr e => Sys2Proof.Machine.execCwr e s
  | .tagal e => Sys2Proof.Machine.execTagal e s
  | .tagalFree e => Sys2Proof.Machine.execTagalFree e s
  | .qbindIn e => Sys2Proof.Machine.execQbindIn e s
  | .qbindOut e => Sys2Proof.Machine.execQbindOut e s
  | .qbindHnd e => Sys2Proof.Machine.execQbindHnd e s
  | .qbindUn e => Sys2Proof.Machine.execQbindUn e s
  | .qput e => Sys2Proof.Machine.execQput e s
  | .qget e => Sys2Proof.Machine.execQget e s
  | .qpeek e => Sys2Proof.Machine.execQpeek e s
  | .qstat e => Sys2Proof.Machine.execQstat e s
  | .sset e => Sys2Proof.Machine.execSset e s
  | .sadv e => Sys2Proof.Machine.execSadv e s
  | .sadvRst e => Sys2Proof.Machine.execSadvRst e s
  | .send e => Sys2Proof.Machine.execSend e s
  | .sendc e => Sys2Proof.Machine.execSendc e s
  | .rget e => Sys2Proof.Machine.execRget e s
  | .rput e => Sys2Proof.Machine.execRput e s
  | .vadd e => Sys2Proof.Machine.execVadd e s
  | .vsub e => Sys2Proof.Machine.execVsub e s
  | .vmul e => Sys2Proof.Machine.execVmul e s
  | .vmulh e => Sys2Proof.Machine.execVmulh e s
  | .vfma e => Sys2Proof.Machine.execVfma e s
  | .vfms e => Sys2Proof.Machine.execVfms e s
  | .vmin e => Sys2Proof.Machine.execVmin e s
  | .vmax e => Sys2Proof.Machine.execVmax e s
  | .vabs e => Sys2Proof.Machine.execVabs e s
  | .vneg e => Sys2Proof.Machine.execVneg e s
  | .vand e => Sys2Proof.Machine.execVand e s
  | .vor e => Sys2Proof.Machine.execVor e s
  | .vxor e => Sys2Proof.Machine.execVxor e s
  | .vshl e => Sys2Proof.Machine.execVshl e s
  | .vshr e => Sys2Proof.Machine.execVshr e s
  | .vsra e => Sys2Proof.Machine.execVsra e s
  | .vcmp e => Sys2Proof.Machine.execVcmp e s
  | .vsel e => Sys2Proof.Machine.execVsel e s
  | .vdot e => Sys2Proof.Machine.execVdot e s
  | .vavg e => Sys2Proof.Machine.execVavg e s
  | .vclz e => Sys2Proof.Machine.execVclz e s
  | .vpopc e => Sys2Proof.Machine.execVpopc e s
  | .vrcp e => Sys2Proof.Machine.execVrcp e s
  | .vrsq e => Sys2Proof.Machine.execVrsq e s
  | .vexp2 e => Sys2Proof.Machine.execVexp2 e s
  | .vlog2 e => Sys2Proof.Machine.execVlog2 e s
  | .vmov e => Sys2Proof.Machine.execVmov e s
  | .vbcast e => Sys2Proof.Machine.execVbcast e s
  | .vperm e => Sys2Proof.Machine.execVperm e s
  | .vshuf e => Sys2Proof.Machine.execVshuf e s
  | .vins e => Sys2Proof.Machine.execVins e s
  | .vext e => Sys2Proof.Machine.execVext e s
  | .vcvt e => Sys2Proof.Machine.execVcvt e s
  | .vpack e => Sys2Proof.Machine.execVpack e s
  | .vunpk e => Sys2Proof.Machine.execVunpk e s
  | .vscan e => Sys2Proof.Machine.execVscan e s
  | .vred e => Sys2Proof.Machine.execVred e s
  | .vmask e => Sys2Proof.Machine.execVmask e s
  | .vxfer e => Sys2Proof.Machine.execVxfer e s
  | .drawSolo e => Sys2Proof.Machine.execDrawSolo e s
  | .drawClus e => Sys2Proof.Machine.execDrawClus e s
  | .vrng e => Sys2Proof.Machine.execVrng e s
  | .vrot e => Sys2Proof.Machine.execVrot e s
  | .ld e => Sys2Proof.Machine.execLd e s
  | .st e => Sys2Proof.Machine.execSt e s
  | .sts e => Sys2Proof.Machine.execSts e s
  | .lds e => Sys2Proof.Machine.execLds e s
  | .ldfe e => Sys2Proof.Machine.execLdfe e s
  | .stfe e => Sys2Proof.Machine.execStfe e s
  | .setfeEmpty e => Sys2Proof.Machine.execSetfeEmpty e s
  | .setfeFull e => Sys2Proof.Machine.execSetfeFull e s
  | .amo e => Sys2Proof.Machine.execAmo e s
  | .cas e => Sys2Proof.Machine.execCas e s
  | .hold e => Sys2Proof.Machine.execHold e s
  | .rel e => Sys2Proof.Machine.execRel e s
  | .fence e => Sys2Proof.Machine.execFence e s
  | .bara e => Sys2Proof.Machine.execBara e s
  | .barw e => Sys2Proof.Machine.execBarw e s
  | .copy e => Sys2Proof.Machine.execCopy e s
  | .cbarmSet e => Sys2Proof.Machine.execCbarmSet e s
  | .cbarmAdd e => Sys2Proof.Machine.execCbarmAdd e s
  | .cbwait e => Sys2Proof.Machine.execCbwait e s
  | .qfence e => Sys2Proof.Machine.execQfence e s
  | .chunk e => Sys2Proof.Machine.execChunk e s
  | .pref e => Sys2Proof.Machine.execPref e s
  | .tcfgSet e => Sys2Proof.Machine.execTcfgSet e s
  | .tcfgGet e => Sys2Proof.Machine.execTcfgGet e s
  | .mxq e => Sys2Proof.Machine.execMxq e s
  | .mxwait e => Sys2Proof.Machine.execMxwait e s
  | .trow e => Sys2Proof.Machine.execTrow e s
  | .tzero e => Sys2Proof.Machine.execTzero e s
  | .sdq e => Sys2Proof.Machine.execSdq e s
  | .cstGo e => Sys2Proof.Machine.execCstGo e s
  | .cstStage e => Sys2Proof.Machine.execCstStage e s
  | .cldV e => Sys2Proof.Machine.execCldV e s
  | .cldCp e => Sys2Proof.Machine.execCldCp e s
  | .cbind e => Sys2Proof.Machine.execCbind e s
  | .cunbind e => Sys2Proof.Machine.execCunbind e s
  | .cview e => Sys2Proof.Machine.execCview e s
  | .cclose e => Sys2Proof.Machine.execCclose e s
  | .cfence e => Sys2Proof.Machine.execCfence e s
  | .cstat e => Sys2Proof.Machine.execCstat e s
  | .rbeg e => Sys2Proof.Machine.execRbeg e s
  | .rend e => Sys2Proof.Machine.execRend e s
  | .rabortExit e => Sys2Proof.Machine.execRabortExit e s
  | .rabortRst e => Sys2Proof.Machine.execRabortRst e s
  | .rstat e => Sys2Proof.Machine.execRstat e s
  | .rwait e => Sys2Proof.Machine.execRwait e s
  | .rkey e => Sys2Proof.Machine.execRkey e s
  | .jcfgSet e => Sys2Proof.Machine.execJcfgSet e s
  | .jcfgClr e => Sys2Proof.Machine.execJcfgClr e s
  | .jq e => Sys2Proof.Machine.execJq e s
  | .jwait e => Sys2Proof.Machine.execJwait e s
  | .jstatRep e => Sys2Proof.Machine.execJstatRep e s
  | .jstatQ e => Sys2Proof.Machine.execJstatQ e s
  | .pcrd e => Sys2Proof.Machine.execPcrd e s
  | .pcwr e => Sys2Proof.Machine.execPcwr e s
  | .eret e => Sys2Proof.Machine.execEret e s
  | .mcall e => Sys2Proof.Machine.execMcall e s
  | .scall e => Sys2Proof.Machine.execScall e s
  | .tlbiVa e => Sys2Proof.Machine.execTlbiVa e s
  | .tlbiPart e => Sys2Proof.Machine.execTlbiPart e s
  | .tlbiDev e => Sys2Proof.Machine.execTlbiDev e s
  | .xsave e => Sys2Proof.Machine.execXsave e s
  | .xrest e => Sys2Proof.Machine.execXrest e s
  | .qexpFull e => Sys2Proof.Machine.execQexpFull e s
  | .qexpDirty e => Sys2Proof.Machine.execQexpDirty e s
  | .qimp e => Sys2Proof.Machine.execQimp e s
  | .keyld e => Sys2Proof.Machine.execKeyld e s
  | .keyclr e => Sys2Proof.Machine.execKeyclr e s
  | .uipost e => Sys2Proof.Machine.execUipost e s
  | .wdsetAct e => Sys2Proof.Machine.execWdsetAct e s
  | .wdsetView e => Sys2Proof.Machine.execWdsetView e s
  | .cflushWb e => Sys2Proof.Machine.execCflushWb e s
  | .cflushWbi e => Sys2Proof.Machine.execCflushWbi e s
  | .cflushPart e => Sys2Proof.Machine.execCflushPart e s
  | .haltPark e => Sys2Proof.Machine.execHaltPark e s
  | .haltStop e => Sys2Proof.Machine.execHaltStop e s
  | .haltRel e => Sys2Proof.Machine.execHaltRel e s
  | .haltStart e => Sys2Proof.Machine.execHaltStart e s
  | .idle e => Sys2Proof.Machine.execIdle e s
  | .scrub pa => Sys2Proof.Machine.execScrub pa s
  | .deviceReset => Sys2Proof.Machine.execDeviceReset s
  | .health => Sys2Proof.Machine.execHealth s
  | .telem => Sys2Proof.Machine.execTelem s
  | .powerBrake => Sys2Proof.Machine.execPowerBrake s

end Sys2Proof.Machine
end

