-- ==== Sys2Proof/Machine/Domain.lean ====
section
/-! DEFINITION. What other devices of the load-store domain do to a group copy of fabric tier that has cores there (R30, R33, R413): their messages
and packets, their answers, their arrivals at its barriers, their part in its collectives, and the end of their acts (log 99). -/

namespace Sys2Proof.Machine

/-- Whether a group copy has cores on other devices. -/
def hasFar (s : State) (g : Nat) : Bool := !(s.ginst g).far.isEmpty

/-- A message or packet that a core of another device sends to a virtual core here enters the network. -/
def farItem (i : NetItem) (s : State) : Option State :=
  if hasFar s i.ginst && (i.kind == .packet || i.kind == .code) && i.launch == (s.ginst i.ginst).launch && decide (farBase ≤ i.src) then
    (coreOfV s i.ginst i.vcore).map (fun c => netPush { i with dst := c, chan := none, retryAt := none, after := [], row := none, formula := none, affine := false } s)
  else none

/-- The answer to a remote register access of a slot here. -/
def farAnswer (p status : Nat) (v : Word) (s : State) : Option State :=
  match (s.slot p).wait with
  | .remote t _ => if farBase ≤ t then some (s.modSlot p (fun x => { x with wait := .remoteDone status v })) else none
  | _ => none

/-- An arrival at a barrier of fabric scope; one that disagrees with its phase faults where it was made. -/
def farArrive (g key n : Nat) (s : State) : Option State :=
  if hasFar s g && key / 16 / 2 ^ 21 == 4 && n != 0 then
    ((KV.get {} (s.ginst g).barriers key).arrive n).map (fun b => s.modGinst g (fun x => { x with barriers := KV.set x.barriers key b }))
  else none

/-- An accepted command of a collective of fabric scope, with the bytes of the participant's SRC. -/
def farColl (g vcore launch : Nat) (msg src : List Byte) (s : State) : Option State :=
  if hasFar s g && (s.ginst g).launch == launch && collCheck 4 msg == 0 && collScope msg == 4 && src.length == collCount msg * collWidth (collFmt msg) then
    collGather rootSwitch launch g vcore
      { rank := collRank msg, org := { launch := launch, ginst := g, vcore := vcore, pslot := 0, act := 0 }, core := farBase, msg := msg, src := some src } s
  else none

/-- What another device does to a group copy; none where the copy has nothing there. -/
def farMove (f : Far) (s : State) : Option State :=
  match f with
  | .item i => farItem i s
  | .answer p st v => farAnswer p st v s
  | .arrive g key n => farArrive g key n s
  | .coll g v l msg src => farColl g v l msg src s
  | .acts g n => if 0 < (s.ginst g).farActs then some (s.modGinst g (fun x => { x with farActs := n })) else none
  | .fault g x => if 0 < (s.ginst g).farActs ∧ launchCause x.cause = true then some (launchFault (s.ginst g).launch x s) else none

end Sys2Proof.Machine
end

