-- ==== Sys2Proof/Machine/Schedule.lean ====
section
/-! DEFINITION. The fetch of an instruction (R59 to R63, R81, R137), its issue by a slot, the moves of the schedule, and the device's own
order of events when none is given (log 1). -/

namespace Sys2Proof.Machine

/-! ### Fetch -/

/-- What a fetch gives: an instruction to issue, with the state after the fetch; a fault of the slot; a fabric access without an answer; or nothing
yet, while another slot holds the line (R179). -/
inductive Fetched where
  | instr (i : Instr) (s : State)
  | fault (cause : Nat) (detail : Word) (poison : Option Nat)
  | silent (aperture va : Nat)
  | blocked
  deriving DecidableEq, Repr

/-- The cause of a decode error. -/
def decodeCauseCode : DecodeCause → Nat
  | .illegalInstruction => Cause.illegalInstruction
  | .illegalOperand => Cause.illegalOperand
  | .fetchBoundary => Cause.fetchBoundary

/-- The checks of R81 in order, for bytes at an offset of a fetch block: check 4 (PRIVILEGE) comes before checks 5 to 8. -/
def decodeFor (p : Nat) (t : Slot) (off : Nat) (payload : Option Nat) (bytes : List Byte) : Except Nat (Instr × Nat) :=
  match decodeRaw off payload bytes with
  | .error x => .error (decodeCauseCode x.cause)
  | .ok r =>
    match decodeChecks payload.isSome r with
    | .ok i => .ok (i, r.size)
    | .error x =>
      if permitsOpc (if isCtl p then some t.ctl.level else none) r.opc r.enc.v then .error (decodeCauseCode x.cause)
      else .error Cause.privilege

/-- The bytes of the fetch block from the program counter up, as the home holds them. -/
def fetchBytes (p pc : Nat) : Act (List Byte × Phys) := do
  let s ← Act.look id
  let n := 32 - pc % 32
  let q ← resolve (whoSlot s p) .fetch Need.fetch pc n
  let s ← Act.look id
  Act.ready (!heldByOther s (some p) q.loc)
  Act.upd (dirRequest (dieOf p) false q.loc)
  pure (homeRead s q.loc n q.key, q)

/-- The instruction at the program counter of a slot (R59 to R63): from memory, or from the payload of the message that started its act. -/
def fetch (p : Nat) (s : State) : Fetched :=
  let t := s.slot p
  match t.payload with
  | some b =>
    match decodeFor p t (t.pc % 32) (some t.pc) (b.drop t.pc) with
    | .ok (i, _) => .instr i s
    | .error c => .fault c 0 none
  | none =>
    match fetchBytes p t.pc s with
    | .error (.fault c d q) => .fault c d q
    | .error (.silent a _ va) => .silent a va
    | .error (.wait _) | .error (.behind _ _) => .blocked
    | .ok ((b, q), s') =>
      let r := decodeFor p t (t.pc % 32) none b
      let n := match r with | .ok (_, n) => n | .error _ => 8
      match poisonIn s' q.loc n with
      | some l => .fault Cause.poison (BitVec.ofNat 64 t.pc) (some l)
      | none =>
        match r with
        | .ok (i, _) => .instr i s'
        | .error c => .fault c 0 none

/-! ### Issue by a slot -/

/-- Whether the slot's act holds a region in RESTART. -/
def inRestart (s : State) (t : Slot) : Bool :=
  match t.region with
  | some rs => (s.rslot rs).st == .restart && (s.rslot rs).act == t.act
  | none => false

/-- A region in RESTART acts at the next instruction boundary of an ACTIVE slot: the act goes back to its `rbeg` (R289). A formula act waits for its Carousel. -/
def restarted (p : Nat) (s : State) : State :=
  let t := s.slot p
  if t.st == .active && inRestart s t && t.formula.isNone && !s.board.fatal then restartAct p s else s

/-- The step of a slot in which nothing issues. -/
def noIssue (s : State) : Host.Outcome State Fault Refusal := .next (tick { s with idle := true })

/-- Opcodes that hold the integer divider, and those that hold the special-function unit (R17). -/
def usesDivider (opc : Nat) : Bool := opc == 0x06 || opc == 0x07
def usesSfu (opc : Nat) : Bool := decide (0x96 ≤ opc) && decide (opc ≤ 0x99)

/-- Whether the unit is held that an instruction of slot `p` needs; one that is guarded off needs none (R17, R65). -/
def unitBusy (s : State) (p : Nat) (i : Instr) : Bool :=
  match opcodeOf i with
  | some (opc, e) => (s.slot p).guards e &&
      ((usesDivider opc && decide (s.cycle < (s.core (coreOf p)).divBusy)) || (usesSfu opc && decide (s.cycle < (s.core (coreOf p)).sfuBusy)))
  | none => false

/-- The unit an issued instruction holds: the divider for 16 cycles from issue, the special-function unit for 4 (R17). -/
def holdUnit (core cycle : Nat) (i : Instr) (s : State) : State :=
  match opcodeOf i with
  | some (opc, _) =>
    if usesDivider opc then s.modCore core (fun c => { c with divBusy := cycle + 16 })
    else if usesSfu opc then s.modCore core (fun c => { c with sfuBusy := cycle + 4 })
    else s
  | none => s

/-- The instructions that wait for a condition and then give its outcome. -/
def waitsFor (i : Instr) : Bool :=
  match i with
  | .wait _ | .rget _ | .rput _ | .drawClus _ | .ldfe _ | .stfe _ | .barw _ | .cbwait _ | .qfence _ | .mxwait _ | .cldV _ | .cldCp _ | .cfence _ | .rend _ | .rwait _
  | .jwait _ => true
  | _ => false

/-- Whether a live mask names the register or channel in which an instruction that waits gives its outcome (R76); one without an outcome has none to lose. -/
def outcomeLive (i : Instr) (e : Enc) (m : Word) : Bool :=
  let pred := fun (n : Nat) => n == 0 || m.getLsbD (48 + n)
  let second := match i, e.c with | .rget _, .reg n => pred n.val | _, _ => true
  second && match e.d with
  | .reg n => match i with
    | .cbwait _ | .rput _ => pred n.val
    | .ldfe _ | .cldV _ => m.getLsbD (33 + n.val / 2)
    | _ => n.val == 0 || m.getLsbD (1 + n.val)
  | .chan q => m.getLsbD (56 + q.val)
  | _ => true

/-- An instruction that waits is a safe point while it is blocked; once it has completed, an act whose live mask does not name its outcome parks only at a later
safe point, since parking would lose the outcome (R75, R394, R398). DEDUCED (log 96). -/
def pastWait (p : Nat) (i : Instr) (s : State) : State :=
  match opcodeOf i with
  | some (_, e) =>
    if waitsFor i && (s.slot p).safe && !(s.slot p).reexec && !outcomeLive i e (s.slot p).live then s.modSlot p (fun t => { t with safe := false }) else s
  | none => s

/-- Whether the guards of an instruction of slot `p` hold. -/
def guardsHold (s : State) (p : Nat) (i : Instr) : Bool :=
  match opcodeOf i with
  | some (_, e) => (s.slot p).guards e
  | none => true

/-! ### Dependence through registers and predicates (R205, R210; log 131) -/

/-- The keys of the registers that an operand names, in a slot's order: of the window by their place in it, so that a call does not rename them. -/
def regKeys (t : Slot) (c : Option Cls) (o : Opnd) : List Nat :=
  match c, o with
  | some k, .reg n => (match k.kind with
    | .x => if n.val = 0 then [] else if n.val < 8 then [n.val] else [t.offs + n.val]
    | .v => (List.range k.mult).map (fun j => 1000 + n.val + j)
    | .p => if n.val = 0 then [] else [2000 + n.val]
    | _ => [])
  | _, _ => []

/-- What the values of registers are ordered behind. -/
def Order.floorOf (o : Order) (ks : List Nat) : Floor := ks.foldl (fun f k => f.join (KV.get {} o.regs k)) {}

/-- The keys of the predicates that guard an instruction. -/
def guardKeys (e : Enc) : List Nat := [2000 + e.ga.p.val, 2000 + e.gb.p.val]

/-- A slot about to execute an instruction: what its address and what all its sources are ordered behind. -/
def Slot.sourced (opc : Nat) (e : Enc) (t : Slot) : Slot :=
  match ruleOf opc e with
  | none => t
  | some r =>
    let o := t.order
    let addr := o.floorOf (regKeys t r.a e.a ++ regKeys t r.b e.b)
    { t with order := { o with addr := addr, met := {}
                               srcs := (addr.join (o.floorOf (regKeys t r.c e.c ++ regKeys t r.e e.e ++ guardKeys e))).join o.branch } }

/-- The keys of the registers that an instruction writes. -/
def destKeys (t : Slot) (opc : Nat) (r : Rule) (e : Enc) : List Nat := regKeys t r.d e.d ++ (if opc == 0x49 then regKeys t r.c e.c else [])

/-- The order of a slot once an instruction has run that `old` was about to execute: its results are ordered behind its sources and what it has read, and, where it was
guarded off or writes its destination in part, behind what that held; later writes are ordered behind a branch's sources. -/
def Order.carried (opc : Nat) (e : Enc) (off : Bool) (old : Slot) (o : Order) : Order :=
  match ruleOf opc e with
  | none => o
  | some r =>
    let ds := destKeys old opc r e
    let all := regKeys old r.a e.a ++ regKeys old r.b e.b ++ regKeys old r.c e.c ++ regKeys old r.e e.e ++ guardKeys e
    let f := old.order.floorOf (if off then guardKeys e ++ ds else if opc == 0xA4 then all ++ ds else all)
    let f := if off then f else f.join o.met
    { o with regs := ds.foldl (fun m k => if f == {} then KV.erase m k else KV.set m k f) o.regs
             branch := if decide (0x20 ≤ opc) && decide (opc ≤ 0x24) then o.branch.join f else o.branch, addr := {}, srcs := {}, met := {} }

/-- Slot `p` of a state about to execute an instruction. -/
def sourced (p : Nat) (i : Instr) (s : State) : State :=
  match opcodeOf i with
  | some (opc, e) => if (s.slot p).order == {} then s else s.modSlot p (Slot.sourced opc e)
  | none => s

/-- The state that an instruction of slot `p` has left, with what its results are ordered behind. -/
def carried (p : Nat) (i : Instr) (s t : State) : State :=
  match opcodeOf i with
  | some (opc, e) =>
    let old := s.slot p
    if (t.slot p).order == {} || (t.slot p).act != old.act then t
    else t.modSlot p (fun x => { x with order := x.order.carried opc e (!old.guards e) old })
  | none => t

/-- What the issue of an instruction in a state leaves behind it in the next one: what its results are ordered behind, the unit it holds (R17), and the safe point that it
passes; one that was guarded off holds no unit and passes none (R65). -/
def afterRun (p : Nat) (i : Instr) (s t : State) : State :=
  let t := carried p i s t
  if guardsHold s p i then holdUnit (coreOf p) s.cycle i (pastWait p i t) else t

/-- The instruction at the program counter of slot `p` is fetched and executed. -/
def runSlot (p : Nat) (s : State) : Host.Outcome State Fault Refusal :=
  if !pcAligned (s.slot p).pc then .fault .unalignedFetch
  else
    match fetch p s with
    | .instr i s' =>
      if unitBusy s p i then noIssue s
      else match exec i (sourced p i s') with
        | .next s2 => .next (if s2.idle then s2 else afterRun p i s s2)
        | o => o
    | .fault c d q => .next (faulted p c d q s)
    | .silent a va => noIssue (s.modSlot p (Slot.fabricWait a 0 va s.cycle))
    | .blocked => noIssue s

/-- A slot whose launch is being stopped stops before its next boundary (R26): a fault of the instruction under way is counted; otherwise that
instruction has no effect. -/
def lastIssue (p l : Nat) (s : State) : Host.Outcome State Fault Refusal :=
  match runSlot p s with
  | .next s' =>
    if (s'.launch l).secondary == (s.launch l).secondary then .next (tick { s.modSlot p Slot.stop with idle := false }) else .next s'
  | o => o

/-- Slot `p` issues (log 1): nothing unless it is ACTIVE; a watchdog that has run out ends the launch (R34); it parks at a safe point when asked to, and
issues nothing there (R381); a control core takes a pending interrupt first (R340); otherwise the instruction at its program counter is fetched
and executed. -/
def issueSlot (p : Nat) (s : State) : Host.Outcome State Fault Refusal :=
  let s := restarted p { s with cur := p }
  let t := s.slot p
  if t.st != .active || s.board.fatal then noIssue s
  else if isCtl p then
    if t.parkable then exec (.actPark p) s
    else if t.parking then noIssue s
    else match exec (.interruptTaken p) s with
      | .next s1 => if s1.idle then runSlot p s else .next s1
      | o => o
  else if launchEnding s (t.launch.getD 0) then lastIssue p (t.launch.getD 0) s
  else if watchdogDue s p then exec (.actWatchdog p) s
  else if t.parkable then exec (.actPark p) s
  else if t.parking then noIssue s
  else if inRestart s t && t.formula.isSome then noIssue s
  else runSlot p s

/-! ### The choice among a core's slots (R17, R18) -/

/-- Whether a slot would issue an instruction now: it is ACTIVE, what its next instruction needs is there, and no blocking condition holds. -/
def eligible (s : State) (p : Nat) : Bool :=
  let t := s.slot p
  t.st == .active && decide (t.readyAt ≤ s.cycle) && !t.parkable &&
  (match issueSlot p s with | .next s' => !s'.idle | _ => true)

/-- A slot is urgent when it has been ready for 16 consecutive cycles without issuing (R17). -/
def urgentSlot (t : Slot) : Bool := t.urgent || decide (16 ≤ t.readyFor)

/-- Whether slot `q` comes before slot `p` of the same core when both are eligible: a slot that has just yielded comes last (R18); then the urgent
ones, the longest ready first, ties to the lower slot; then the order from the rotation pointer (R17). -/
def before (s : State) (q p : Nat) : Bool :=
  let a := s.slot q
  let b := s.slot p
  let turn := fun (x : Nat) => (x % 4 + 4 - (s.core (coreOf p)).ptr % 4) % 4
  if a.yielded != b.yielded then b.yielded
  else if urgentSlot a && urgentSlot b then decide (b.readyFor < a.readyFor) || (a.readyFor == b.readyFor && decide (q < p))
  else if urgentSlot a != urgentSlot b then urgentSlot a
  else decide (turn q < turn p)

/-- The other slots of a slot's core. -/
def siblings (p : Nat) : List Nat := ((List.range 4).map (coreOf p + ·)).filter (· != p)

/-- Whether another slot of the core takes the cycle. -/
def outranked (s : State) (p : Nat) : Bool := (siblings p).any (fun q => (s.slot q).st == .active && before s q p && eligible s q)

/-- Whether a slot is ready: it would issue if the units of its core were free (R16, R17). -/
def readySlot (s : State) (p : Nat) : Bool := eligible (s.modCore (coreOf p) (fun c => { c with divBusy := 0, sfuBusy := 0 })) p

/-- What a step from `s` to `s'` does to the slots that do not issue in it: the cycles that pass count for one that is ready (R17). -/
def aged (issued : Option Nat) (s s' : State) : State :=
  { s' with slots := s'.slots.map (fun e =>
      if some e.1 == issued || e.2.st != .active || (s.slot e.1).st != .active then e
      else
        let r := readySlot s e.1
        (e.1, { e.2 with readyFor := if r then e.2.readyFor + (s'.cycle - s.cycle) else 0, urgent := e.2.urgent && r })) }

/-- The same for the outcome of a step in which no slot issues. -/
def agedOut (s : State) (o : Host.Outcome State Fault Refusal) : Host.Outcome State Fault Refusal :=
  match o with
  | .next s' => .next (aged none s s')
  | o => o

/-- What an issue of slot `p` does to the other slots: those that were ready have waited, and the yields of its core are over (R17, R18). -/
def waited (p : Nat) (s s' : State) : State :=
  (siblings p).foldl (fun s' q => if (s'.slot q).yielded then s'.modSlot q (fun t => { t with yielded := false }) else s') (aged (some p) s s')

/-- An issue move of slot `p`: an instruction issues when the slot is the one the core chooses in this cycle (R17, R18). -/
def issueMove (p : Nat) (s : State) : Host.Outcome State Fault Refusal :=
  if (s.slot p).st == .active && (decide (s.cycle < (s.slot p).readyAt) || outranked s p) then noIssue { s with cur := p }
  else match issueSlot p s with
    | .next s' => .next (if s'.idle then s' else waited p s s')
    | o => o

/-- The same as a move of its own: where the slot does not issue, a cycle passes for those that are ready. -/
def issueAged (p : Nat) (s : State) : Host.Outcome State Fault Refusal :=
  match issueMove p s with
  | .next s' => .next (if s'.idle then aged none s s' else s')
  | o => o

/-! ### Loads whose data returns later (R173, R205, R218) -/

/-- The load that the slot's next instruction makes when it is a plain one to a register outside regions, and may issue before its data returns; with the
instruction's encoding. -/
def pendingLoad (p : Nat) (s : State) : Option (Enc × PLoad × State) :=
  match fetch p s with
  | .instr i s' =>
    match opcodeOf i with
    | some (opc, e) =>
      let t := s'.slot p
      let scalar := opc == 0x60
      let w := if scalar then elemWidth e else 128
      let (va, off, n) := elemAddr w (t.x (regNo e.a)) (if e.isImm32 then sextImm e else t.x (regNo e.b))
      if !(scalar || opc == 0x73) || 8 ≤ e.v || e.live.isSome || chanNo e.d != 0 || (admitted opc e p t).isSome || replyWait e t || !t.guards e ||
          !loadsClear opc e t || Opnd.isChan e.a || Opnd.isChan e.b || t.region.isSome || va % n != 0 then none
      else match resolve (whoSlot s' p) .load Need.read va n false s' with
        | .ok (q, s2) =>
          if q.spill || t.loads.any (fun x => overlaps x.loc x.bytes q.loc n || (q.sc && x.sc)) then none
          else match e.d with
            | .reg r => some (e, { pc := t.pc, hint := e.hint.toNat, floor := (t.sourced opc e).order.addr, part := (whoSlot s' p).part, sc := q.sc, vec := !scalar, reg := r.val, va := va, loc := q.loc, key := q.key, level := q.level, bytes := n, off := off, width := w
                                   signed := scalar && (decide (e.t < 4) || e.t == 8) }, s2)
            | _ => none
        | .error _ => none
    | none => none
  | _ => none

/-- The key of the register that a load under way writes, in its slot's order. -/
def PLoad.key_ (x : PLoad) (t : Slot) : List Nat := regKeys t (if x.vec then Cls.vr else Cls.x) (.reg (Fin.ofNat 32 x.reg))

/-- A load is under way; what its register held is no longer of concern. -/
def Slot.begins (x : PLoad) (t : Slot) : Slot :=
  { t with loads := t.loads ++ [x], order := { t.order with regs := (x.key_ t).foldl KV.erase t.order.regs } }

/-- Whether a control-core slot takes an interrupt before its next instruction (R340). -/
def interruptDue (s : State) (p : Nat) : Bool := match exec (.interruptTaken p) s with | .next s1 => !s1.idle | _ => false

/-- The slot's next instruction, a plain load, issues, and its data is still under way. -/
def issueLoad (p : Nat) (s : State) : Option State :=
  let s := { s with cur := p }
  let t := s.slot p
  if t.st != .active || s.board.fatal || t.parkReq || decide (s.cycle < t.readyAt) || outranked s p ||
      (if isCtl p then interruptDue s p else launchEnding s (t.launch.getD 0) || watchdogDue s p) then none
  else (pendingLoad p s).map (fun x => waited p s (completed x.1 p .next (x.2.2.modSlot p (Slot.begins x.2.1))))

/-- The value of returned bytes, in the load's register, with what it is ordered behind. -/
def PLoad.write (x : PLoad) (b : List Byte) (t : Slot) : Slot :=
  let f := t.order.met
  let t := { t with order := { t.order with regs := if f == ({} : Floor) then t.order.regs else (x.key_ t).foldl (fun m k => KV.set m k f) t.order.regs, met := {} } }
  if x.vec then t.setV x.reg (vecOfBytes b) else t.setX x.reg (extend x.signed x.width (ofLe b / 2 ^ x.off % 2 ^ x.width))

/-- A load under way faults when its data comes. On a control core the trap is taken then, with the address of the load. DEDUCED (log 113). -/
def loadFault (p : Nat) (x : PLoad) (c : Nat) (d : Word) (q : Option Nat) (s : State) : State :=
  if isCtl p then (raiseFault p c d q s).modSlot p (fun t => { t with ctl :=
    if t.ctl.level = 2 then { t.ctl with mepc := BitVec.ofNat 64 x.pc } else { t.ctl with sepc := BitVec.ofNat 64 x.pc } })
  else raiseFault p c d q s

/-- The data of a load under way returns: earlier stores of the slot are seen, and a hold of another slot is waited for. -/
def loadReturn (p k : Nat) (s : State) : Option State :=
  match (s.slot p).loads[k]? with
  | none => none
  | some x =>
    let s := s.modSlot p (fun t => { t with loads := t.loads.eraseIdx k })
    match loadAt p .load true x.va { loc := x.loc, key := x.key, sc := x.sc } x.bytes x.hint x.floor s with
    | .ok (b, s') => some (s'.modSlot p (x.write b))
    | .error (.fault c d q) => some (loadFault p x c d q s)
    | .error _ => none

/-! ### Moves of the schedule -/

/-- A write from outside the device: by the host, by another device, or by a peripheral (R280, R430). -/
def outsideStore (loc : Nat) (b : List Byte) (s : State) : State := homeStore none { loc := loc } b s

/-- The table that a unit walks for a partition: that of the partition, or, for a control core, that of the S-level slot `u` that works for it (R341, R349). -/
def walkRoot (u n : Nat) (s : State) : Option Nat :=
  if isCtl u && decide (u < 2 ^ 16) then
    if (s.slot u).ctl.pid = n ∧ (s.slot u).ctl.level = 1 then some (s.slot u).ctl.ptbase.toNat else none
  else some (s.part n).proot.toNat

/-- A unit walks the tables of a partition for an address and keeps the leaf, with A set in its entry (R351); an address below 32 * 2^39 names an entry
0 to 31 of the level-3 table, which ports and fabric units keep (R408). A core is named by its slot whose access walks. -/
def fillTlb (u n va : Nat) (s : State) : Option State :=
  if va / 2 ^ 39 < 32 then
    let k := va / 2 ^ 39
    let pte := ofLe (Memory.readN s.mem ((s.part n).proot.toNat + 8 * k) 8)
    some { s with tlb := { unit := fabricUnit, part := n, page := rootPage k, leaf := BitVec.ofNat 64 pte, level := 3 } :: s.tlb }
  else
    ((walkRoot u n s).bind (walk s (whoPart s n) va 3)).map (fun e =>
      let s := markUsed s e false
      { s with tlb := { unit := if u < 2 ^ 16 then coreOf u else u, part := n, page := va / 2 ^ 16, leaf := BitVec.ofNat 64 (Nat.lor e.pte 0x40), level := e.level } :: s.tlb })

/-- HBM is open to the outside, to walks and to the caches: from stage S2 on, until a fatal error, after which only the functions of stage S1 run (R433, R434). -/
def hbmOpen (s : State) : Bool := s.board.stage == .s2 && !s.board.fatal

/-- A move in which no slot issues (log 1), and an issue move. An `event` move names an event row; an instruction row is not an event. -/
def bareMove (m : Move) (s : State) : Host.Outcome State Fault Refusal :=
  match m with
  | .issue p => issueAged p s
  | .delay p n => .next (tick { s.modSlot p (fun t => if t.st == .active then { t with readyAt := s.cycle + n, readyFor := 0, urgent := false } else t) with idle := false })
  | .issueLoad p => .next (match issueLoad p s with | some s' => s' | none => aged none s (tick { s with idle := true }))
  | .loadReturn p k => .next (match (if s.board.fatal then none else loadReturn p k s) with | some s' => tick { s' with idle := false } | none => tick { s with idle := true })
  | .event i => if (opcodeOf i).isSome then .next (tick { s with idle := true }) else exec i s
  | .tick n => .next (walkTables (n - 1) { s with cycle := s.cycle + n, idle := false })
  | .write loc b => .next (if !hbmOpen s || heldByOther s none loc then tick { s with idle := true } else tick { outsideStore loc b s with idle := false })
  | .lease core loc key =>
    match (if hbmOpen s && (!isHbm loc || populated s loc) then leaseLine core loc key (l1Lines s core) (dirRequest (dieOf core) false loc s) else none) with
    | some s' => .next (tick { s' with idle := false })
    | none => .next (tick { s with idle := true })
  | .unlease core loc =>
    match unleaseLine core loc s with
    | some s' => .next (tick { s' with idle := false })
    | none => .next (tick { s with idle := true })
  | .fill u n va =>
    match (if hbmOpen s then fillTlb u n va s else none) with
    | some s' => .next (tick { s' with idle := false })
    | none => .next (tick { s with idle := true })
  | .poison loc source => .next (tick { memoryError loc source s with idle := false })
  | .corrected d k => .next (tick { countError d k s with idle := false })
  | .flash k b => .next (tick { s.modBoard (fun x => match k with
      | 0 => { x with flashA := b } | 1 => { x with flashB := b } | 2 => { x with blob := b } | 3 => { x with helper := b } | _ => { x with cert := b }) with idle := false })
  | .registerError p => .next (tick { registerError p s with idle := false })
  | .keyError k => .next (tick { keyError k s with idle := false })
  | .directoryError pa line => .next (tick { rebuildEntry pa line s with idle := false })
  | .walk k n => .next (tick { (if (s.table k).unmarked = 0 then s else s.modTable k (fun t => { t with pause := n + 1 })) with idle := false })
  | .peer f n q => .next (if f < 1024 ∧ n < 16 then tick { s with peers := KV.set s.peers (f * 16 + n) q, idle := false } else tick { s with idle := true })
  | .far f => .next (match (if s.board.fatal then none else farMove f s) with | some s' => tick { s' with idle := false } | none => tick { s with idle := true })

/-- One move, with the cycles that pass counted for the slots that are ready (R17). -/
def applyMove (m : Move) (s : State) : Host.Outcome State Fault Refusal :=
  match m with
  | .issue p => bareMove (.issue p) s
  | .issueLoad p => bareMove (.issueLoad p) s
  | m => agedOut s (bareMove m s)

/-! ### A word placed where the next step fetches (log 9) -/

/-- The address the word is fetched at. -/
def wordBase : Nat := globalBase

/-- The slot that runs a placed word: fresh, ACTIVE, at the word's address. -/
def wordSlot (s : State) (opc : Nat) : Slot :=
  if privilegedOpc opc then { st := .active, act := s.nextId, pc := wordBase, feat := 7, ctl := { level := if opc == 0xEE then 1 else 2 } }
  else { st := .active, act := s.nextId, launch := some 0, pc := wordBase, feat := 0xFF, wdBase := s.cycle, ctl := { level := 0 } }

/-- `s` with 32 bytes at the start of HBM and a slot about to fetch them: no other slot of the core takes the cycle, no line is held, and the
core's units are free. -/
def placeWord (s : State) (b : List Byte) (opc : Nat) : State :=
  let p : Nat := if privilegedOpc opc then 0x8000 else 0
  let s : State := { s.setSlot p (wordSlot s opc) with nextId := s.nextId + 1, mem := Memory.writeN s.mem 0 b }
  let s : State := (siblings p).foldl (fun s q => if (s.slot q).st == .active then s.modSlot q (fun t => { t with readyAt := s.cycle + 1 }) else s) s
  let s : State := if s.slots.any (fun e => e.2.hold.isSome) then { s with slots := s.slots.map (fun e => (e.1, { e.2 with hold := none })) } else s
  let s := if (s.core p).divBusy = 0 ∧ (s.core p).sfuBusy = 0 then s else s.modCore p (fun c => { c with divBusy := 0, sfuBusy := 0 })
  let s := if privilegedOpc opc then s else { s with launches := KV.set s.launches 0 { st := .running } }
  { s with
    agenda := [.issue p], poison := KV.erase (KV.erase s.poison 0) 1, board := { s.board with fatal := false }
    tlb := { unit := coreOf p, part := 0, page := wordBase / 2 ^ 16, leaf := 0xCF, level := 0 } :: s.tlb }

/-- The outcome of a step, with what follows at once from the next state. -/
def settled (o : Host.Outcome State Fault Refusal) : Host.Outcome State Fault Refusal :=
  match o with
  | .next s => .next (settleTables (settleUnits s))
  | o => o

/-! ### The device's own order of events (log 1) -/

/-- Events of a slot. -/
def slotEvents (e : Nat × Slot) : List Instr :=
  (List.range e.2.store.length).map (Instr.storePerform e.1) ++
  (match e.2.hold with | some _ => [Instr.holdExpiry e.1] | none => []) ++
  (match e.2.wait with
   | .remote _ _ => [Instr.remoteTimeout e.1]
   | .fabric a _ _ _ => [Instr.fabricTimeout e.1 a]
   | _ => []) ++
  (if e.2.st == .active then [Instr.actWatchdog e.1] else []) ++
  (if e.2.uints.isEmpty then [] else [Instr.uintPendingDeliver e.1])

/-- Events of a core: its remote-access buffer, its parking buffer, its FREE slots, and its engines. -/
def coreEvents (e : Nat × Core) : List Instr :=
  [Instr.remoteRequest e.1] ++ (List.range e.2.parking.length).map (Instr.parkedPacketDeliver e.1) ++
  (if e.2.inbox.isEmpty then [] else (List.range 4).map (fun k => Instr.inboxTake (e.1 + k))) ++ [Instr.placementFallback e.1] ++
  [Instr.copyCommand e.1, Instr.copyBeat e.1, Instr.mma e.1 [], Instr.mmaz e.1 [], Instr.store e.1, Instr.drain e.1, Instr.drainComplete e.1, Instr.zero e.1,
   Instr.config e.1, Instr.clear e.1, Instr.run e.1]

/-- Events of a cell table. -/
def tableEvents (e : Nat × Table) : List Instr :=
  [Instr.wavePublish e.1, Instr.editTakeEffect e.1] ++
  e.2.waves.flatMap (fun w => [Instr.waveFail e.1 w.num] ++ w.acts.map (fun a => Instr.formulaActStart e.1 w.num a.cell)) ++
  (if e.2.views.isEmpty then [] else [Instr.viewWatchdog e.1])

/-- Events of a die. -/
def dieEvents (e : Nat × Die) : List Instr :=
  (if e.2.colls.isEmpty && e.2.collIn.isEmpty then [] else [Instr.allreduce e.1, Instr.reduce e.1, Instr.bcast e.1]) ++
  (List.range e.2.colls.length).map (Instr.collectiveTimeout e.1)

/-- Events of a launch. -/
def launchEvents (e : Nat × Launch) : List Instr :=
  [Instr.launchWaiting e.1, Instr.dependenceMet e.1, Instr.placeInstance e.1, Instr.launchDone e.1, Instr.launchEnded e.1, Instr.launchPost e.1]

/-- Events of a launch queue. -/
def queueEvents (e : Nat × Queue) : List Instr :=
  [Instr.queueStopRequest (e.1 / 64) (e.1 % 64), Instr.queueStopped (e.1 / 64) (e.1 % 64), Instr.launchTake (e.1 / 64) (e.1 % 64)]

/-- The joins that stand in an engine queue. -/
def joinIds (s : State) : List Nat :=
  let js := fun (q : List Entry) => q.filterMap (fun e => e.join)
  (s.cores.flatMap (fun (e : Nat × Core) => js e.2.mx.queue ++ js e.2.copyq ++ js e.2.jug.queue) ++
    s.clusters.flatMap (fun (e : Nat × Cluster) => js e.2.sdq)).eraseDups

/-- The events the device's own units may perform now, in the order in which the model tries them. -/
def candidates (s : State) : List Instr :=
  (if s.board.stage == .s0 then [Instr.deviceReset] else []) ++ s.ginsts.map (fun e => Instr.quiesce e.1) ++ s.slots.flatMap slotEvents ++
  (List.range s.net.length).flatMap (fun k => [Instr.packetArrival k, Instr.packetRetry k]) ++ s.cores.flatMap coreEvents ++
  s.clusters.map (fun e => Instr.mv e.1 []) ++ (joinIds s).map Instr.qfenceJoinComplete ++ s.rslots.map (fun e => Instr.regionCommit e.1) ++
  s.tables.flatMap tableEvents ++ s.dies.flatMap dieEvents ++ s.ginsts.map (fun e => Instr.instanceResume e.1) ++
  s.launches.flatMap launchEvents ++ s.queues.flatMap queueEvents ++ s.cores.map (fun e => Instr.matrixOwnerRelease e.1) ++
  s.slots.map (fun e => Instr.slotUrgent e.1)

/-- The state after the first event of a list that is enabled. -/
def tryEvents (s : State) : List Instr → Option State
  | [] => none
  | i :: r =>
    match exec i s with
    | .next s' => if s'.idle then tryEvents s r else some s'
    | _ => tryEvents s r

/-- The data of the first load under way returns, or a unit performs an event. -/
def unitMove (s : State) : Option State :=
  match (if s.board.fatal then none else s.slots.findSome? (fun (e : Nat × Slot) => if e.2.loads.isEmpty then none else loadReturn e.1 0 s)) with
  | some s' => some (tick { s' with idle := false })
  | none => tryEvents s (candidates s)

/-- The cores with an ACTIVE slot, in turn after the core that issued last. -/
def coreTurn (s : State) : List Nat :=
  let cs := ((s.slots.filter (fun e => e.2.st == .active)).map (fun e => coreOf e.1)).eraseDups
  cs.filter (fun c => decide (coreOf s.cur < c)) ++ cs.filter (fun c => decide (c ≤ coreOf s.cur))

/-- The first slot of a list that its core chooses issues. Slots that are not ready keep what not being ready did to them. -/
def tryIssue (s : State) : List Nat → Host.Outcome State Fault Refusal
  | [] => .next (tick { s with idle := true })
  | p :: r =>
    match issueMove p s with
    | .next s' => if s'.idle then tryIssue { s' with cycle := s.cycle, cur := s.cur } r else .next s'
    | o => o

/-- The device's own next move when the agenda is empty: in even cycles an event of a unit, else an instruction of a slot in turn; in odd
cycles the other way round, so that neither waits for the other; else a cycle passes. -/
def autoStep (s : State) : Host.Outcome State Fault Refusal :=
  let slots := (coreTurn s).flatMap (fun c => (List.range 4).map (c + ·))
  if s.cycle % 2 = 0 then
    match unitMove s with
    | some s' => .next (aged none s s')
    | none => agedIdle (tryIssue s slots)
  else
    match tryIssue s slots with
    | .next s1 =>
      if s1.idle then
        match unitMove { s1 with cycle := s.cycle } with
        | some s' => .next (aged none s s')
        | none => .next (aged none s s1)
      else .next s1
    | o => o
where
  /-- A cycle in which nothing issues counts for the slots that are ready. -/
  agedIdle (o : Host.Outcome State Fault Refusal) : Host.Outcome State Fault Refusal :=
    match o with
    | .next s' => .next (if s'.idle then aged none s s' else s')
    | o => o

end Sys2Proof.Machine
end

