-- ==== Sys2Proof/Machine/Step.lean ====
section
/-! DEFINITION. One step of the device, and the state in which the next step fetches and runs a given word. -/

namespace Sys2Proof.Machine

/-- One step: the next move of the agenda, or the device's own next move, and what follows at once from the state it leaves. -/
def step (s : State) : Host.Outcome State Fault Refusal :=
  settled (match s.agenda with
    | m :: rest => applyMove m { s with agenda := rest }
    | [] => autoStep s)

/-- `s` with an instruction's bytes at the start of HBM and a slot about to fetch them (log 9): slot 0 of control core 0 of die 0 for a
privileged opcode (at M, where global addresses are physical; at S for `scall`), else slot 0 of compute core 0, as an act of launch 0 of partition 0
that has declared every feature. A cached translation maps the page, and the agenda holds that slot's issue. -/
def State.withFetchWord (s : State) (nbits w : Nat) : State := placeWord s (leBytes 32 (w % 2 ^ nbits)) (w / 8 % 256)

end Sys2Proof.Machine
end

