-- ==== Sys2Proof/Safety.lean ====
section
/-! DEFINITION. The terms the claims use: when an instruction of a slot is ready, what its operands give, what a step leaves alone, and the
invariant of every step. -/

namespace Sys2Proof.Machine

/-- The instruction of opcode `opc` of slot `cur` issues and has its own effect: the slot is ACTIVE and the device has met no fatal error
(R433), the decode checks that depend on the slot pass (R81), its SCH wait is over (R18), no load under way holds it back (R173, R205), and its
guards hold (R65). -/
def ready (opc : Nat) (e : Enc) (s : State) : Prop :=
  (s.slot s.cur).st = .active ∧ s.board.fatal = false ∧ admitted opc e s.cur (s.slot s.cur) = none ∧
  replyWait e (s.slot s.cur) = false ∧ loadsClear opc e (s.slot s.cur) = true ∧ (s.slot s.cur).guards e = true

/-- Every channel an operand field names is bound, and `.in` where it is a source (R128); each source has an entry, and a destination has room (R72). -/
def bound (e : Enc) (s : State) : Prop :=
  ([e.a, e.b, e.c, e.e].all (chanSourceOk (s.slot s.cur)) && [e.d].all (chanDestOk (s.slot s.cur))) = true ∧
  chansReady s s.cur [(e.a, 1), (e.b, 1), (e.c, 1), (e.e, 1)] e.d = true

/-- X(A) and opB can be read, A first (R72, R111): they are `a` and `b`, and the state after is `t`. -/
def reads (e : Enc) (s : State) (a b : Word) (t : State) : Prop :=
  ∃ s1, readX s.cur e.a s = .ok (a, s1) ∧ readB s.cur e s1 = .ok (b, t)

/-- The vectors V(A) and V(B) can be read, A first. -/
def readsV (e : Enc) (s : State) (a b : Vec) (t : State) : Prop :=
  ∃ s1, readV s.cur e.a s = .ok (a, s1) ∧ readV s.cur e.b s1 = .ok (b, t)

/-- An action of a slot can be done now: it gives `r`, and the state after is `t`. -/
def does {α : Type} (f : Act α) (s : State) (r : α) (t : State) : Prop := f s = .ok (r, t)

/-- What is the same of two slots but for the counts of R17 and R18: the cycles waited ready, and the yield. -/
def sameSlot (x y : Slot) : Prop := { x with readyFor := y.readyFor, yielded := y.yielded } = y

/-- All of the device but its slots, its cores' rotation pointers, the clusters' sticky flags, the clock and the schedule's `idle` is the same. -/
def sameDevice (s t : State) : Prop :=
  t = { s with slots := t.slots, cores := t.cores, clusters := t.clusters, cycle := t.cycle, idle := t.idle }

/-- The cores are the same but for the rotation pointer (R17). -/
def sameCores (s t : State) : Prop := ∀ c, t.core c = { s.core c with ptr := (t.core c).ptr }

/-- The clusters are the same but for the sticky flags (R53). -/
def sameClusters (s t : State) : Prop := ∀ c, t.cluster c = { s.cluster c with sticky := (t.cluster c).sticky }

/-- Every slot but `p` is the same. -/
def sameOthers (p : Nat) (s t : State) : Prop := ∀ q, q ≠ p → sameSlot (t.slot q) (s.slot q)

/-- The canonical form of memory, kept by every step. -/
def canonical (s : State) : Prop := s.mem.wf = true

end Sys2Proof.Machine
end

