-- ==== Sys2Proof/Certificates/Slice0/Obligations.lean ====
section
/-! DEFINITION. The statements for the provers. A statement says of an instruction that it completes, and with what state, for every operand form that
can be read and written now: the premises read the operands through the operand functions, whose own statements are ScalarOperands and
VectorOperands; what `completed` does to the rest of the machine is the statement CompletionFrame. -/

open Sys2Proof Sys2Proof.Machine

/-! ### Operands, and what completion does -/

/-- What a completed instruction does besides its own effect (R17, R18, R34, R63, R75): its slot's program counter moves to next or to the target, its
safe-point record is set, its core's rotation pointer moves on, other slots of the core count a cycle, the clock counts one; no register,
channel, stream, launch, memory byte or other state changes. That the completion of an instruction resumed after a park leaves the watchdog's base alone is log entry 95 (DEDUCED, from R390 and R399). -/
def Sys2Proof.Machine.Claim.CompletionFrame : Prop :=
  ∀ (e : Enc) (p : Nat) (flow : Flow) (s : State),
    let t := completed e p flow s
    let x := s.slot p
    let y := t.slot p
    sameDevice s t ∧ sameOthers p s t ∧ sameCores s t ∧ t.clusters = s.clusters ∧ t.cycle = s.cycle + 1 ∧ t.idle = false ∧
    (flow = .settled → y = x) ∧
    (flow ≠ .settled →
      y = { x with pc := y.pc, wait := .none, reexec := false, yielded := e.yield, readyFor := 0, urgent := false, drawNo := none, resumed := false
                   safe := y.safe, live := y.live, wdBase := y.wdBase } ∧
      (flow = .next → y.pc = nextOf e x.pc) ∧ (∀ a, flow = .jump a → y.pc = a) ∧
      (∀ m, e.live = some m → y.safe = true ∧ y.live = m ∧ (x.resumed = false → y.wdBase = s.cycle + 1) ∧ (x.resumed = true → y.wdBase = x.wdBase)) ∧
      (e.live = none → y.safe = false ∧ y.live = x.live ∧ y.wdBase = x.wdBase))

/-- next_pc (R63): the address after the instruction's bytes, moved past the last 4 bytes of a 32-byte fetch block. -/
def Sys2Proof.Machine.Claim.NextPc : Prop :=
  ∀ (e : Enc) (pc : Nat),
    let n := pc + 8 + (match e.ext with | .none => 0 | .imm32 _ => 4 | .imm64 _ => 8) + (if e.live.isSome then 8 else 0)
    nextOf e pc = (if n % 32 = 28 then n + 4 else n) % 2 ^ 64

/-- Scalar sources (R71, R72, R120, R128): x0 reads 0 and another register its value, with no change; a channel bound `.in` gives bits [63:0] of
its head entry, which is removed; an empty one is not ready; any other binding raises CHANNEL. opB of the 96-bit form is IMM32 sign-extended (R111). -/
def Sys2Proof.Machine.Claim.ScalarSources : Prop :=
  (∀ (p : Nat) (n : Fin 32) (s : State), readX p (.reg n) s = .ok ((s.slot p).x n, s)) ∧
  (∀ (t : Slot), t.x 0 = 0) ∧
  (∀ (p : Nat) (q : Fin 8) (s : State),
    let c := (s.slot p).chan q
    (∀ v r, c.kind = .input → c.entries = v :: r → ∃ s', readX p (.chan q) s = .ok (v.setWidth 64, s') ∧
      s'.slot p = (s.slot p).setChan q { c with entries := r } ∧ (∀ j, j ≠ p → s'.slot j = s.slot j) ∧ s'.mem = s.mem ∧ s'.net = s.net) ∧
    (c.kind = .input → c.entries = [] → readX p (.chan q) s = .error (.wait none)) ∧
    (c.kind ≠ .input → readX p (.chan q) s = .error (.fault Cause.channel 0 none))) ∧
  (∀ (p : Nat) (e : Enc) (s : State) (v : BitVec 32), e.ext = .imm32 v → readB p e s = .ok (v.signExtend 64, s)) ∧
  (∀ (p : Nat) (e : Enc), (∀ v, e.ext ≠ .imm32 v) → readB p e = readX p e.b)

/-- Scalar destinations (R71, R120, R128): a write of x0 changes nothing; of another register, that register alone; of a channel bound `.in` with
room, one entry is appended to it, with the cycle of its arrival; of one bound `.out` whose destination is permitted, with room in the channel and the outbound buffer, one packet
with the channel's tag enters the network; a full one is not ready; an unbound one raises CHANNEL; a destination that CLPERM forbids raises DENIED, which is the
model's reading of R348, log entry 24. -/
def Sys2Proof.Machine.Claim.ScalarDestinations : Prop :=
  (∀ (c : Chan) (n : Nat) (v : Vec), (c.push n v).entries = c.entries ++ [v] ∧ (c.push n v).kind = c.kind ∧ (c.push n v).tag = c.tag ∧ (c.push n v).route = c.route) ∧
  (∀ (p : Nat) (n : Fin 32) (w : Word) (s : State), ∃ u : Slot, writeX p (.reg n) w s = .ok ((), s.setSlot p u) ∧
    u = { s.slot p with xg := u.xg, win := u.win } ∧ (n ≠ 0 → u.x n = w) ∧ (∀ m, m < 32 → (n = 0 ∨ m ≠ n) → u.x m = (s.slot p).x m)) ∧
  (∀ (p : Nat) (q : Fin 8) (w : Word) (s : State),
    let x := s.slot p
    let c := x.chan q
    let dst := (destOf s x.ginst (routeVcore c.route)).getD 0
    let room := chanCount s p q < 8
    (c.kind = .unbound → writeX p (.chan q) w s = .error (.fault Cause.channel 0 none)) ∧
    (c.kind = .input → room → writeX p (.chan q) w s = .ok ((), s.modSlot p (fun t => t.setChan q (c.push s.cycle (w.setWidth 128))))) ∧
    (c.kind = .input → ¬ room → writeX p (.chan q) w s = .error (.wait none)) ∧
    (c.kind = .output → permitsCore s p dst = false → writeX p (.chan q) w s = .error (.fault Cause.denied 0 none)) ∧
    (c.kind = .output → permitsCore s p dst = true → ¬ (room ∧ outbound s p < 4) → writeX p (.chan q) w s = .error (.wait none)) ∧
    (c.kind = .output → permitsCore s p dst = true → room → outbound s p < 4 → ∃ i : NetItem,
      writeX p (.chan q) w s = .ok ((), { s with net := s.net ++ [i] }) ∧ i.kind = .packet ∧ i.src = p ∧ i.dst = dst ∧ i.vcore = routeVcore c.route ∧
      i.tag = c.route % 2 ^ 16 ∧ i.data = bytesOfVec (w.setWidth 128) ∧ i.chan = some q.val))

/-- Predicates (R65, R71): p0 reads true and a write of it is discarded; a write of another changes that one alone. -/
def Sys2Proof.Machine.Claim.Predicates : Prop :=
  (∀ (p : Nat) (n : Fin 32) (s : State), readP p (.reg n) s = .ok ((s.slot p).p n, s)) ∧ (∀ t : Slot, t.p 0 = true) ∧
  (∀ (p : Nat) (n : Fin 32) (b : Bool) (s : State), n.val < 8 → ∃ u : Slot, writeP p (.reg n) b s = .ok ((), s.setSlot p u) ∧
    u = { s.slot p with preds := u.preds } ∧ (n ≠ 0 → u.p n = b) ∧ (∀ m, m < 8 → (n = 0 ∨ m ≠ n.val) → u.p m = (s.slot p).p m))

/-- Vector operands (R71, R128, R142): a register is read and written whole, the others unchanged; a channel gives and takes whole 128-bit entries. -/
def Sys2Proof.Machine.Claim.VectorOperands : Prop :=
  (∀ (p : Nat) (n : Fin 32) (s : State), readV p (.reg n) s = .ok ((s.slot p).vreg n, s)) ∧
  (∀ (p : Nat) (n : Fin 32) (v : Vec) (s : State), ∃ u : Slot, writeV p (.reg n) v s = .ok ((), s.setSlot p u) ∧
    u = { s.slot p with v := u.v } ∧ u.vreg n = v ∧ ∀ m, m ≠ n.val → u.vreg m = (s.slot p).vreg m) ∧
  (∀ (p : Nat) (q : Fin 8) (s : State) (v : Vec) (r : List Vec), let c := (s.slot p).chan q
    c.kind = .input → c.entries = v :: r → ∃ s', readV p (.chan q) s = .ok (v, s') ∧ s'.slot p = (s.slot p).setChan q { c with entries := r } ∧ s'.mem = s.mem) ∧
  (∀ (p : Nat) (q : Fin 8) (v : Vec) (s : State), let c := (s.slot p).chan q
    c.kind = .input → chanCount s p q < 8 → writeV p (.chan q) v s = .ok ((), s.modSlot p (fun t => t.setChan q (c.push s.cycle v))))

/-! ### Class 0: scalar instructions -/

/-- The constructor and the opcode of each typed arithmetic stem (R113). -/
def Sys2Proof.Machine.arithRow : Arith → (Enc → Instr) × Nat
  | .add => (.add, 0x02) | .sub => (.sub, 0x03) | .mul => (.mul, 0x04) | .mulh => (.mulh, 0x05) | .div => (.div, 0x06) | .rem => (.rem, 0x07)

/-- val(v) of R113: the low n bits, two's complement for a signed code. -/
def Sys2Proof.Machine.specVal (sg : Bool) (n : Nat) (w : Word) : Int := if sg then (w.setWidth n).toInt else ((w.setWidth n).toNat : Int)

/-- The exact integer e of R113 before saturation. -/
def Sys2Proof.Machine.specExact (k : Arith) (n : Nat) (a b : Int) : Int :=
  match k with
  | .add => a + b
  | .sub => a - b
  | .mul => a * b
  | .mulh => (a * b).fdiv (2 ^ n)
  | .div => if b = 0 then -1 else a.tdiv b
  | .rem => if b = 0 then a else a - b * a.tdiv b

/-- The clamp of `.sat` (R113, R44). -/
def Sys2Proof.Machine.specClamp (sg : Bool) (n : Nat) (x : Int) : Int :=
  if sg then max (-(2 ^ (n - 1))) (min x (2 ^ (n - 1) - 1)) else max 0 (min x (2 ^ n - 1))

/-- res of R113: e mod 2^n, extended to 64 bits. -/
def Sys2Proof.Machine.specResult (sg : Bool) (n : Nat) (x : Int) : Word := if sg then (BitVec.ofInt n x).signExtend 64 else (BitVec.ofInt n x).setWidth 64

/-- `add`, `sub`, `mul`, `mulh`, `div` and `rem` complete on every operand form that can be read and written now, with the value of R113; DZ is
raised by a division by zero, and SA when `.sat` clamps (R44). -/
def Sys2Proof.Machine.Claim.ScalarArithmeticCompletes : Prop :=
  ∀ (k : Arith) (e : Enc) (s s1 t : State) (a b : Word), e.t < 8 →
    ready (arithRow k).2 e s → bound e s → reads e s a b s1 →
    let n := fmtWidth e.t
    let sg := decide (e.t < 4)
    let va := specVal sg n a
    let vb := specVal sg n b
    let x := specExact k n va vb
    let y := if e.v = 1 then specClamp sg n x else x
    let dz := (k = .div ∨ k = .rem) ∧ vb = 0
    let fl := Fl.when (decide dz) Fl.dz ||| Fl.when (decide (y ≠ x)) Fl.sa
    writeX s.cur e.d (specResult sg n y) (raiseFlags s.cur fl s1) = .ok ((), t) →
    exec ((arithRow k).1 e) s = .next (completed e s.cur .next t)

/-- The constructor and the opcode of each logical and shift stem (R114). -/
def Sys2Proof.Machine.logicRow : Logic → (Enc → Instr) × Nat
  | .and => (.and, 0x08) | .or => (.or, 0x09) | .xor => (.xor, 0x0A) | .shl => (.shl, 0x0B) | .shr => (.shr, 0x0C) | .sra => (.sra, 0x0D)

/-- `and`, `or`, `xor`, `shl`, `shr` and `sra` complete with the value of R114: `.n` complements opB, and a shift uses the low 6 bits of opB. A
shift has no variant but 0. -/
def Sys2Proof.Machine.Claim.ScalarLogicCompletes : Prop :=
  ∀ (k : Logic) (e : Enc) (s s1 t : State) (a b : Word),
    ready (logicRow k).2 e s → bound e s → reads e s a b s1 → (k = .shl ∨ k = .shr ∨ k = .sra → e.v = 0) →
    let c := if e.v = 1 then ~~~b else b
    let n := (b.extractLsb' 0 6).toNat
    let r := match k with
      | .and => a &&& c | .or => a ||| c | .xor => a ^^^ c
      | .shl => a <<< n | .shr => a >>> n | .sra => a.sshiftRight n
    writeX s.cur e.d r s1 = .ok ((), t) →
    exec ((logicRow k).1 e) s = .next (completed e s.cur .next t)

/-- `nop`, `li`, `cmp`, `sel`, `lea` and `bit` complete: `nop` only advances the program counter; `li` writes its immediate; `cmp` writes P(D);
`sel` reads both sources and writes one; `lea` adds opB * 2^VAR to X(A), or to its own address with no A; `bit` extracts, inserts or counts
(R112, R115 to R118). -/
def Sys2Proof.Machine.Claim.ScalarMovesComplete : Prop :=
  (∀ (e : Enc) (s : State), ready 0x00 e s → exec (.nop e) s = .next (completed e s.cur .next s)) ∧
  (∀ (e : Enc) (s t : State) (w : Word), ready 0x01 e s →
    (∀ v, e.ext = .imm32 v → w = v.signExtend 64) → (∀ v, e.ext = .imm64 v → w = v) → e.ext ≠ .none →
    writeX s.cur e.d w s = .ok ((), t) → exec (.li e) s = .next (completed e s.cur .next t)) ∧
  (∀ (e : Enc) (s s1 t : State) (a b : Word), e.t < 8 → ready 0x0E e s → bound e s → reads e s a b s1 →
    let n := fmtWidth e.t
    let va := specVal (decide (e.t < 4)) n a
    let vb := specVal (decide (e.t < 4)) n b
    let and0 := (a &&& b).setWidth n = 0
    let r := match e.v with
      | 0 => decide (va = vb) | 1 => decide (va ≠ vb) | 2 => decide (va < vb) | 3 => decide (va ≤ vb)
      | 4 => decide (va > vb) | 5 => decide (va ≥ vb) | 6 => decide (¬ and0) | _ => decide and0
    writeP s.cur e.d r s1 = .ok ((), t) →
    exec (.cmp e) s = .next (completed e s.cur .next t)) ∧
  (∀ (e : Enc) (s s1 s2 t : State) (a b : Word) (c : Bool), ready 0x0F e s → bound e s →
    readX s.cur e.a s = .ok (a, s1) → readX s.cur e.b s1 = .ok (b, s2) → readP s.cur e.c s2 = .ok (c, s2) →
    writeX s.cur e.d (if c then a else b) s2 = .ok ((), t) →
    exec (.sel e) s = .next (completed e s.cur .next t)) ∧
  (∀ (e : Enc) (s s1 t : State) (a b : Word), ready 0x10 e s → (e.a = .none → a = BitVec.ofNat 64 (s.slot s.cur).pc ∧ readB s.cur e s = .ok (b, s1)) →
    (e.a ≠ .none → reads e s a b s1) →
    writeX s.cur e.d (a + (b <<< e.v)) s1 = .ok ((), t) →
    exec (.lea e) s = .next (completed e s.cur .next t)) ∧
  (∀ (e : Enc) (s s1 s2 t : State) (a b c : Word), ready 0x11 e s → bound e s → reads e s a b s1 → readX s.cur e.c s1 = .ok (c, s2) →
    writeX s.cur e.d (bitOp e.v a b c) s2 = .ok ((), t) →
    exec (.bit e) s = .next (completed e s.cur .next t))

/-- The fields of `bit` (R118): with pos the low 6 bits of opB and wd the smaller of bits [14:8] and 64 - pos, `.ext` and `.exts` give bits pos to
pos + wd - 1 of X(A), zero-extended and sign-extended from bit wd - 1, and 0 when wd is 0; `.ins` gives X(C) with those bits from the low wd bits
of X(A). -/
def Sys2Proof.Machine.Claim.BitFields : Prop :=
  ∀ (a b c : Word),
    let pos := (b.extractLsb' 0 6).toNat
    let wd := min (b.extractLsb' 8 7).toNat (64 - pos)
    (∀ i, i < 64 → (bitOp 0 a b c).getLsbD i = (decide (i < wd) && a.getLsbD (pos + i))) ∧
    (∀ i, i < 64 → (bitOp 1 a b c).getLsbD i = (decide (0 < wd) && a.getLsbD (pos + (min i (wd - 1))))) ∧
    (∀ i, i < 64 → (bitOp 2 a b c).getLsbD i = if pos ≤ i ∧ i < pos + wd then a.getLsbD (i - pos) else c.getLsbD i)

/-! ### Class 1: control -/

/-- A control-transfer target obeys R61, and in a `sendc` payload lies in its bytes 0 to 39 (R137). -/
def Sys2Proof.Machine.targetOk (s : State) (a : Word) : Prop :=
  a.toNat % 4 = 0 ∧ a.toNat % 32 ≠ 28 ∧ ((s.slot s.cur).payload ≠ none → a.toNat < 40)

/-- P, the address of the instruction of slot `cur`. -/
def Sys2Proof.Machine.pcOf (s : State) : Word := BitVec.ofNat 64 (s.slot s.cur).pc

/-- `br`, `loop` and `jmp` (R119): each goes to its target or falls through to next, and a target that breaks R61 raises PC-ALIGN with no other
effect; `loop` decrements X(D) and goes on while it is not 0. -/
def Obligations.ControlTransfer : Prop :=
  (∀ (e : Enc) (s : State) (a : Word) (v : BitVec 32), ready 0x20 e s → readX s.cur e.a s = .ok (a, s) → e.ext = .imm32 v → e.v ≤ 2 →
    let target := pcOf s + v.signExtend 64
    let taken := e.v = 0 ∨ (e.v = 1 ∧ a = 0) ∨ (e.v = 2 ∧ a ≠ 0)
    (¬ taken → exec (.br e) s = .next (completed e s.cur .next s)) ∧
    (taken → targetOk s target → exec (.br e) s = .next (completed e s.cur (.jump target.toNat) s)) ∧
    (taken → ¬ targetOk s target → exec (.br e) s = .next (faulted s.cur Cause.pcAlign 0 none s))) ∧
  (∀ (e : Enc) (s : State) (n : Fin 32) (v : BitVec 32), ready 0x24 e s → e.d = .reg n → e.ext = .imm32 v →
    let target := pcOf s + v.signExtend 64
    let x := (s.slot s.cur).x n
    let t := s.modSlot s.cur (fun u => u.setX n (x - 1))
    (x = 0 → exec (.loop e) s = .next (completed e s.cur .next s)) ∧
    (x = 1 → exec (.loop e) s = .next (completed e s.cur .next t)) ∧
    (x ≠ 0 → x ≠ 1 → targetOk s target → exec (.loop e) s = .next (completed e s.cur (.jump target.toNat) t)) ∧
    (x ≠ 0 → x ≠ 1 → ¬ targetOk s target → exec (.loop e) s = .next (faulted s.cur Cause.pcAlign 0 none s))) ∧
  (∀ (e : Enc) (s : State) (a target : Word), ready 0x21 e s →
    (e.ext = .none → readX s.cur e.a s = .ok (a, s) ∧ target = a) → (∀ v, e.ext = .imm64 v → target = pcOf s + v) → (∀ v, e.ext ≠ .imm32 v) →
    (targetOk s target → exec (.jmp e) s = .next (completed e s.cur (.jump target.toNat) s)) ∧
    (¬ targetOk s target → exec (.jmp e) s = .next (faulted s.cur Cause.pcAlign 0 none s)))

/-- `call` (R120, R121): PC-ALIGN for the target, then STACK, else a record is pushed, the window moves up by F, the new registers
x(32 - F) to x31 read 0, the callee's x8 to x(31 - F) are the caller's x(8 + F) to x31, and x1 to x7 do not move. -/
def Sys2Proof.Machine.Claim.CallPushesFrame : Prop :=
  ∀ (e : Enc) (s : State) (w base : Word), ready 0x22 e s → e.ext = .imm64 w → (w.extractLsb' 32 3).toNat ≤ 6 →
    (w.getLsbD 35 = true → readX s.cur e.a s = .ok (base, s)) → (w.getLsbD 35 = false → base = pcOf s) →
    let f := 4 * (w.extractLsb' 32 3).toNat
    let target := base + (w.extractLsb' 0 32).signExtend 64
    let t := s.slot s.cur
    (¬ targetOk s target → exec (.call e) s = .next (faulted s.cur Cause.pcAlign 0 none s)) ∧
    (targetOk s target → t.frames.length = 32 ∨ 192 < 24 + t.offs + f → exec (.call e) s = .next (faulted s.cur Cause.stack 0 none s)) ∧
    (targetOk s target → t.frames.length ≠ 32 → 24 + t.offs + f ≤ 192 →
      ∃ u : Slot, exec (.call e) s = .next (completed e s.cur (.jump target.toNat) (s.setSlot s.cur u)) ∧
        u = { t with win := u.win, frames := { link := nextOf e t.pc, callee := f, caller := t.frame } :: t.frames, offs := t.offs + f, frame := f } ∧
        (∀ n, 32 - f ≤ n → n < 32 → u.x n = 0) ∧ (∀ n, 8 ≤ n → n < 32 - f → u.x n = t.x (n + f)))

/-- `ret` (R121, R290): STACK at depth 0; REGION-OP below the call depth of the act's region; else the newest record is popped, the window moves
down and control goes to the link. -/
def Sys2Proof.Machine.Claim.RetPopsFrame : Prop :=
  ∀ (e : Enc) (s : State), ready 0x23 e s →
    let t := s.slot s.cur
    (t.frames = [] → exec (.ret e) s = .next (faulted s.cur Cause.stack 0 none s)) ∧
    (∀ r rest, t.frames = r :: rest →
      let u := { t with frames := rest, offs := t.offs - r.callee, frame := r.caller }
      ((∃ rs, liveRegion s t = some rs ∧ rest.length < (s.rslot rs).callDepth) →
        exec (.ret e) s = .next (faulted s.cur Cause.regionOp 0 none s)) ∧
      ((∀ rs, liveRegion s t = some rs → (s.rslot rs).callDepth ≤ rest.length) → targetOk s (BitVec.ofNat 64 r.link) →
        exec (.ret e) s = .next (completed e s.cur (.jump (r.link % 2 ^ 64)) (s.setSlot s.cur u))))

/-- `endact` (R13): with a region of its own still open the act faults with OPEN-REGION. Otherwise the act ends: its slot is FREE (or, when a park
request finds it the last act of its group copy on the core, PARKED as a boundary context), its registers and channels are gone, its buffered
stores stay, memory is unchanged, and a view it held is closed. -/
def Sys2Proof.Machine.Claim.EndactEndsAct : Prop :=
  ∀ (e : Enc) (s : State), ready 0x25 e s →
    let t := s.slot s.cur
    (t.formula = none → liveRegion s t ≠ none → exec (.endact e) s = .next (faulted s.cur Cause.openRegion 0 none s)) ∧
    (t.formula ≠ none ∨ liveRegion s t = none → ∃ s', exec (.endact e) s = .next s' ∧
      s'.mem = s.mem ∧ (s'.slot s.cur).store = t.store ∧ (s'.slot s.cur).xg = [] ∧ (s'.slot s.cur).win = [] ∧ (s'.slot s.cur).v = [] ∧
      (s'.slot s.cur).chans = [] ∧ (s'.slot s.cur).hold = none ∧ (s'.slot s.cur).view = none ∧
      (t.launch = none ∨ (s.ginst t.ginst).parkReq = false → (s'.slot s.cur).st = .free) ∧
      ((s'.slot s.cur).st = .parked → (s'.slot s.cur).boundary = true) ∧
      ∀ tab off w, t.view = some (tab, off, w) → ∀ v ∈ (s'.table tab).views, v.act ≠ t.act)

/-- `yield`, `wait` and `wait.rep` (R124): `yield` has the effect of SCH bit 63; `wait` is not ready until min(X(A), 2^32 - 1) cycles from its
issue have passed, and then completes; `wait.rep` completes when the outstanding replies do not exceed X(A), and is not ready before. -/
def Sys2Proof.Machine.Claim.WaitingInstructions : Prop :=
  (∀ (e : Enc) (s : State), ready 0x26 e s → exec (.yield e) s = .next (completed { e with yield := true } s.cur .next s)) ∧
  (∀ (e : Enc) (s s0 s1 : State) (a : Word), ready 0x27 e s → bound e s → peekX s.cur e.a s = .ok (a, s0) → readX s.cur e.a s0 = .ok (a, s1) →
    let n := min a.toNat (2 ^ 32 - 1)
    (∀ c, (s.slot s.cur).wait = .until c → c ≤ s.cycle → exec (.wait e) s = .next (completed e s.cur .next s1)) ∧
    (∀ c, (s.slot s.cur).wait = .until c → s.cycle < c → exec (.wait e) s = .next (notReady e s.cur s)) ∧
    ((∀ c, (s.slot s.cur).wait ≠ .until c) → n = 0 → exec (.wait e) s = .next (completed e s.cur .next s1)) ∧
    ((∀ c, (s.slot s.cur).wait ≠ .until c) → n ≠ 0 → ∃ s', exec (.wait e) s = .next s' ∧ (s'.slot s.cur).wait = .until (s.cycle + n) ∧
      (s'.slot s.cur).pc = (s.slot s.cur).pc)) ∧
  (∀ (e : Enc) (s s1 : State) (a : Word), ready 0x27 e s → bound e s → readX s.cur e.a s = .ok (a, s1) →
    ((s.slot s.cur).replies ≤ a.toNat → exec (.waitRep e) s = .next (completed e s.cur .next s1)) ∧
    (a.toNat < (s.slot s.cur).replies → exec (.waitRep e) s = .next (notReady e s.cur s)))

/-- `trap` faults with TRAP and IMM32 as the trap code; `trap.brk` halts the slot, which stays live with its launch and resumes at next, and posts
a debug event carrying IMM32 to the partition (R124). -/
def Sys2Proof.Machine.Claim.Traps : Prop :=
  ∀ (e : Enc) (s : State) (v : BitVec 32), ready 0x28 e s → e.ext = .imm32 v →
    exec (.trap e) s = .next (faulted s.cur Cause.trap (v.setWidth 64) none s) ∧
    ∃ s', exec (.trapBrk e) s = .next s' ∧ (s'.slot s.cur).st = .halted ∧ (s'.slot s.cur).halt = .brk ∧
      (s'.slot s.cur).pc = nextOf e (s.slot s.cur).pc ∧ (s'.slot s.cur).launch = (s.slot s.cur).launch ∧
      (s'.slot s.cur).xg = (s.slot s.cur).xg ∧ (s'.slot s.cur).win = (s.slot s.cur).win ∧ s'.mem = s.mem ∧ s'.launches = s.launches ∧
      (s'.part (partOf s s.cur)).pendDebug = true ∧ (s'.part (partOf s s.cur)).debugValue = v.toNat

/-- What a control register reads as (R32, R51, R123): ACTID, ACTLN, FCS, WP = DEPTH, FRAME and OFFS, CYCLE, RTO. -/
def Sys2Proof.Machine.specCrd (s : State) (n : Nat) : Word :=
  let t := s.slot s.cur
  match n with
  | 0 => if isCtl s.cur then 0 else t.actid
  | 1 => if isCtl s.cur then 0 else t.actln
  | 2 => t.fcs
  | 3 => BitVec.ofNat 64 (t.frames.length * 2 ^ 16 + t.frame * 2 ^ 8 + t.offs)
  | 4 => BitVec.ofNat 64 s.cycle
  | _ => t.rto

/-- `crd` writes X(D) with the register; `cwr` writes, sets or clears FCS in its bits [9:4] and [1:0] and RTO in its bits [31:0], a value below 16
as 16; a write of the others is ignored. A flag of FCS that was clear and is set also sets its sticky flag in the cluster of a compute core; that a
flag written as 1 over 1 does not is the model's choice, log entry 103 (R51, R53, R123). -/
def Sys2Proof.Machine.Claim.ControlRegisters : Prop :=
  (∀ (e : Enc) (s t : State), ready 0x29 e s → e.imm32 < 6 → writeX s.cur e.d (specCrd s e.imm32) s = .ok ((), t) →
    exec (.crd e) s = .next (completed e s.cur .next t)) ∧
  (∀ (e : Enc) (s s1 : State) (a : Word), ready 0x2A e s → bound e s → e.imm32 < 6 → e.v ≤ 2 → readX s.cur e.a s = .ok (a, s1) →
    let old := specCrd s e.imm32
    let w := if e.v = 0 then a else if e.v = 1 then old ||| a else old &&& ~~~a
    let n := max 16 (w.extractLsb' 0 32).toNat
    let u := s1.modSlot s.cur (fun t => { t with fcs := w &&& 0x3F3 })
    let set : BitVec 6 := ((w &&& 0x3F3) &&& ~~~old).extractLsb' 4 6
    (e.imm32 = 2 → exec (.cwr e) s = .next (completed e s.cur .next (if isCtl s.cur = true ∨ set = 0 then u
      else u.modCluster (clusterOf s.cur) (fun c => { c with sticky := c.sticky ||| set })))) ∧
    (e.imm32 = 5 → exec (.cwr e) s = .next (completed e s.cur .next (s1.modSlot s.cur (fun t => { t with rto := BitVec.ofNat 64 n })))) ∧
    (e.imm32 ≠ 2 → e.imm32 ≠ 5 → exec (.cwr e) s = .next (completed e s.cur .next s1)))

/-! ### Class 2: channels, streams and messages -/

/-- `tagal` allocates the lowest free tag of the group copy's space on the core to the act's launch and writes its route word, or all ones when the core
holds 1,024; `tagal.free` of a tag of the launch frees it, unbinds its channel and discards its parked packets, and of another tag raises TAG
(R126). -/
def Sys2Proof.Machine.Claim.RouteTags : Prop :=
  (∀ (e : Enc) (s t : State), ready 0x4B e s → let x := s.slot s.cur
    (1024 ≤ (s.core (coreOf s.cur)).tags.length → writeX s.cur e.d (BitVec.allOnes 64) s = .ok ((), t) →
      exec (.tagal e) s = .next (completed e s.cur .next t)) ∧
    (∀ n, n ≤ 1024 → tagOf s (coreOf s.cur) x.ginst n = none → (∀ m, m < n → tagOf s (coreOf s.cur) x.ginst m ≠ none) →
      (s.core (coreOf s.cur)).tags.length < 1024 →
      writeX s.cur e.d (BitVec.ofNat 64 (x.vcore * 2 ^ 16 + n)) (s.modCore (coreOf s.cur) (fun c => { c with
        tags := c.tags ++ [{ ginst := x.ginst, tag := n, launch := x.launch.getD 0 }] })) = .ok ((), t) →
      exec (.tagal e) s = .next (completed e s.cur .next t))) ∧
  (∀ (e : Enc) (s : State) (a : Word), ready 0x4B e s → readX s.cur e.a s = .ok (a, s) →
    let x := s.slot s.cur
    let n := (a.extractLsb' 0 16).toNat
    (ownsTag s s.cur n = false → exec (.tagalFree e) s = .next (faulted s.cur Cause.tag 0 none s)) ∧
    (ownsTag s s.cur n = true → ∃ t, exec (.tagalFree e) s = .next t ∧ tagOf t (coreOf s.cur) x.ginst n = none ∧
      (∀ k ∈ (t.core (coreOf s.cur)).parking, ¬ (k.ginst = x.ginst ∧ k.tag = n)) ∧
      (∀ p q, boundAt s (coreOf s.cur) x.ginst n = some (p, q) → ((t.slot p).chan q).kind = .unbound) ∧
      (∀ m, m ≠ n → tagOf t (coreOf s.cur) x.ginst m = tagOf s (coreOf s.cur) x.ginst m)))

/-- The word a `qbind` names: X(A), or the own core with TAG (R127). -/
def Sys2Proof.Machine.bindsWord (e : Enc) (s : State) (w : Nat) : Prop :=
  (e.a = .none → w = (s.slot s.cur).vcore * 2 ^ 16 + e.imm32 % 2 ^ 16) ∧ (∀ n, e.a = .reg n → w = ((s.slot s.cur).x n).toNat) ∧
  (e.a = .none ∨ ∃ n, e.a = .reg n)

/-- `qbind.in`, `qbind.out`, `qbind.hnd` and `qbind.un` (R127): a channel already bound raises CHANNEL; a tag that is not the launch's, or is bound,
raises TAG; a route outside the group copy raises ROUTE. Otherwise the channel receives for the tag, with the packets parked for it first; sends on the
route; the tag gets its handler; or the channel becomes unbound. On a control core q7 stays bound (R338). -/
def Sys2Proof.Machine.Claim.ChannelBindings : Prop :=
  (∀ (e : Enc) (s : State) (q : Fin 8) (w : Nat), ready 0x40 e s → e.d = .chan q → bindsWord e s w →
    let x := s.slot s.cur
    let c := coreOf s.cur
    let n := w % 2 ^ 16
    let mine := fun (k : Parked) => k.ginst == x.ginst && k.tag == n
    let free := (x.chan q).kind = .unbound
    let ok := ownsTag s s.cur n = true ∧ boundAt s c x.ginst n = none
    (¬ free → exec (.qbindIn e) s = .next (faulted s.cur Cause.channel 0 none s)) ∧
    (free → ¬ ok → exec (.qbindIn e) s = .next (faulted s.cur Cause.tag 0 none s)) ∧
    (free → ok → ∃ t, exec (.qbindIn e) s = .next t ∧ t.mem = s.mem ∧ t.net = s.net ∧
      (let y := (t.slot s.cur).chan q
       y = { kind := .input, tag := n, entries := (((s.core c).parking.filter mine).take 8).map (fun k => k.data), times := y.times } ∧
       y.arrivals = (((s.core c).parking.filter mine).take 8).map (fun k => k.at_)) ∧
      (t.core c).parking.filter mine = ((s.core c).parking.filter mine).drop 8 ∧
      (t.core c).parking.filter (fun k => !mine k) = (s.core c).parking.filter (fun k => !mine k) ∧
      (t.slot s.cur).pc = nextOf e x.pc)) ∧
  (∀ (e : Enc) (s : State) (q : Fin 8) (w : Nat), ready 0x40 e s → e.d = .chan q → bindsWord e s w →
    let x := s.slot s.cur
    let route := w / 2 ^ 37 = 0 ∧ destOf s x.ginst (w / 2 ^ 16 % 2 ^ 21) ≠ none
    ((x.chan q).kind ≠ .unbound → exec (.qbindOut e) s = .next (faulted s.cur Cause.channel 0 none s)) ∧
    ((x.chan q).kind = .unbound → ¬ route → exec (.qbindOut e) s = .next (faulted s.cur Cause.route 0 none s)) ∧
    ((x.chan q).kind = .unbound → route → exec (.qbindOut e) s = .next (completed e s.cur .next
      (s.modSlot s.cur (fun t => t.setChan q { kind := .output, tag := w % 2 ^ 16, route := w }))))) ∧
  (∀ (e : Enc) (s : State) (w : Nat) (b : Word), ready 0x40 e s → bindsWord e s w → readX s.cur e.b s = .ok (b, s) →
    let x := s.slot s.cur
    let c := coreOf s.cur
    let n := w % 2 ^ 16
    let ok := ownsTag s s.cur n = true ∧ (∀ g, tagOf s c x.ginst n = some g → g.handler = none) ∧
      b.toNat < (s.obj (s.launch (x.launch.getD 0)).objKey).handlers.length
    (¬ ok → exec (.qbindHnd e) s = .next (faulted s.cur Cause.tag 0 none s)) ∧
    (ok → ∃ t, exec (.qbindHnd e) s = .next t ∧ t.mem = s.mem ∧ (∀ g, tagOf s c x.ginst n = some g → tagOf t c x.ginst n = some { g with handler := some b.toNat }))) ∧
  (∀ (e : Enc) (s : State) (q : Fin 8), ready 0x40 e s → e.d = .chan q →
    (isCtl s.cur = true ∧ q = 7 → exec (.qbindUn e) s = .next (faulted s.cur Cause.channel 0 none s)) ∧
    (¬ (isCtl s.cur = true ∧ q = 7) → ∃ t, exec (.qbindUn e) s = .next t ∧ t.mem = s.mem ∧ t.net = s.net ∧ ((t.slot s.cur).chan q).kind = .unbound ∧
      (∀ j, j ≠ q → (t.slot s.cur).chan j = (s.slot s.cur).chan j) ∧
      (isCtl s.cur = false → ((s.slot s.cur).chan q).kind = .input →
        (t.core (coreOf s.cur)).parking.map (fun k => k.data) =
          ((s.slot s.cur).chan q).entries ++ (s.core (coreOf s.cur)).parking.map (fun k => k.data))))

/-- `qput` appends one entry: X(A) with its upper half zero, V(A), or the head entry of a channel; `qget` moves the head entry and `qpeek` copies it
to V(D) or, bits [63:0], to X(D); `qstat` reports tag, kind and count (R128). -/
def Sys2Proof.Machine.Claim.ChannelInstructions : Prop :=
  (∀ (e : Enc) (s s1 t : State) (q : Fin 8) (v : Vec), ready 0x41 e s → bound e s → e.d = .chan q →
    (∀ r, e.a = .chan r → chanHead s.cur r true s = .ok (v, s1)) →
    ((∀ r, e.a ≠ .chan r) → e.v = 1 → readV s.cur e.a s = .ok (v, s1)) →
    ((∀ r, e.a ≠ .chan r) → e.v ≠ 1 → ∃ a, readX s.cur e.a s = .ok (a, s1) ∧ v = a.setWidth 128) →
    chanPut s.cur q v s1 = .ok ((), t) → exec (.qput e) s = .next (completed e s.cur .next t)) ∧
  (∀ (e : Enc) (s s1 t : State) (q : Fin 8) (v : Vec) (take : Bool), ready (if take then 0x42 else 0x43) e s → bound e s → e.a = .chan q →
    chanHead s.cur q take s = .ok (v, s1) →
    (e.v = 1 → writeV s.cur e.d v s1 = .ok ((), t)) → (e.v ≠ 1 → writeX s.cur e.d (v.setWidth 64) s1 = .ok ((), t)) →
    exec (if take then .qget e else .qpeek e) s = .next (completed e s.cur .next t)) ∧
  (∀ (p q : Nat) (s : State) (v : Vec) (r : List Vec), ((s.slot p).chan q).kind = .input → ((s.slot p).chan q).entries = v :: r →
    ∃ t, chanHead p q false s = .ok (v, t) ∧ t.slots = s.slots ∧ t.mem = s.mem) ∧
  (∀ (e : Enc) (s t : State) (q : Fin 8) (w : Word), ready 0x44 e s → e.a = .chan q →
    let c := (s.slot s.cur).chan q
    w = (match c.kind with
      | .unbound => 0
      | .input => BitVec.ofNat 64 (c.tag * 2 ^ 16 + 0x10 + c.entries.length)
      | .output => BitVec.ofNat 64 (c.tag * 2 ^ 16 + 0x20 + (outItems s s.cur q).length)) →
    writeX s.cur e.d w s = .ok ((), t) → exec (.qstat e) s = .next (completed e s.cur .next t))

/-- `sset` loads a descriptor that passes the checks of R130 with all indices 0, raises MISALIGN for an address that is no multiple of 64 and STREAM for
a bad descriptor; `sadv` advances by vectors and `sadv.rst` sets the indices to 0, leaving a cleared stream cleared (R130, R132). -/
def Sys2Proof.Machine.Claim.StreamRegisters : Prop :=
  (∀ (e : Enc) (s s1 : State) (n : Fin 4) (a : Word) (b : List Byte), ready 0x45 e s → e.d = .strm n → readX s.cur e.a s = .ok (a, s) →
    (a.toNat % 64 ≠ 0 → exec (.sset e) s = .next (faulted s.cur (Cause.misalign + 1) a none s)) ∧
    (a.toNat % 64 = 0 → loadBytes s.cur a.toNat 64 s = .ok (b, s1) →
      (sdescOk b = false → exec (.sset e) s = .next (faulted s.cur Cause.stream 0 none s)) ∧
      (sdescOk b = true → exec (.sset e) s = .next (completed e s.cur .next
        (s1.modSlot s.cur (fun t => t.setStrm n { valid := true, desc := b, idx := [0, 0, 0, 0, 0] })))))) ∧
  (∀ (e : Enc) (s : State) (n : Fin 4) (k : Nat), ready 0x46 e s → e.d = .strm n →
    (∀ v, e.ext = .imm32 v → k = v.toNat) → ((∀ v, e.ext ≠ .imm32 v) → ∃ a : Word, readX s.cur e.a s = .ok (a, s) ∧ k = a.toNat) →
    let x := (s.slot s.cur).strm n
    let d := SDesc.ofBytes x.desc
    exec (.sadv e) s = .next (completed e s.cur .next (s.modSlot s.cur (fun t => t.setStrm n
      (if x.valid then { x with idx := d.indices (min (d.position x.idx + k * d.perVector) d.total) } else x))))) ∧
  (∀ (e : Enc) (s : State) (n : Fin 4), ready 0x46 e s → e.d = .strm n →
    exec (.sadvRst e) s = .next (completed e s.cur .next (s.modSlot s.cur (fun t => t.setStrm n { t.strm n with idx := [0, 0, 0, 0, 0] }))))

/-- The index of dimension `k` of the element at a position in index order (R131): i0 runs fastest. -/
def Sys2Proof.Machine.specIndex (d : SDesc) (n k : Nat) : Nat := n / ((List.range k).map (fun j => d.extent.getD j 0)).foldl (· * ·) 1 % d.extent.getD k 0

/-- The address of the element at a position (R131): BASE + Σ i(d) × STRIDE(d); in row mode BASE + 16 × i0 + 256 × Σ over d ≥ 1 of i(d) × STRIDE(d). -/
def Sys2Proof.Machine.specElement (d : SDesc) (n : Nat) : Nat :=
  (((d.base : Int) + ((List.range d.ndim).map (fun k =>
    (specIndex d n k : Int) * (if rowMode d.fmt then (if k = 0 then 16 else 256 * d.stride.getD k 0) else d.stride.getD k 0))).foldl (· + ·) 0) % 2 ^ 64).toNat

/-- A stream as a source and a destination (R131): with no element left it raises STREAM. As a source it gives its next elements in index order, element j of the
vector as a load of its size at its address gives it, the missing lanes zero; as a destination it stores lane j of the vector at the address of element j, the remaining
elements alone; either way the stream advances by one vector. -/
def Sys2Proof.Machine.Claim.StreamOperands : Prop :=
  ∀ (p : Nat) (n : Fin 4) (s : State), let x := (s.slot p).strm n
    let d := SDesc.ofBytes x.desc
    let pos := d.position x.idx
    let count := min d.perVector (d.total - pos)
    let size := d.accessBytes
    ((x.valid = false ∨ d.total ≤ pos) → readV p (.strm n) s = .error (.fault Cause.stream 0 none) ∧
      ∀ v, writeV p (.strm n) v s = .error (.fault Cause.stream 0 none)) ∧
    (∀ (v : Vec) (t : State), readV p (.strm n) s = .ok (v, t) →
      (t.slot p).strm n = x.advance 1 ∧ t.net = s.net ∧ (t.slot p).xg = (s.slot p).xg ∧ (t.slot p).win = (s.slot p).win ∧ (t.slot p).v = (s.slot p).v) ∧
    (x.valid = true → pos < d.total → (∀ j, j < count → specElement d (pos + j) % size = 0) →
      (∀ (parts : List (List Byte)) (s1 : State), (∀ b ∈ parts, b.length = size) →
        (List.range count).mapM (fun j => loadPiece p .load true (specElement d (pos + j)) size) s = .ok (parts, s1) →
        ∃ v, readV p (.strm n) s = .ok (v, s1.modSlot p (fun t => t.setStrm n ((t.strm n).advance 1))) ∧
          (∀ j, j < count → (v.extractLsb' (8 * size * j) (8 * size)).toNat = ofLe (parts.getD j [])) ∧
          (∀ j, count ≤ j → j < d.perVector → (v.extractLsb' (8 * size * j) (8 * size)).toNat = 0)) ∧
      (∀ (v : Vec) (s1 : State),
        (List.range count).forM (fun j => storePiece p (specElement d (pos + j)) (leBytes size (v.extractLsb' (8 * size * j) (8 * size)).toNat) false) s = .ok ((), s1) →
        writeV p (.strm n) v s = .ok ((), s1.modSlot p (fun t => t.setStrm n ((t.strm n).advance 1)))))

/-- `send` (R133, R134): MSG for a bad header, TAG for a reply tag that is not the launch's, DENIED for a target CLPERM forbids; otherwise, with room in the
outbound buffer and the reply count below 255, the message enters the network as a command, and the count rises by one when a reply is asked for. One to a
Juggler takes the next ticket of its group copy, and waits where eight other counters stand (R313); one to the matrix unit raises MATRIX-OP in a row-handler act, waits
for another launch's ownership and for a pending `tcfg.set`, and takes the unit's next ticket (R247, R251, R262). -/
def Sys2Proof.Machine.Claim.SendCommand : Prop :=
  ∀ (e : Enc) (s : State) (n : Fin 32), ready 0x47 e s → e.a = .reg n →
    let x := s.slot s.cur
    let b := msgBytes x n
    let wait := ¬ (outbound s s.cur < 4 ∧ (msgReply b = true → x.replies ≠ 255))
    (headerOk b = false → exec (.send e) s = .next (faulted s.cur Cause.msg 0 none s)) ∧
    (headerOk b = true → msgReply b = true → ownsTag s s.cur (msgRtag b) = false → exec (.send e) s = .next (faulted s.cur Cause.tag 0 none s)) ∧
    (headerOk b = true → (msgReply b = true → ownsTag s s.cur (msgRtag b) = true) → targetPermitted s s.cur b = false →
      exec (.send e) s = .next (faulted s.cur Cause.denied 0 none s)) ∧
    (headerOk b = true → (msgReply b = true → ownsTag s s.cur (msgRtag b) = true) → targetPermitted s s.cur b = true →
      let sent := fun (ticket : Nat) (t : State) => ∃ i : NetItem, t.net = s.net ++ [i] ∧ i.kind = .command ∧ i.data = b ∧
        i.src = s.cur ∧ i.isMessage = true ∧ i.after = pendingIds s s.cur ∧ i.ticket = ticket ∧
        i.dst = (if msgTgt b = 4 then clusterOf s.cur else if msgTgt b = 5 then dieOf s.cur else coreOf s.cur) ∧
        (t.slot s.cur).replies = x.replies + (if msgReply b then 1 else 0) ∧ (t.slot s.cur).pc = nextOf e x.pc ∧ t.mem = s.mem
      let counts := ((jugRelease (coreOf s.cur) s).core (coreOf s.cur)).jug.counts
      let counter := KV.find? counts x.ginst ≠ none ∨ counts.length < 8
      let k := (KV.get {} counts x.ginst).next
      let mx := (s.core (coreOf s.cur)).mx
      let claim := mx.owner = none ∨ (mx.owner = some (x.launch.getD 0) ∧ ∀ q, mx.tcfgPending = some q → q = s.cur)
      let m := if mx.owner = none then 0 else mx.next
      (msgTgt b ≠ 1 → wait → exec (.send e) s = .next (notReady e s.cur s)) ∧
      (msgTgt b ≠ 1 → msgTgt b ≠ 3 → ¬ wait → ∃ t, exec (.send e) s = .next t ∧ sent 0 t) ∧
      (msgTgt b = 3 → ¬ counter → exec (.send e) s = .next (notReady e s.cur s)) ∧
      (msgTgt b = 3 → ¬ wait → counter → ∃ t, exec (.send e) s = .next t ∧ sent k t ∧ (t.slot s.cur).jqLast = some k ∧
        (KV.get {} (t.core (coreOf s.cur)).jug.counts x.ginst).next = (k + 1) % 2 ^ 32) ∧
      (msgTgt b = 1 → x.origin = 3 → exec (.send e) s = .next (faulted s.cur Cause.matrixOp 0 none s)) ∧
      (msgTgt b = 1 → x.origin ≠ 3 → ¬ claim ∨ wait → exec (.send e) s = .next (notReady e s.cur s)) ∧
      (msgTgt b = 1 → x.origin ≠ 3 → claim → ¬ wait → ∃ t, exec (.send e) s = .next t ∧ sent m t ∧ (t.slot s.cur).mxLast = some m ∧
        (t.core (coreOf s.cur)).mx.owner = some (x.launch.getD 0) ∧ (t.core (coreOf s.cur)).mx.next = (m + 1) % 2 ^ 32))

/-- `sendc` (R136): MSG for a header value it does not allow, ROUTE for a route outside the group copy, DENIED by CLPERM; with room, a code message of
payload bytes 0 to 47 whose act gets bytes 40 to 47 in x1 enters the network. -/
def Sys2Proof.Machine.Claim.SendCode : Prop :=
  ∀ (e : Enc) (s : State) (n : Fin 32), ready 0x48 e s → e.a = .reg n →
    let x := s.slot s.cur
    let b := msgBytes x n
    let sel := fieldAt b 8 8
    let header := fieldAt b 0 2 = 0 ∧ fieldAt b 2 2 = 0xFFFF ∧ fieldAt b 4 4 = 0 ∧ fieldAt b 8 2 = 0
    let route := sel / 2 ^ 37 = 0 ∧ destOf s x.ginst (sel / 2 ^ 16 % 2 ^ 21) ≠ none
    let dst := (destOf s x.ginst (sel / 2 ^ 16 % 2 ^ 21)).getD 0
    (¬ header → exec (.sendc e) s = .next (faulted s.cur Cause.msg 0 none s)) ∧
    (header → ¬ route → exec (.sendc e) s = .next (faulted s.cur Cause.route 0 none s)) ∧
    (header → route → permitsCore s s.cur dst = false → exec (.sendc e) s = .next (faulted s.cur Cause.denied 0 none s)) ∧
    (header → route → permitsCore s s.cur dst = true → 4 ≤ outbound s s.cur → exec (.sendc e) s = .next (notReady e s.cur s)) ∧
    (header → route → permitsCore s s.cur dst = true → outbound s s.cur < 4 → ∃ i : NetItem,
      exec (.sendc e) s = .next (completed e s.cur .next { s with net := s.net ++ [i] }) ∧ i.kind = .code ∧ i.dst = dst ∧ i.data = b.drop 16 ∧
      i.regs.headD 0 = BitVec.ofNat 64 (fieldAt b 56 8) ∧ i.launch = x.launch.getD 0)

/-- `rget` and `rput` (R138, R139): a bad target word raises ROUTE; a full remote-access buffer refuses the request, which is retried after 64 cycles with
the operands it has; otherwise the request enters the target core's buffer, or goes to the other device that holds the core, and the act waits; once the answer is there the instruction completes: status 0 gives the value and a true predicate, another status a false
one, and the status in X(D) of `rget`. -/
def Sys2Proof.Machine.Claim.RemoteAccess : Prop :=
  (∀ (e : Enc) (s s1 s2 : State) (a v : Word) (st : Nat), ready 0x49 e s → readX s.cur e.a s = .ok (a, s) → (s.slot s.cur).wait = .remoteDone st v →
    writeX s.cur e.d (if st = 0 then v else BitVec.ofNat 64 st) s = .ok ((), s1) → writeP s.cur e.c (decide (st = 0)) s1 = .ok ((), s2) →
    exec (.rget e) s = .next (completed e s.cur .next s2)) ∧
  (∀ (e : Enc) (s s1 : State) (a c v : Word) (st : Nat), ready 0x4A e s → readX s.cur e.a s = .ok (a, s) → readX s.cur e.c s = .ok (c, s) →
    (s.slot s.cur).wait = .remoteDone st v → writeP s.cur e.d (decide (st = 0)) s = .ok ((), s1) →
    exec (.rput e) s = .next (completed e s.cur .next s1)) ∧
  (∀ (e : Enc) (s : State) (a : Word), ready 0x49 e s → readX s.cur e.a s = .ok (a, s) → (s.slot s.cur).wait = .none →
    let x := s.slot s.cur
    let route := a.toNat / 2 ^ 37 = 0 ∧ destOf s x.ginst (a.toNat / 2 ^ 16 % 2 ^ 21) ≠ none ∧ a.toNat % 2 ^ 16 < 4
    let core := (destOf s x.ginst (a.toNat / 2 ^ 16 % 2 ^ 21)).getD 0
    let target := core + a.toNat % 4
    (¬ route → exec (.rget e) s = .next (faulted s.cur Cause.route 0 none s)) ∧
    (route → core < farBase → 4 ≤ (s.core (coreOf target)).remote.length → ∃ (t : State) (r : Remote), exec (.rget e) s = .next t ∧
      (t.slot s.cur).wait = .remoteAsk r (s.cycle + 64) ∧ r.target = target ∧ r.spec = e.imm32 ∧ (t.slot s.cur).pc = x.pc ∧ t.cores = s.cores) ∧
    (route → core < farBase → (s.core (coreOf target)).remote.length < 4 → ∃ (t : State) (r : Remote), exec (.rget e) s = .next t ∧
      (t.core (coreOf target)).remote = (s.core (coreOf target)).remote ++ [r] ∧
      r.from_ = s.cur ∧ r.put = false ∧ r.target = target ∧ r.spec = e.imm32 ∧ r.since = s.cycle ∧
      (t.slot s.cur).wait = .remote target s.cycle ∧ (t.slot s.cur).pc = x.pc) ∧
    (route → farBase ≤ core → ∃ t, exec (.rget e) s = .next t ∧ (t.slot s.cur).wait = .remote core s.cycle ∧ (t.slot s.cur).pc = x.pc ∧ t.cores = s.cores)) ∧
  (∀ (e : Enc) (s : State) (a c : Word), ready 0x4A e s → readX s.cur e.a s = .ok (a, s) → readX s.cur e.c s = .ok (c, s) → (s.slot s.cur).wait = .none →
    let x := s.slot s.cur
    let route := a.toNat / 2 ^ 37 = 0 ∧ destOf s x.ginst (a.toNat / 2 ^ 16 % 2 ^ 21) ≠ none ∧ a.toNat % 2 ^ 16 < 4
    let core := (destOf s x.ginst (a.toNat / 2 ^ 16 % 2 ^ 21)).getD 0
    let target := core + a.toNat % 4
    (¬ route → exec (.rput e) s = .next (faulted s.cur Cause.route 0 none s)) ∧
    (route → core < farBase → 4 ≤ (s.core (coreOf target)).remote.length → ∃ (t : State) (r : Remote), exec (.rput e) s = .next t ∧
      (t.slot s.cur).wait = .remoteAsk r (s.cycle + 64) ∧ r.target = target ∧ r.put = true ∧ r.spec = e.imm32 ∧ r.value = c ∧ (t.slot s.cur).pc = x.pc ∧ t.cores = s.cores) ∧
    (route → core < farBase → (s.core (coreOf target)).remote.length < 4 → ∃ (t : State) (r : Remote), exec (.rput e) s = .next t ∧
      (t.core (coreOf target)).remote = (s.core (coreOf target)).remote ++ [r] ∧
      r.from_ = s.cur ∧ r.put = true ∧ r.value = c ∧ r.target = target ∧ r.spec = e.imm32 ∧ r.since = s.cycle ∧
      (t.slot s.cur).wait = .remote target s.cycle ∧ (t.slot s.cur).pc = x.pc) ∧
    (route → farBase ≤ core → ∃ t, exec (.rput e) s = .next t ∧ (t.slot s.cur).wait = .remote core s.cycle ∧ (t.slot s.cur).pc = x.pc ∧ t.cores = s.cores))

/-! ### Class 3: memory -/

/-- Width of the element of a load or store: 2 bits for `.p2`, else that of TYP (R171). -/
def Sys2Proof.Machine.specWidth (e : Enc) : Nat := if e.v = 1 then 2 else fmtWidth e.t

/-- Address and bit offset of R171: an element index below 8 bits, a byte offset otherwise. -/
def Sys2Proof.Machine.specAddr (w : Nat) (a b : Word) : Nat × Nat :=
  if w < 8 then ((a + BitVec.ofInt 64 ((b.toInt * (w : Int)).fdiv 8)).toNat, ((b.toInt * (w : Int)).fmod 8).toNat)
  else ((a + b).toNat, 0)

/-- The state after an acquire variant of scope VAR - 8 (R170, R402). -/
def Sys2Proof.Machine.afterAcquire (e : Enc) (s : State) : State := if 8 ≤ e.v then acquired s.cur (e.v - 8) s else s

/-- `ld` and `lds` (R171, R173): MISALIGN for an address that is no multiple of the access; otherwise, once the bytes can be loaded, the element of its
bit offset is sign-extended for TYP 0x00 to 0x03 and 0x08, else zero-extended, into X(D), or the 16 bytes go to V(D). -/
def Sys2Proof.Machine.Claim.LoadsComplete : Prop :=
  (∀ (e : Enc) (s s1 s2 t : State) (a b : Word) (l : List Byte), ready 0x60 e s → bound e s → reads e s a b s1 →
    let w := specWidth e
    let va := (specAddr w a b).1
    let n := max (w / 8) 1
    let v : Int := ((ofLe l / 2 ^ (specAddr w a b).2 : Nat) : Int)
    (va % n ≠ 0 → exec (.ld e) s = .next (faulted s.cur (Cause.misalign + 1) (BitVec.ofNat 64 va) none s)) ∧
    (va % n = 0 → loadPiece s.cur .load (decide (e.v < 8)) va n e.hint.toNat s1 = .ok (l, s2) → s2.cur = s.cur → 0 < w → w ≤ 64 →
      writeX s.cur e.d (specResult (decide (e.t < 4) || e.t == 8) w v) (afterAcquire e s2) = .ok ((), t) →
      exec (.ld e) s = .next (completed e s.cur .next t))) ∧
  (∀ (e : Enc) (s s1 s2 t : State) (a b : Word) (l : List Byte), ready 0x73 e s → bound e s → reads e s a b s1 →
    let va := (a + b).toNat
    (va % 16 ≠ 0 → exec (.lds e) s = .next (faulted s.cur (Cause.misalign + 1) (a + b) none s)) ∧
    (va % 16 = 0 → loadPiece s.cur .load (decide (e.v < 8)) va 16 e.hint.toNat s1 = .ok (l, s2) → s2.cur = s.cur →
      writeV s.cur e.d (vecOfBytes l) (afterAcquire e s2) = .ok ((), t) →
      exec (.lds e) s = .next (completed e s.cur .next t)))

/-- `st` and `sts` (R171 to R173): MISALIGN for an address that is no multiple of the access; otherwise the low bits of X(C), or the 16 bytes of V(C), are
stored at the address, a release in a release variant; below 8 bits it is a sub-byte store of its own bits. -/
def Sys2Proof.Machine.Claim.StoresComplete : Prop :=
  (∀ (e : Enc) (s s1 s2 t : State) (a b c : Word), ready 0x61 e s → bound e s → reads e s a b s1 → readX s.cur e.c s1 = .ok (c, s2) →
    let w := specWidth e
    let va := (specAddr w a b).1
    let n := w / 8
    (8 ≤ w → va % n ≠ 0 → exec (.st e) s = .next (faulted s.cur (Cause.misalign + 2) (BitVec.ofNat 64 va) none s)) ∧
    (8 ≤ w → va % n = 0 → storePiece s.cur va (leBytes n (c.toNat % 2 ^ w)) (decide (8 ≤ e.v)) e.hint.toNat s2 = .ok ((), t) →
      exec (.st e) s = .next (completed e s.cur .next t)) ∧
    (w < 8 → subByteStore s.cur va (specAddr w a b).2 w (c.toNat % 2 ^ w) e.hint.toNat s2 = .ok ((), t) →
      exec (.st e) s = .next (completed e s.cur .next t))) ∧
  (∀ (e : Enc) (s s1 s2 t : State) (a b : Word) (c : Vec), ready 0x62 e s → bound e s → reads e s a b s1 →
    let va := (a + b).toNat
    (va % 16 ≠ 0 → exec (.sts e) s = .next (faulted s.cur (Cause.misalign + 2) (a + b) none s)) ∧
    (va % 16 = 0 → readV s.cur e.c s1 = .ok (c, s2) → storePiece s.cur va (bytesOfVec c) (decide (8 ≤ e.v)) e.hint.toNat s2 = .ok ((), t) →
      exec (.sts e) s = .next (completed e s.cur .next t)))

/-- A scratchpad address of slot `p` (R168, R12): its range lies in one valid window, outside the spill areas; the core reached is `core`, and the first byte's
location `loc`. -/
def Sys2Proof.Machine.spadHome (p : Nat) (s : State) (va n core loc : Nat) : Prop :=
  ∃ v off, placeOf s (whoSlot s p) va n = .spad v core off ∧ inSpill (whoSlot s p) off = false ∧
    loc = if isCtl p then spadLoc core off else spadAt s (s.slot p).ginst v core off

/-- Bytes of memory outside the `n` at `loc` are the same. -/
def Sys2Proof.Machine.sameOutside (loc n : Nat) (s t : State) : Prop := ∀ a, a < loc ∨ loc + n ≤ a → Memory.read t.mem a = Memory.read s.mem a

/-- No load of the slot that has not returned reads these bytes (R205). -/
def Sys2Proof.Machine.noLoadOf (s : State) (p loc n : Nat) : Prop := ∀ x ∈ (s.slot p).loads, overlaps x.loc x.bytes loc n = false

/-- All of the machine but what slot `p` keeps of the order of its accesses (R205; log 131) is the same. -/
def Sys2Proof.Machine.sameButOrder (p : Nat) (s t : State) : Prop := t = { s with slots := t.slots } ∧ t.slot p = { s.slot p with order := (t.slot p).order } ∧ ∀ j, j ≠ p → t.slot j = s.slot j

/-- A scratchpad load within one granule (R171 to R173): with no poison, no byte of a cell table there (R220), no operation other than a plain store of the slot pending on the
bytes, none of its loads under way on them, and none of its buffered stores that its address depends on (R205), a plain one gives the bytes of memory as the slot's own buffered
stores leave them, and changes nothing but the slot's record of its order; an acquire does so once none of those stores touches the bytes. -/
def Sys2Proof.Machine.Claim.ScratchpadLoad : Prop :=
  ∀ (p va n core loc hint : Nat) (plain : Bool) (s : State), spadHome p s va n core loc → loc % 16 + n ≤ 16 → (∀ i, i < n → viewByte s (loc + i) = none) →
    (∀ x ∈ (s.slot p).store, (plain = false ∨ ∀ b, x.op ≠ .bytes b) → x.touches loc n = false) → noLoadOf s p loc n → poisonIn s loc n = none → heldByOther s (some p) loc = false →
    (s.slot p).past (s.slot p).order.addr = true →
    ∃ t, loadPiece p .load plain va n hint s = .ok ((List.range n).map (fun i => forwardByte (s.slot p).store (loc + i) (Memory.read s.mem (loc + i))), t) ∧ sameButOrder p s t

/-- A load within one granule from global memory (R171 to R173, R195): once the access has been checked and its place found, in HBM of this device and outside every region,
with no poison, no byte of a cell table there, no hold of another slot, no load of the slot under way on the bytes or, where its page is SC, on another SC page, and no buffered operation of the slot that must be performed first,
it gives the bytes at the place: those of a lease that the core holds and a plain load of a default page may return, else those of memory, under the page's key; over them those of
the slot's own buffered stores. No register changes, and no byte of memory. -/
def Sys2Proof.Machine.Claim.GlobalLoad : Prop :=
  ∀ (p va n hint : Nat) (plain : Bool) (q : Phys) (s s1 : State), resolve (whoSlot s p) .load Need.read va n false s = .ok (q, s1) → isHbm q.loc = true → q.spill = false →
    q.loc % 16 + n ≤ 16 → s1.slot p = s.slot p → (s.slot p).region = none → (∀ i, i < n → viewByte s1 (q.loc + i) = none) →
    (∀ x ∈ (s.slot p).store, (plain = false ∨ q.sc = true ∨ ∀ b, x.op ≠ .bytes b) → x.touches q.loc n = false) →
    (∀ x ∈ (s.slot p).loads, overlaps x.loc x.bytes q.loc n = false ∧ (q.sc && x.sc) = false) → (s.slot p).past (s.slot p).order.addr = true →
    (∀ g, poisoned s1 g = false) → heldByOther s1 (some p) q.loc = false →
    let lease := if plain && !q.sc then leased s1 (coreOf p) q n (s.slot p).order.addr.since else none
    (lease = none ∨ ∃ b, lease = some (b, none) ∧ b.length = n) →
    let base := match lease with | some (b, _) => b | none => homeRead s1 q.loc n q.key
    ∃ t, loadPiece p .load plain va n hint s = .ok ((List.range n).map (fun i => forwardByte (s.slot p).store (q.loc + i) (base.getD i 0)), t) ∧
      t.mem = s1.mem ∧ t.fe = s1.fe ∧ t.net = s1.net ∧ t.slot p = { s.slot p with order := (t.slot p).order }

/-- A plain scratchpad store (R172, R173) enters the slot's store buffer as the newest entry: the location of its address, its bytes, the slot's act and launch, and the
buffered entries that it depends on (R205); no byte of memory and no register changes until it is performed. -/
def Sys2Proof.Machine.Claim.ScratchpadStore : Prop :=
  ∀ (p va core loc hint : Nat) (b : List Byte) (rel : Bool) (s : State), spadHome p s va b.length core loc → poisonPart s loc b.length = none →
    noLoadOf s p loc b.length → (s.slot p).region = none →
    ∃ (x : PStore) (o : Order), storePiece p va b rel hint s =
        .ok ((), { s with nextId := s.nextId + 1, slots := KV.set s.slots p { s.slot p with store := (s.slot p).store ++ [x], order := o } }) ∧
      x.loc = loc ∧ x.op = .bytes b ∧ x.key = none ∧ x.release = rel ∧ x.launch = (s.slot p).launch ∧ x.act = (s.slot p).act ∧ x.hint = hint ∧
      x.after = (s.slot p).order.srcs.ids

/-- A write that the directory and the machine-check ring do not join: to a scratchpad, or while no granule is poisoned (R430, R432). -/
def Sys2Proof.Machine.quietAt (s : State) (loc : Nat) : Prop := isSpad loc = true ∨ ∀ g, poisoned s g = false

/-- STORE_PERFORM (R172, R173): a buffered plain store without a memory key whose bytes no earlier entry touches, with no earlier entry where it is a release or that it depends on (R205), and no
hold of another slot on its line, is performed: its bytes are in memory at its location, every other byte of memory is as before, and the entry has left the
buffer. One that would write a poisoned granule in part is not performed, and on a compute core it ends its launch with POISON (R430). -/
def Sys2Proof.Machine.Claim.StorePerformed : Prop :=
  ∀ (p i : Nat) (s : State) (x : PStore) (b : List Byte), s.board.fatal = false → (s.slot p).store[i]? = some x → x.op = .bytes b → x.key = none →
    (∀ y ∈ (s.slot p).store.take i, x.release = false ∧ y.touches x.loc b.length = false ∧ y.id ∉ x.after) → heldByOther s (some p) x.loc = false →
    (poisonPart s x.loc b.length = none → quietAt s x.loc →
      ∃ t, exec (.storePerform p i) s = .next t ∧ (∀ k, (h : k < b.length) → Memory.read t.mem (x.loc + k) = b[k]) ∧ sameOutside x.loc b.length s t ∧
        (t.slot p).store = (s.slot p).store.eraseIdx i ∧ t.fe = s.fe ∧ t.net = s.net) ∧
    (∀ l lk, poisonPart s x.loc b.length = some l → isCtl p = false → x.launch = some lk → (s.launch lk).st.terminal = false → (s.launch lk).fault = none →
      ∃ t f, exec (.storePerform p i) s = .next t ∧ (t.launch lk).fault = some f ∧ f.cause = Cause.poison + 2 ∧
        (∀ k, k < b.length → isSpad x.loc = true → Memory.read t.mem (x.loc + k) = Memory.read s.mem (x.loc + k)))

/-- A sub-byte store performed at its home, in a granule without poison, changes only its own bits of its byte (R172). -/
def Sys2Proof.Machine.Claim.SubBytePerformed : Prop :=
  ∀ (p i off w v : Nat) (s : State) (x : PStore), s.board.fatal = false → (s.slot p).store[i]? = some x → x.op = .bits off w v → x.key = none →
    off + w ≤ 8 → 0 < w → (∀ y ∈ (s.slot p).store.take i, x.release = false ∧ y.touches x.loc 1 = false ∧ y.id ∉ x.after) → heldByOther s (some p) x.loc = false →
    poisonPart s x.loc 1 = none → quietAt s x.loc →
    ∃ t, exec (.storePerform p i) s = .next t ∧ sameOutside x.loc 1 s t ∧ ∀ k, k < 8 →
      (Memory.read t.mem x.loc).getLsbD k = if off ≤ k ∧ k < off + w then v.testBit (k - off) else (Memory.read s.mem x.loc).getLsbD k

/-- The checks of an access before its home (R168, R169): an address in no valid window raises SPACE; at level M a global address in populated memory is its
physical address; elsewhere one without a translation raises TRANSLATION and one whose leaf does not permit the access raises PROTECTION. -/
def Sys2Proof.Machine.Claim.AccessChecks : Prop :=
  ∀ (w : Who) (k : AKind) (need : Need) (va n : Nat) (s : State),
    (placeOf s w va n = .nowhere → resolve w k need va n false s = .error (.fault (Cause.space + k.code) (BitVec.ofNat 64 va) none)) ∧
    (globalBase ≤ va → w.level = some 2 → populated s (va - globalBase) = true → populated s (va - globalBase + n - 1) = true →
      resolve w k need va n false s = .ok ({ loc := va - globalBase }, s)) ∧
    (globalBase ≤ va → w.level ≠ some 2 → 2 ^ 48 ≤ va ∨ leafFor s w va need.w = none →
      resolve w k need va n false s = .error (.fault (Cause.translation + k.code) (BitVec.ofNat 64 va) none)) ∧
    (∀ l, globalBase ≤ va → w.level ≠ some 2 → va < 2 ^ 48 → leafFor s w va need.w = some l → leafPermits s w need l.pte = false →
      resolve w k need va n false s = .error (.fault (Cause.protection + k.code) (BitVec.ofNat 64 va) none))

/-- `ldfe`, `stfe`, `setfe.empty` and `setfe.full` (R174 to R176), outside a region at an aligned scratchpad address: `ldfe` of a full granule gives its bytes, `.clr`
emptying it; `stfe` of an empty granule writes it and sets it full; an `ldfe` of an empty granule and an `stfe` of a full one enter the controller's wait list, or are refused by a full one and
retried after 64 cycles; when a bit changes, the controller performs a waiter whose condition then holds: an `ldfe` when the granule becomes full, an `stfe` when it becomes empty. `setfe` sets a
range of bits; with X(B) = 0 it has no effect, and that it then does not ask for the window of X(A) is the model's choice, as is that its bits go through the store buffer behind the
slot's own buffered writes of its granules: log entry 132. -/
def Obligations.FullEmpty : Prop :=
  (∀ (e : Enc) (s s1 t : State) (a b : Word) (core loc : Nat), ready 0x63 e s → bound e s → reads e s a b s1 → (s1.slot s.cur).region = none →
    (a + b).toNat % 16 = 0 → spadHome s.cur s1 (a + b).toNat 16 core loc → (∀ x ∈ (s1.slot s.cur).store, x.touches loc 16 = false) → feOf s1 loc = true →
    (s1.slot s.cur).wait = .none → poisonIn s1 loc 16 = none →
    let s2 := if e.v = 1 then changeFe s1 loc false else s1
    writeV s.cur e.d (vecOfBytes (Memory.readN s1.mem loc 16)) (acquired s.cur (tierOf s2 (s2.slot s.cur)) s2) = .ok ((), t) →
    exec (.ldfe e) s = .next (completed e s.cur .next t)) ∧
  (∀ (e : Enc) (s s1 s2 t : State) (a b : Word) (c : Vec) (core loc : Nat), ready 0x64 e s → bound e s → reads e s a b s1 → (s1.slot s.cur).region = none →
    (a + b).toNat % 16 = 0 → spadHome s.cur s1 (a + b).toNat 16 core loc → (s1.slot s.cur).store = [] → feOf s1 loc = false →
    (s1.slot s.cur).wait = .none → readV s.cur e.c s1 = .ok (c, s2) →
    let s3 := serve loc (setFe (homeStore (some (coreOf s.cur)) { loc := loc } (bytesOfVec c) s1) loc true)
    takeV s.cur e.c (s3.modSlot s.cur (Slot.wrote loc 16 s3.cycle)) = .ok ((), t) →
    exec (.stfe e) s = .next (completed e s.cur .next t)) ∧
  (∀ (e : Enc) (s s1 : State) (a b : Word) (core loc : Nat), ready 0x63 e s → bound e s → reads e s a b s1 → (s1.slot s.cur).region = none →
    (a + b).toNat % 16 = 0 → spadHome s.cur s1 (a + b).toNat 16 core loc → (∀ x ∈ (s1.slot s.cur).store, x.touches loc 16 = false) → feOf s1 loc = false →
    (s1.slot s.cur).wait = .none →
    let listed := (s1.slots.filter (fun x => match x.2.wait with | .listed _ _ c _ => c == core | _ => false)).length
    ∃ t k, exec (.ldfe e) s = .next t ∧ (t.slot s.cur).pc = (s1.slot s.cur).pc ∧
      (t.slot s.cur).wait = (if listed < 16 then .listed k loc core (.ldfe (decide (e.v = 1))) else .refused (s.cycle + 64))) ∧
  (∀ (e : Enc) (s s1 s2 : State) (a b : Word) (c : Vec) (core loc : Nat), ready 0x64 e s → bound e s → reads e s a b s1 → (s1.slot s.cur).region = none →
    (a + b).toNat % 16 = 0 → spadHome s.cur s1 (a + b).toNat 16 core loc → (s1.slot s.cur).store = [] → feOf s1 loc = true →
    (s1.slot s.cur).wait = .none → readV s.cur e.c s1 = .ok (c, s2) →
    let listed := (s1.slots.filter (fun x => match x.2.wait with | .listed _ _ c _ => c == core | _ => false)).length
    ∃ t k, exec (.stfe e) s = .next t ∧ (t.slot s.cur).pc = (s1.slot s.cur).pc ∧ t.mem = s1.mem ∧
      (t.slot s.cur).wait = (if listed < 16 then .listed k loc core (.stfe c) else .refused (s.cycle + 64))) ∧
  (∀ (s : State) (p k loc : Nat) (c : Vec), waiters s loc = [(k, p, .stfe c)] → isSpad loc = true → feOf s loc = true →
    let t := changeFe s loc false
    (t.slot p).wait = .served loc 0 false ∧ feOf t loc = true ∧ (∀ i, (h : i < 16) → Memory.read t.mem (loc + i) = (bytesOfVec c).getD i 0) ∧ sameOutside loc 16 s t) ∧
  (∀ (full : Bool) (e : Enc) (s : State) (a : Word), ready 0x65 e s → readX s.cur e.a s = .ok (a, s) → readX s.cur e.b s = .ok (0, s) → (s.slot s.cur).region = none →
    a.toNat % 16 = 0 → exec (if full then .setfeFull e else .setfeEmpty e) s = .next (completed e s.cur .next s)) ∧
  (∀ (s : State) (p k loc : Nat) (clr : Bool), waiters s loc = [(k, p, .ldfe clr)] → feOf s loc = false → poisonIn s loc 16 = none →
    let t := changeFe s loc true
    (t.slot p).wait = .served loc (vecOfBytes (Memory.readN s.mem loc 16)) false ∧ feOf t loc = !clr ∧ t.mem = s.mem) ∧
  (∀ (full : Bool) (e : Enc) (s : State) (a b : Word) (v core off : Nat), ready 0x65 e s → readX s.cur e.a s = .ok (a, s) → readX s.cur e.b s = .ok (b, s) →
    (s.slot s.cur).region = none → a.toNat % 16 = 0 → b ≠ 0 → (∀ loc, waiters s loc = []) → placeOf s (whoSlot s s.cur) a.toNat (16 * b.toNat) = .spad v core off →
    let at_ := fun (i : Nat) => if isCtl s.cur then spadLoc core (off + 16 * i) else spadAt s (s.slot s.cur).ginst v core (off + 16 * i)
    ((∀ x ∈ (s.slot s.cur).store, ∀ i, i < b.toNat → x.touches (at_ i) 16 = false) →
      ∃ t, exec (if full then .setfeFull e else .setfeEmpty e) s = .next t ∧ t.mem = s.mem ∧ (∀ i, i < b.toNat → feOf t (at_ i) = full) ∧
        (∀ g, (∀ i, i < b.toNat → at_ i / 16 ≠ g) → KV.get false t.fe g = KV.get false s.fe g)) ∧
    ((∃ x ∈ (s.slot s.cur).store, ∃ i, i < b.toNat ∧ x.touches (at_ i) 16 = true) →
      ∃ t xs, exec (if full then .setfeFull e else .setfeEmpty e) s = .next t ∧ t.mem = s.mem ∧ t.fe = s.fe ∧ (t.slot s.cur).store = (s.slot s.cur).store ++ xs ∧
        xs.map (fun (x : PStore) => x.loc) = (List.range b.toNat).map at_ ∧ ∀ x ∈ xs, x.op = .fe full))

/-- new of R177 for integer TYPs: bitwise operations and `.swap` on the low w bits, sum, minimum and maximum of the values, modulo 2^w. -/
def Sys2Proof.Machine.specAtomic (sg : Bool) (w op : Nat) (old v : BitVec w) : BitVec w :=
  match op with
  | 0 => old + v | 1 => old &&& v | 2 => old ||| v | 3 => old ^^^ v
  | 4 => if (if sg then old.sle v else old.ule v) then old else v
  | 5 => if (if sg then old.sle v else old.ule v) then v else old
  | _ => v

/-- The value `amo` writes for an integer TYP (R177). -/
def Sys2Proof.Machine.Claim.AtomicValues : Prop :=
  ∀ (op t old : Nat) (v : Word), t < 8 → op < 7 → old < 2 ^ fmtWidth t →
    atomicNew op t old v.toNat = ((specAtomic (decide (t < 4)) (fmtWidth t) op (BitVec.ofNat _ old) (v.setWidth _)).toNat, Fl.none)

/-- An atomic at a scratchpad home, outside a region (R177, R178), once the buffered stores that its operands depend on are performed (R205): it gives the old bytes, and
memory holds the new ones at the location and is otherwise unchanged; of the slot only the record of its order changes. -/
def Sys2Proof.Machine.Claim.AtomicAtHome : Prop :=
  ∀ (p va n core loc : Nat) (f : List Byte → List Byte) (s : State), spadHome p s va n core loc → (∀ i, i < n → viewByte s (loc + i) = none) →
    (∀ x ∈ (s.slot p).store, x.touches loc n = false) → (s.slot p).past (s.slot p).order.srcs = true → poisonIn s loc n = none → heldByOther s (some p) loc = false →
    let old := Memory.readN s.mem loc n
    ∃ t, atomicNow p va n f s = .ok (old, t) ∧ (∀ k, (h : k < (f old).length) → Memory.read t.mem (loc + k) = (f old)[k]) ∧
      sameOutside loc (f old).length s t ∧ t.slot p = { s.slot p with order := (t.slot p).order } ∧ (∀ j, j ≠ p → t.slot j = s.slot j) ∧ t.net = s.net ∧ t.fe = s.fe

/-- `amo`, `cas` and `chunk` complete (R177, R188): with the new value computed from the old one at the home, and the old value, or start + cnt * 2^32, in X(D); an
`amo` of an integer TYP, or an f32 `.swap`, with no D, not `.ar`, outside regions and SC pages is posted in the store buffer, once no poison stands at its address. An address that is not aligned to the width of the access raises MISALIGN, of
each of the three. -/
def Sys2Proof.Machine.Claim.AtomicsComplete : Prop :=
  (∀ (e : Enc) (s s1 s2 t : State) (a b : Word), ready 0x66 e s → bound e s → readX s.cur e.a s = .ok (a, s1) → readX s.cur e.b s1 = .ok (b, s2) →
    let n := fmtWidth e.t / 8
    let new := fun (o : List Byte) => atomicNew (e.v % 8) e.t (ofLe o) b.toNat
    (a.toNat % n ≠ 0 → exec (.amo e) s = .next (faulted s.cur (Cause.misalign + 3) a none s)) ∧
    (∀ s3 s4 old, a.toNat % n = 0 → amoPosted s.cur a.toNat n e s2 = .ok (none, s3) → (8 ≤ e.v → (s3.slot s.cur).store = []) →
      atomicNow s.cur a.toNat n (fun o => leBytes n (new o).1) s3 = .ok (old, s4) →
      let s5 := raiseFlags s.cur (new old).2 s4
      writeX s.cur e.d (extend (decide (e.t < 4)) (fmtWidth e.t) (ofLe old)) (if 8 ≤ e.v then acquired s.cur (tierOf s5 (s5.slot s.cur)) s5 else s5) = .ok ((), t) →
      e.t ≠ 8 → exec (.amo e) s = .next (completed e s.cur .next t)) ∧
    (∀ s3 q, a.toNat % n = 0 → amoPosted s.cur a.toNat n e s2 = .ok (some q, s3) → poisonIn s3 q.loc n = none →
      bufferStore s.cur a.toNat q (.atomic (e.v % 8) e.t b) false 0 s3 = .ok ((), t) → exec (.amo e) s = .next (completed e s.cur .next t))) ∧
  (∀ (e : Enc) (s s1 s2 s3 s4 t : State) (a b c : Word) (old : List Byte), ready 0x67 e s → bound e s → readX s.cur e.a s = .ok (a, s1) →
    readX s.cur e.b s1 = .ok (b, s2) → readX s.cur e.c s2 = .ok (c, s3) →
    let w := fmtWidth e.t
    let n := w / 8
    (a.toNat % n ≠ 0 → exec (.cas e) s = .next (faulted s.cur (Cause.misalign + 3) a none s)) ∧
    (a.toNat % n = 0 → (e.v = 1 → (s3.slot s.cur).store = []) →
    atomicNow s.cur a.toNat n (fun o => if ofLe o = b.toNat % 2 ^ w then leBytes n (c.toNat % 2 ^ w) else o) s3 = .ok (old, s4) →
    writeX s.cur e.d (extend (decide (e.t < 4)) w (ofLe old)) (if e.v = 1 then acquired s.cur (tierOf s4 (s4.slot s.cur)) s4 else s4) = .ok ((), t) →
    e.t ≠ 8 → exec (.cas e) s = .next (completed e s.cur .next t))) ∧
  (∀ (e : Enc) (s : State) (a : Word), ready 0x71 e s → readX s.cur e.a s = .ok (a, s) → (s.slot s.cur).region = none → a.toNat % 16 ≠ 0 →
    exec (.chunk e) s = .next (faulted s.cur (Cause.misalign + 3) a none s)) ∧
  (∀ (e : Enc) (s s1 t : State) (a : Word) (old : List Byte), ready 0x71 e s → readX s.cur e.a s = .ok (a, s) → (s.slot s.cur).region = none → a.toNat % 16 = 0 →
    let next := fun (o : List Byte) => fieldAt o 0 4
    let cnt := fun (o : List Byte) =>
      let rem := fieldAt o 4 4 - fieldAt o 0 4
      let p := max (fieldAt o 12 2) 1
      min rem (max (max (fieldAt o 8 4) 1) ((rem + (2 * p - 1)) / (2 * p)))
    atomicNow s.cur a.toNat 16 (fun o => patch o 0 (leBytes 4 (next o + cnt o))) s = .ok (old, s1) →
    writeX s.cur e.d (BitVec.ofNat 64 (next old + cnt old * 2 ^ 32)) s1 = .ok ((), t) →
    exec (.chunk e) s = .next (completed e s.cur .next t))

/-- `hold`, `rel`, `fence` and `pref` (R179, R180, R189, R190): a `hold` of a global line that no other slot holds or awaits grants it until max(1, min(opB, 4096))
cycles from now; a scratchpad address raises SPACE, a second hold HOLD; `rel`, after the slot's stores, ends a hold of its line and leaves another alone; `fence`
completes once every buffered store of the slot is performed, and is not ready before; `pref` of any address completes, and changes no slot, no message, no full-empty
bit, and no byte of memory but for the record of a poisoned line that makes room, and in a region nothing at all; all others raise REGION-OP there. -/
def Obligations.HoldsAndFences : Prop :=
  (∀ (e : Enc) (s : State) (a b : Word), ready 0x68 e s → readX s.cur e.a s = .ok (a, s) → readB s.cur e s = .ok (b, s) →
    let w := whoSlot s s.cur
    ((s.slot s.cur).region ≠ none → exec (.hold e) s = .next (faulted s.cur Cause.regionOp 0 none s)) ∧
    (∀ v c off, (s.slot s.cur).region = none → placeOf s w a.toNat 1 = .spad v c off →
      exec (.hold e) s = .next (faulted s.cur (Cause.space + 3) a none s)) ∧
    (∀ q s1, (s.slot s.cur).region = none → (∀ v c off, placeOf s w a.toNat 1 ≠ .spad v c off) → resolve w .atomic Need.both a.toNat 1 false s = .ok (q, s1) →
      (holdsNow s s.cur = true → exec (.hold e) s = .next (faulted s.cur Cause.hold 0 none s)) ∧
      (holdsNow s s.cur = false → heldByOther s (some s.cur) q.loc = false → (∀ m, earlierHold s s.cur (q.loc / 64) m = false) →
        let s2 := dropLine (coreOf s.cur) q.loc (s1.modSlot s.cur (fun t => { t with hold := some (q.loc / 64, s.cycle + max 1 (min b.toNat 4096)) }))
        exec (.hold e) s = .next (completed e s.cur .next (acquired s.cur (tierOf s2 (s2.slot s.cur)) s2))))) ∧
  (∀ (e : Enc) (s s1 : State) (a : Word) (q : Phys), ready 0x69 e s → readX s.cur e.a s = .ok (a, s) → (s.slot s.cur).region = none → (s.slot s.cur).store = [] →
    resolve (whoSlot s s.cur) .atomic Need.both a.toNat 1 false s = .ok (q, s1) →
    ∃ t : State, exec (.rel e) s = .next t ∧ t.mem = s1.mem ∧ (t.slot s.cur).pc = nextOf e (s1.slot s.cur).pc ∧
      (∀ c, (s1.slot s.cur).hold = some (q.loc / 64, c) → (t.slot s.cur).hold = none) ∧
      ((∀ c, (s1.slot s.cur).hold ≠ some (q.loc / 64, c)) → (t.slot s.cur).hold = (s1.slot s.cur).hold)) ∧
  (∀ (e : Enc) (s : State), ready 0x6A e s →
    ((s.slot s.cur).region ≠ none → exec (.fence e) s = .next (faulted s.cur Cause.regionOp 0 none s)) ∧
    ((s.slot s.cur).region = none → (s.slot s.cur).store ≠ [] → exec (.fence e) s = .next (notReady e s.cur s)) ∧
    ((s.slot s.cur).region = none → (s.slot s.cur).store = [] → exec (.fence e) s = .next (completed e s.cur .next (acquired s.cur e.v s)))) ∧
  (∀ (e : Enc) (s : State) (a : Word), ready 0x69 e s → readX s.cur e.a s = .ok (a, s) → (s.slot s.cur).region ≠ none →
    exec (.rel e) s = .next (faulted s.cur Cause.regionOp 0 none s)) ∧
  (∀ (e : Enc) (s s1 : State) (a b : Word), ready 0x72 e s → reads e s a b s1 → ∃ t, exec (.pref e) s = .next (completed e s.cur .next t) ∧
    t.slots = s1.slots ∧ t.net = s1.net ∧ t.fe = s1.fe ∧ t.versions = s1.versions ∧ t.launches = s1.launches ∧ t.poison = s1.poison ∧
    ((∀ g, poisoned s1 g = false) → t.mem = s1.mem) ∧ ((s1.slot s.cur).region ≠ none → t = s1))

/-- Not in an ordinary region: a formula act's own region is none here (R190, R228; log entry 102). -/
def Sys2Proof.Machine.notInRegion (s : State) : Prop := (s.slot s.cur).region = none ∨ (s.slot s.cur).formula ≠ none

/-- `bara` and `barw` (R181): REGION-OP in an ordinary region; SCOPE above the launch's tier; BARRIER for a reserved bit, N = 0, or an N that differs from the phase's first; the N-th arrival of a
phase advances it, and the token holds phase, scope and ID; `barw` waits while (C - phase) mod 2^32 is 0 or at least 2^31. -/
def Sys2Proof.Machine.Claim.SplitPhaseBarriers : Prop :=
  (∀ (bar : Bool) (e : Enc) (s : State) (a : Word), ready (if bar then 0x6B else 0x6C) e s → readX s.cur e.a s = .ok (a, s) → ¬ notInRegion s →
    exec (if bar then .bara e else .barw e) s = .next (faulted s.cur Cause.regionOp 0 none s)) ∧
  (∀ (e : Enc) (s : State) (a : Word), ready 0x6B e s → readX s.cur e.a s = .ok (a, s) → notInRegion s →
    let x := s.slot s.cur
    let n := a.toNat / 2 ^ 16 % 2 ^ 16
    let id := a.toNat % 16
    let k := barrierKey e.v x.vcore id
    let b := KV.get {} (s.ginst x.ginst).barriers k
    let fields := a.toNat / 16 % 2 ^ 12 = 0 ∧ a.toNat / 2 ^ 32 = 0 ∧ n ≠ 0
    let b1 : Barrier := if b.count + 1 = n then { phase := (b.phase + 1) % 2 ^ 32, n := 0, count := 0 } else { phase := b.phase, n := n, count := b.count + 1 }
    (tierOf s x < e.v → exec (.bara e) s = .next (faulted s.cur Cause.scope 0 none s)) ∧
    (e.v ≤ tierOf s x → ¬ fields → exec (.bara e) s = .next (faulted s.cur Cause.barrier 0 none s)) ∧
    (e.v ≤ tierOf s x → fields → x.store = [] → b.count ≠ 0 ∧ b.n ≠ n → exec (.bara e) s = .next (faulted s.cur Cause.barrier 0 none s)) ∧
    (∀ t, e.v ≤ tierOf s x → fields → x.store = [] → ¬ (b.count ≠ 0 ∧ b.n ≠ n) →
      writeX s.cur e.d (BitVec.ofNat 64 (b.phase * 2 ^ 32 + e.v * 16 + id)) (s.modGinst x.ginst (fun g => { g with barriers := KV.set g.barriers k b1 })) = .ok ((), t) →
      exec (.bara e) s = .next (completed e s.cur .next t))) ∧
  (∀ (e : Enc) (s : State) (a : Word), ready 0x6C e s → readX s.cur e.a s = .ok (a, s) → notInRegion s →
    let x := s.slot s.cur
    let scope := a.toNat / 16 % 8
    let d := ((KV.get {} (s.ginst x.ginst).barriers (barrierKey scope x.vcore (a.toNat % 16))).phase + 2 ^ 32 - a.toNat / 2 ^ 32) % 2 ^ 32
    let token := a.toNat / 2 ^ 7 % 2 ^ 25 = 0 ∧ scope ≤ tierOf s x
    (¬ token → exec (.barw e) s = .next (faulted s.cur Cause.barrier 0 none s)) ∧
    (token → d = 0 ∨ 2 ^ 31 ≤ d → exec (.barw e) s = .next (notReady e s.cur s)) ∧
    (token → d ≠ 0 → d < 2 ^ 31 → exec (.barw e) s = .next (completed e s.cur .next (acquired s.cur scope s))))

/-- `cbarm.set`, `cbarm.add` and `cbwait` (R184 to R186): at an aligned scratchpad address outside a region, `cbarm` completes into the store buffer; `cbwait`
completes when EXPECT is at most ARRIVED on an object that was armed, with P(D) the complement of OVER, and otherwise enters the controller's wait list, or is refused by
a full one. -/
def Sys2Proof.Machine.Claim.ByteCountingBarriers : Prop :=
  (∀ (add : Bool) (e : Enc) (s s1 s2 t : State) (a b c : Word) (core loc : Nat) (o : List Byte), ready 0x6E e s → bound e s → reads e s a b s1 →
    readX s.cur e.c s1 = .ok (c, s2) → (s2.slot s.cur).region = none → a.toNat % 16 = 0 → spadHome s.cur s2 a.toNat 16 core loc →
    (add = true → homeLoad (some s.cur) .store a.toNat { loc := loc } 16 s2 = .ok (o, s2)) →
    let base := if add then expectAfter (s2.slot s.cur).store loc (fieldAt o 0 6) else 0
    (2 ^ 48 ≤ base + b.toNat → exec (if add then .cbarmAdd e else .cbarmSet e) s = .next (faulted s.cur Cause.cbar 0 none s)) ∧
    (base + b.toNat < 2 ^ 48 →
      bufferStore s.cur a.toNat { loc := loc } (.cbarm add b.toNat (if e.c = .none then 0xFFFF else c.toNat % 2 ^ 16) (vcoreCorev (s2.slot s.cur).vcore)) false 0 s2 = .ok ((), t) →
      exec (if add then .cbarmAdd e else .cbarmSet e) s = .next (completed e s.cur .next t))) ∧
  (∀ (e : Enc) (s : State) (a : Word) (core loc : Nat), ready 0x6F e s → readX s.cur e.a s = .ok (a, s) → (s.slot s.cur).region = none →
    a.toNat % 16 = 0 → spadHome s.cur s a.toNat 16 core loc → (∀ x ∈ (s.slot s.cur).store, x.touches loc 16 = false) →
    (s.slot s.cur).wait = .none → poisonIn s loc 16 = none →
    let o := Memory.readN s.mem loc 16
    let expect := fieldAt o 0 6
    let arrived := fieldAt o 6 6
    let flags := fieldAt o 12 1 % 4
    let met := expect ≤ arrived ∧ ¬ (expect = 0 ∧ arrived = 0 ∧ flags = 0)
    let listed := (s.slots.filter (fun x => match x.2.wait with | .listed _ _ c _ => c == core | _ => false)).length
    (¬ met → ∃ t k, exec (.cbwait e) s = .next t ∧ (t.slot s.cur).pc = (s.slot s.cur).pc ∧ t.mem = s.mem ∧
      (t.slot s.cur).wait = (if listed < 16 then .listed k loc core .cbwait else .refused (s.cycle + 64))) ∧
    (∀ t, met → writeP s.cur e.d (decide (flags < 2)) (acquired s.cur (tierOf s (s.slot s.cur)) s) = .ok ((), t) →
      exec (.cbwait e) s = .next (completed e s.cur .next t)))

/-- The object after an operation (R185, R186): `.set` starts the count again, and writes the whole granule, which clears its poison (R430); `.add` adds to EXPECT and clears FIRED when ARRIVED is below it; a credit adds to ARRIVED,
which stops at 2^48 - 1, and sets OVER when it passes EXPECT; then the object fires when it is armed, not FIRED, and ARRIVED is at least EXPECT; and the controller
serves the object's waiters. -/
def Sys2Proof.Machine.Claim.ByteCountingObject : Prop :=
  ∀ (l g v va loc : Nat) (s : State), let c := Cbar.ofBytes (homeRead s loc 16 none)
    let fires := fun (c : Cbar) => c.fired = false ∧ c.expect ≤ c.arrived
    let fired := fun (c : Cbar) => if c.fired = false ∧ c.expect ≤ c.arrived then { c with fired := true } else c
    (∀ n, let a := min (c.arrived + n) (2 ^ 48 - 1)
      let c1 : Cbar := { c with arrived := a, overrun := c.overrun || decide (c.expect < a) }
      let c2 := if 0 < c.expect then fired c1 else c1
      ∃ net : List NetItem, creditAt l g v va loc n s = serve loc { homePoke s loc none c2.bytes with net := s.net ++ net } ∧
        (net ≠ [] ↔ 0 < c.expect ∧ fires c1 ∧ c.rtag ≠ 0xFFFF)) ∧
    (∀ n rt acore, let c1 : Cbar := { expect := n, arrived := 0, fired := false, overrun := false, acore := acore, rtag := rt }
      ∃ net : List NetItem, cbarmAt l g v va loc false n rt acore s =
        serve loc { homePoke (clearPoison s loc 16) loc none (fired c1).bytes with net := s.net ++ net } ∧
        (net ≠ [] ↔ n = 0 ∧ rt ≠ 0xFFFF)) ∧
    (∀ n rt acore, let c1 : Cbar := { c with expect := c.expect + n, rtag := rt, acore := acore, fired := c.fired && !decide (c.arrived < c.expect + n) }
      ∃ net : List NetItem, cbarmAt l g v va loc true n rt acore s = serve loc { homePoke s loc none (fired c1).bytes with net := s.net ++ net } ∧
        (net ≠ [] ↔ fires c1 ∧ rt ≠ 0xFFFF))

/-- `copy` sends the command of R444 to its core's queue at the copy engine when the cluster permits it and the outbound buffer has room, and is not ready without
room (R182). -/
def Sys2Proof.Machine.Claim.CopySends : Prop :=
  ∀ (e : Enc) (s : State) (a b c x : Word), ready 0x6D e s → readX s.cur e.a s = .ok (a, s) → readX s.cur e.b s = .ok (b, s) → readX s.cur e.c s = .ok (c, s) →
    readX s.cur e.e s = .ok (x, s) →
    ((s.slot s.cur).region ≠ none → exec (.copy e) s = .next (faulted s.cur Cause.regionOp 0 none s)) ∧
    ((s.slot s.cur).region = none → (s.cluster (clusterOf s.cur)).clperm.getLsbD 1 = false → exec (.copy e) s = .next (faulted s.cur Cause.denied 0 none s)) ∧
    ((s.slot s.cur).region = none → (s.cluster (clusterOf s.cur)).clperm.getLsbD 1 = true → 4 ≤ outbound s s.cur →
      exec (.copy e) s = .next (notReady e s.cur s)) ∧
    ((s.slot s.cur).region = none → (s.cluster (clusterOf s.cur)).clperm.getLsbD 1 = true → outbound s s.cur < 4 → ∃ i : NetItem,
      exec (.copy e) s = .next (completed e s.cur .next { s with net := s.net ++ [i] }) ∧ i.kind = .command ∧ i.dst = coreOf s.cur ∧
      fieldAt i.data 0 2 = 0x0102 ∧ fieldAt i.data 2 2 = 0xFFFF ∧ fieldAt i.data 16 8 = a.toNat ∧ fieldAt i.data 24 8 = b.toNat ∧ fieldAt i.data 32 8 = c.toNat ∧
      fieldAt i.data 40 8 = (if e.e = .none then 2 ^ 64 - 1 else x.toNat) ∧ fieldAt i.data 48 1 = e.hint.toNat ∧ i.data.length = 64)

/-- `qfence` (R187): QSET 0 completes at once; with any named queue full, or a named matrix unit owned by another launch, it is not ready; with room in all of them it takes a named
matrix unit without an owner, places one join entry in each queue in the same step, and completes; a `qfence.wait` whose joins have left every queue completes. -/
def Sys2Proof.Machine.Claim.QueueFences : Prop :=
  ∀ (e : Enc) (s : State), ready 0x70 e s → (s.slot s.cur).region = none →
    let q := e.imm32 % 16
    (∀ id, (s.slot s.cur).wait = .join id → joinQueues s id = [] → exec (.qfence e) s = .next (completed e s.cur .next (acquired s.cur (tierOf s (s.slot s.cur)) s))) ∧
    ((∀ id, (s.slot s.cur).wait ≠ .join id) → q = 0 → exec (.qfence e) s = .next (completed e s.cur .next s)) ∧
    ((∀ id, (s.slot s.cur).wait ≠ .join id) →
      let l := (s.slot s.cur).launch.getD 0
      let named := q.testBit 0 = true
      let s0 := if named ∧ (s.core (coreOf s.cur)).mx.owner = none then s.modCore (coreOf s.cur) (fun c => { c with mx := { owner := some l } }) else s
      let mine := (s0.core (coreOf s.cur)).mx.owner = some l
      (named → ¬ mine → exec (.qfence e) s = .next (notReady e s.cur s)) ∧
      ((named → mine) → (∃ j ∈ joinSet s.cur q, j.depth ≤ (j.get s0).length) → exec (.qfence e) s = .next (notReady e s.cur s)) ∧
      ((named → mine) → e.v = 0 → (∀ j ∈ joinSet s.cur q, placeReady s0 s.cur j = true) →
        (q.testBit 2 = true → let c := (jugRelease (coreOf s.cur) s).core (coreOf s.cur)
          KV.find? c.jug.counts (s.slot s.cur).ginst ≠ none ∨ c.jug.counts.length < 8) →
        ∃ t, exec (.qfence e) s = .next t ∧ (t.slot s.cur).pc = nextOf e (s.slot s.cur).pc ∧ t.mem = s.mem ∧ (named → (t.core (coreOf s.cur)).mx.owner = some l) ∧
          ∀ j ∈ joinSet s.cur q, ∃ x, j.get t = j.get s0 ++ [x] ∧ x.join = some s.nextId))

/-! ### Classes 4 and 5: lanes -/

/-- Lane i of a vector under a format of width w: bits w * i + w - 1 to w * i (R142). -/
def Sys2Proof.Machine.specLane (w i : Nat) (v : Vec) : BitVec w := v.extractLsb' (w * i) w

/-- An f32 pattern of a function applied to each lane. -/
def Sys2Proof.Machine.eachLane (t : Nat) (f : Nat → Nat → Nat → Nat × Fl) (a b c : Vec) : Vec × Fl := mapLanes t f a b c

/-- The vector instructions of one shape, V(D) from V(A), V(B) and V(C): constructor, opcode, and the value and flags by the instruction's fields and the
slot, whose FCS gives the rounding mode (R146 to R150, R152, R154, R156, R158, R159). -/
def Sys2Proof.Machine.vectorRows : List ((Enc → Instr) × Nat × (Enc → Slot → Vec → Vec → Vec → Vec × Fl)) :=
  let arith := fun (k : LaneOp) (e : Enc) (t : Slot) a b c => eachLane e.t (laneOp k e.t (e.v == 1) t.rm) a b c
  let f32 := fun (f : Nat → Nat × Fl) (e : Enc) (_ : Slot) a (_ _ : Vec) => eachLane e.t (fun x _ _ => f x) a 0 0
  let shift := fun (k : Logic) (e : Enc) (_ : Slot) a b (_ : Vec) =>
    eachLane e.t (fun x y _ => (shiftLane k e.t x (match e.ext with | .imm32 v => v.toNat | _ => y), Fl.none)) a b 0
  let bits := fun (f : Vec → Vec → Vec) (e : Enc) (_ : Slot) (a b _ : Vec) => (f a (if e.v = 1 then ~~~b else b), Fl.none)
  [(.vadd, 0x80, arith .add), (.vsub, 0x81, arith .sub), (.vmul, 0x82, arith .mul), (.vmulh, 0x83, arith .mulh), (.vfma, 0x84, arith .fma),
   (.vfms, 0x85, arith .fms), (.vmin, 0x86, arith .min), (.vmax, 0x87, arith .max), (.vabs, 0x88, arith .abs), (.vneg, 0x89, arith .neg),
   (.vand, 0x8A, bits (fun a b => a &&& b)), (.vor, 0x8B, bits (fun a b => a ||| b)), (.vxor, 0x8C, bits (fun a b => a ^^^ b)),
   (.vshl, 0x8D, shift .shl), (.vshr, 0x8E, shift .shr), (.vsra, 0x8F, shift .sra),
   (.vcmp, 0x90, fun e _ a b _ => eachLane e.t (fun x y _ => cmpLane e.v e.t x y) a b 0),
   (.vsel, 0x91, fun e _ a b c => eachLane e.t (fun x y z => (if z ≠ 0 then x else y, Fl.none)) a b c),
   (.vavg, 0x93, fun e _ a b _ => eachLane e.t (intLane (if e.v = 1 then .avgDn else .avg) e.t false) a b 0),
   (.vclz, 0x94, arith .clz), (.vpopc, 0x95, arith .popc),
   (.vrcp, 0x96, f32 rcpF32), (.vrsq, 0x97, f32 rsqF32), (.vexp2, 0x98, f32 exp2F32), (.vlog2, 0x99, f32 log2F32),
   (.vperm, 0xA2, fun _ _ a b c => (permute a b c, Fl.none)),
   (.vcvt, 0xA6, fun e t a _ _ => vcvtValue (pairOf 0xA6 e).1 (pairOf 0xA6 e).2 t.rm (e.v == 1) a),
   (.vunpk, 0xA8, fun e t a b _ => if isLb (pairOf 0xA8 e).2 then vunpkLb (pairOf 0xA8 e).2 t.rm e.v a b
      else vunpkValue (pairOf 0xA8 e).1 (pairOf 0xA8 e).2 t.rm e.v a),
   (.vscan, 0xA9, fun e t a b _ => scanVec e.v e.t t.rm a b)]

/-- Every vector instruction of that shape completes on registers, channels and streams that can be read and written now; its flags are raised as it completes
(R52, R142, R143). -/
def Obligations.VectorsComplete : Prop :=
  ∀ r ∈ vectorRows, ∀ (e : Enc) (s s1 s2 s3 t : State) (a b c : Vec), ready r.2.1 e s → bound e s →
    readV s.cur e.a s = .ok (a, s1) → readV s.cur e.b s1 = .ok (b, s2) → readV s.cur e.c s2 = .ok (c, s3) →
    let v := r.2.2 e (s3.slot s.cur) a b c
    writeV s.cur e.d v.1 (raiseFlags s.cur v.2 s3) = .ok ((), t) →
    exec (r.1 e) s = .next (completed e s.cur .next t)

/-- Lanes do not touch each other (R142, R143): lane i of a lane operation's result is the operation on lanes i of its operands, and the flags are those of all
lanes together. -/
def Sys2Proof.Machine.Claim.LanesIndependent : Prop :=
  ∀ (t : Nat) (f : Nat → Nat → Nat → Nat × Fl) (a b c : Vec), fmtWidth t ∈ [4, 8, 16, 32, 64] →
    let w := fmtWidth t
    let lane := fun i => f (specLane w i a).toNat (specLane w i b).toNat (specLane w i c).toNat
    (∀ i, i < 128 / w → specLane w i (mapLanes t f a b c).1 = BitVec.ofNat w (lane i).1) ∧
    (∀ k, k < 6 → ((mapLanes t f a b c).2.getLsbD k = true ↔ ∃ i, i < 128 / w ∧ (lane i).2.getLsbD k = true))

/-- Integer lanes (R146): sums, differences, products, minimum, maximum, negation, absolute value and the halves of products modulo 2^w, and no flag without `.sat`. -/
def Sys2Proof.Machine.Claim.IntegerLanes : Prop :=
  ∀ (t : Nat) (rm : Rm) (x y z : Nat), t < 8 → let w := fmtWidth t
    let sg := decide (t < 4)
    let a := BitVec.ofNat w x
    let b := BitVec.ofNat w y
    let le := if sg then a.sle b else a.ule b
    let eq := fun (k : LaneOp) (r : BitVec w) => laneOp k t false rm (x % 2 ^ w) (y % 2 ^ w) (z % 2 ^ w) = (r.toNat, Fl.none)
    eq .add (a + b) ∧ eq .sub (a - b) ∧ eq .mul (a * b) ∧ eq .fma (a * b + BitVec.ofNat w z) ∧ eq .fms (a * b - BitVec.ofNat w z) ∧
    eq .min (if le then a else b) ∧ eq .max (if le then b else a) ∧ eq .neg (-a) ∧ eq .abs (if sg && a.msb then -a else a) ∧
    eq .mulh (if sg then BitVec.ofInt w ((a.toInt * b.toInt).fdiv (2 ^ w)) else BitVec.ofNat w (a.toNat * b.toNat / 2 ^ w))

/-- A value that a floating-point format can hold is encoded as itself, with no flag, in every rounding mode (R39, R42, R50): decoding then encoding a pattern that
is no NaN gives the pattern. -/
def Sys2Proof.Machine.Claim.RepresentableValuesExact : Prop :=
  ∀ (f b : Nat) (rm : Rm), f ∈ [0x9, 0xA, 0xB, 0xC, 0xD] → b < 2 ^ fmtWidth f → (decodeFlt f b).isNan = false →
    encodeFlt f rm false (decodeFlt f b) = (b, Fl.none)

/-- Rounding (R50): of m * 2^e, e below the unit 2^q, the magnitude in units is one of the two neighbours; exact when nothing is lost; toward zero in RTZ; away from
zero only for the sign RUP and RDN favour; and within half a unit, ties to even, in RNE. -/
def Sys2Proof.Machine.Claim.RoundingModes : Prop :=
  ∀ (rm : Rm) (neg : Bool) (m sh : Nat) (q : Int), let r := roundTo rm neg m (q - sh) q
    (m % 2 ^ sh = 0 → r = (m / 2 ^ sh, false)) ∧
    (m % 2 ^ sh ≠ 0 → r.2 = true ∧ (r.1 = m / 2 ^ sh ∨ r.1 = m / 2 ^ sh + 1) ∧
      (rm = .rtz → r.1 = m / 2 ^ sh) ∧ (rm = .rup → (r.1 = m / 2 ^ sh + 1 ↔ neg = false)) ∧ (rm = .rdn → (r.1 = m / 2 ^ sh + 1 ↔ neg = true)) ∧
      (rm = .rne → 2 * (m % 2 ^ sh) < 2 ^ sh → r.1 = m / 2 ^ sh) ∧ (rm = .rne → 2 ^ sh < 2 * (m % 2 ^ sh) → r.1 = m / 2 ^ sh + 1) ∧
      (rm = .rne → 2 * (m % 2 ^ sh) = 2 ^ sh → r.1 % 2 = 0))

/-- A lane of a vector, counted modulo the lanes (R154). -/
def Sys2Proof.Machine.laneAt (t k : Nat) (v : Vec) : BitVec (fmtWidth t) := specLane (fmtWidth t) (k % (128 / fmtWidth t)) v

/-- The moves complete (R151, R154, R157, R160, R162): `vmov` copies or replicates; `vbcast` replicates a scalar or a lane; `vshuf` takes each lane of D from the lanes of A
and B by its control field; `vins` replaces and `vext` gives one lane; `vmask` makes lane masks; `vxfer` gives top bits, any or all; `vrot` rotates bits or lanes; `vdot`
puts the fixed-order sum in lane 0 and keeps C's lanes 1 to 3; `vpack` narrows its two or four sources; `vred` reduces to a scalar; `vrng` gives generator
words or uniforms. -/
def Sys2Proof.Machine.Claim.MovesComplete : Prop :=
  (∀ (e : Enc) (s s1 t : State) (a : Vec), ready 0xA0 e s → bound e s →
    (e.ext = .none → readV s.cur e.a s = .ok (a, s1)) → (∀ w, e.ext = .imm32 w → a = w ++ w ++ w ++ w ∧ s1 = s) → (∀ w, e.ext = .imm64 w → a = w ++ w ∧ s1 = s) →
    writeV s.cur e.d a s1 = .ok ((), t) → exec (.vmov e) s = .next (completed e s.cur .next t)) ∧
  (∀ (e : Enc) (s s1 s2 t : State) (a k : Word) (v : Vec), ready 0xA1 e s → bound e s →
    (e.v = 0 → readX s.cur e.a s = .ok (a, s2)) → (e.v ≠ 0 → readV s.cur e.a s = .ok (v, s1) ∧ readX s.cur e.b s1 = .ok (k, s2)) →
    writeV s.cur e.d (splat e.t (if e.v = 0 then a.toNat % 2 ^ fmtWidth e.t else lane e.t k.toNat v)) s2 = .ok ((), t) →
    exec (.vbcast e) s = .next (completed e s.cur .next t)) ∧
  (∀ (e : Enc) (s s1 s2 s3 t : State) (a b : Vec) (c : Nat), ready 0xA3 e s → bound e s → readV s.cur e.a s = .ok (a, s1) → readV s.cur e.b s1 = .ok (b, s2) →
    readIdx s.cur e e.c s2 = .ok (c, s3) → writeV s.cur e.d (shuffle e.t a b c) s3 = .ok ((), t) → exec (.vshuf e) s = .next (completed e s.cur .next t)) ∧
  (∀ (e : Enc) (s s1 s2 : State) (a : Word) (k : Nat) (n : Fin 32), ready 0xA4 e s → bound e s → e.d = .reg n → readX s.cur e.a s = .ok (a, s1) →
    readIdx s.cur e e.b s1 = .ok (k, s2) →
    exec (.vins e) s = .next (completed e s.cur .next (s2.modSlot s.cur (fun t => t.setV n (setLane e.t k (a.toNat % 2 ^ fmtWidth e.t) (t.vreg n)))))) ∧
  (∀ (e : Enc) (s s1 s2 t : State) (a : Vec) (k : Nat), ready 0xA5 e s → bound e s → readV s.cur e.a s = .ok (a, s1) → readIdx s.cur e e.b s1 = .ok (k, s2) →
    writeX s.cur e.d (laneWord e.t (lane e.t k a)) s2 = .ok ((), t) → exec (.vext e) s = .next (completed e s.cur .next t)) ∧
  (∀ (e : Enc) (s s1 t : State) (a : Word), ready 0xAB e s → bound e s → readX s.cur e.a s = .ok (a, s1) → writeV s.cur e.d (maskVec e.t e.v a) s1 = .ok ((), t) →
    exec (.vmask e) s = .next (completed e s.cur .next t)) ∧
  (∀ (e : Enc) (s s1 t : State) (a : Vec), ready 0xAC e s → bound e s → readV s.cur e.a s = .ok (a, s1) →
    let l := lanesOf e.t a
    (e.v = 0 → writeX s.cur e.d (BitVec.ofNat 64 (joinBits 1 (l.map (fun x => x / 2 ^ (fmtWidth e.t - 1))))) s1 = .ok ((), t)) →
    (e.v = 1 → writeP s.cur e.d (decide (∃ x ∈ l, x ≠ 0)) s1 = .ok ((), t)) → (e.v = 2 → writeP s.cur e.d (decide (∀ x ∈ l, x ≠ 0)) s1 = .ok ((), t)) → e.v ≤ 2 →
    exec (.vxfer e) s = .next (completed e s.cur .next t)) ∧
  (∀ (e : Enc) (s s1 s2 t : State) (a : Vec) (k : Nat), ready 0xAF e s → bound e s → readV s.cur e.a s = .ok (a, s1) → readIdx s.cur e e.b s1 = .ok (k, s2) →
    writeV s.cur e.d (if e.v = 0 then (mapLanes e.t (fun x _ _ => (rotBits e.t k x, Fl.none)) a 0 0).1 else rotLanes e.t k a) s2 = .ok ((), t) →
    exec (.vrot e) s = .next (completed e s.cur .next t)) ∧
  (∀ (e : Enc) (s s1 s2 s3 t : State) (a b : List Vec) (c : Vec), ready 0x92 e s → bound e s → readWide s.cur (dotVectors e.t) e.a s = .ok (a, s1) →
    readWide s.cur (dotVectors e.t) e.b s1 = .ok (b, s2) → readV s.cur e.c s2 = .ok (c, s3) →
    let r := vdotValue e.t a b (c.toNat % 2 ^ 32)
    writeV s.cur e.d (BitVec.ofNat 128 (c.toNat / 2 ^ 32 * 2 ^ 32 + r.1)) (raiseFlags s.cur r.2 s3) = .ok ((), t) →
    exec (.vdot e) s = .next (completed e s.cur .next t)) ∧
  (∀ (e : Enc) (s s1 s2 s3 s4 t : State) (a b c x : Vec), ready 0xA7 e s → bound e s → readV s.cur e.a s = .ok (a, s1) → readV s.cur e.b s1 = .ok (b, s2) →
    readV s.cur e.c s2 = .ok (c, s3) → readV s.cur e.e s3 = .ok (x, s4) →
    let f := pairOf 0xA7 e
    let l := if e.c = .none then [a, b] else [a, b, c, x]
    let rm := (s4.slot s.cur).rm
    (isLb f.1 = true → let r := vpackLb f.1 rm l
      t = (raiseFlags s.cur r.2 s4).modSlot s.cur (fun u => (u.setV (regNo e.d) r.1.1).setV (regNo e.d + 1) r.1.2)) →
    (isLb f.1 = false → let r := vpackValue f.1 f.2 rm (e.v == 1) l
      writeV s.cur e.d r.1 (raiseFlags s.cur r.2 s4) = .ok ((), t)) →
    exec (.vpack e) s = .next (completed e s.cur .next t)) ∧
  (∀ (e : Enc) (s s1 t : State) (a : Vec), ready 0xAA e s → bound e s → readV s.cur e.a s = .ok (a, s1) →
    let r := reduceLanes (redComb e.v) e.t (s1.slot s.cur).rm 4 (lanesOf e.t a)
    writeX s.cur e.d (laneWord e.t r.1) (raiseFlags s.cur r.2 s1) = .ok ((), t) → exec (.vred e) s = .next (completed e s.cur .next t)) ∧
  (∀ (e : Enc) (s s1 s2 s3 t : State) (a b c : Word), ready 0xAE e s → bound e s → readX s.cur e.a s = .ok (a, s1) → readX s.cur e.b s1 = .ok (b, s2) →
    readX s.cur e.c s2 = .ok (c, s3) →
    let g := gen a.toNat b.toNat c.toNat
    writeV s.cur e.d (ofLanes 0x6 (if e.v = 1 then g.map uniformF32 else g)) s3 = .ok ((), t) → exec (.vrng e) s = .next (completed e s.cur .next t))

/-- `draw.solo` and `draw.clus` (R163 to R165): `draw.solo` reads its descriptor and masses, raises NV for a mass that is a NaN, infinite or negative, and writes the drawn
token; `draw.clus` raises SCOPE at core tier, and completes with the token once its draw is decided. -/
def Sys2Proof.Machine.Claim.DrawsComplete : Prop :=
  (∀ (e : Enc) (s s1 s2 s3 s4 s5 t : State) (a b c x : Word) (l : Slice), ready 0xAD e s → bound e s → readX s.cur e.a s = .ok (a, s1) →
    readX s.cur e.b s1 = .ok (b, s2) → readX s.cur e.c s2 = .ok (c, s3) → readX s.cur e.e s3 = .ok (x, s4) → readSlice s.cur a.toNat s4 = .ok (l, s5) →
    writeX s.cur e.d (drawResult b.toNat c.toNat x.toNat [(l.masses, l.base)]) (raiseFlags s.cur (if l.nv then Fl.nv else 0) s5) = .ok ((), t) →
    exec (.drawSolo e) s = .next (completed e s.cur .next t)) ∧
  (∀ (e : Enc) (s : State), ready 0xAD e s → bound e s → tierOf s (s.slot s.cur) = 0 → exec (.drawClus e) s = .next (faulted s.cur Cause.scope 0 none s)) ∧
  (∀ (e : Enc) (s s1 s2 s3 s4 t : State) (a b c x tok : Word), ready 0xAD e s → bound e s → tierOf s (s.slot s.cur) ≠ 0 → readX s.cur e.a s = .ok (a, s1) →
    readX s.cur e.b s1 = .ok (b, s2) → readX s.cur e.c s2 = .ok (c, s3) → readX s.cur e.e s3 = .ok (x, s4) → (s.slot s.cur).wait = .drawDone tok →
    writeX s.cur e.d tok s4 = .ok ((), t) → exec (.drawClus e) s = .next (completed e s.cur .next t)) ∧
  (∀ (seed sq pos : Nat) (parts : List (List (Nat × Nat) × Nat)), (∀ p ∈ parts, sumMass p.1 = 0) → drawResult seed sq pos parts = BitVec.allOnes 64) ∧
  (∀ (seed sq pos base : Nat) (l : List (Nat × Nat)), 0 < sumMass l →
    ∃ x ∈ l, 0 < x.2 ∧ drawResult seed sq pos [(l, base)] = BitVec.ofNat 64 ((base + x.1) % 2 ^ 32))

/-! ### Matrix unit and stack dot units -/

/-- The act of slot `cur` is no row handler and its launch owns the core's matrix unit (R247, R257). -/
def Sys2Proof.Machine.ownsUnit (s : State) : Prop :=
  (s.slot s.cur).origin ≠ 3 ∧ (s.core (coreOf s.cur)).mx.owner = some ((s.slot s.cur).launch.getD 0)

/-- No 64-bit word of the first n elements of row i of a tile has an uncorrectable error (R248, R429). -/
def Sys2Proof.Machine.rowClean (core tile i n : Nat) (s : State) : Prop :=
  ∀ x ∈ (s.core core).mx.errs, ¬ ((tile * 256 + i * 16) / 2 ≤ x.1 ∧ 2 * x.1 < tile * 256 + i * 16 + n)

/-- Ownership (R247, R249, R257): in a row-handler act a matrix instruction raises MATRIX-OP; a unit with no owner is taken, with TCFG at its reset value, every tile
element +0, no entry and no retained word; one that another launch owns is not ready; the owner's own claim changes nothing. -/
def Sys2Proof.Machine.Claim.MatrixOwnership : Prop :=
  ∀ (p : Nat) (s : State), let l := (s.slot p).launch.getD 0
    let m := (s.core (coreOf p)).mx
    ((s.slot p).origin = 3 → claimMatrix p s = .error (.fault Cause.matrixOp 0 none)) ∧
    ((s.slot p).origin ≠ 3 → m.owner = some l → claimMatrix p s = .ok ((), s)) ∧
    (∀ o, (s.slot p).origin ≠ 3 → m.owner = some o → o ≠ l → claimMatrix p s = .error (.wait none)) ∧
    ((s.slot p).origin ≠ 3 → m.owner = none → ∃ t, claimMatrix p s = .ok ((), t) ∧
      (t.core (coreOf p)).mx = { owner := some l, tcfg := 0xFFFF000000000F0F, tiles := [], queue := [], next := 0, accepted := 0, status := [], tcfgPending := none, errs := [] } ∧
      t.slots = s.slots ∧ t.mem = s.mem ∧ t.net = s.net)

/-- Check of TCFG (R251, R260): BADCMD for reserved bits or LAYOUT 3, BADFMT for operand formats that are not of one accepted width class, BADCMD for an RHND that
is no handler; else OK. -/
def Sys2Proof.Machine.specTcfg (w : Word) (handlers : Nat) : Nat :=
  let f := fun hi lo => (w.toNat / 2 ^ lo) % 2 ^ (hi + 1 - lo)
  if f 47 44 ≠ 0 ∨ f 29 12 ≠ 0 ∨ f 7 4 ≠ 0 ∨ f 41 40 = 3 then 2
  else if opndClass (f 39 35) = none ∨ opndClass (f 39 35) ≠ opndClass (f 34 30) then 1
  else if f 63 48 ≠ 0xFFFF ∧ handlers ≤ f 63 48 then 2 else 0

/-- The matrix instructions of the owner (R251, R262 to R266): `tcfg.set`, with no entry open, checks the word, writes it and sets the tiles to +0, with no mark of an error, when the check passes, and
writes the status; `tcfg.get` reads TCFG; `mxwait` completes when its ticket is not open and gives the retained status word of one of the last 64 tickets, or 0xFF where none is kept (that all 64
bits of its operand count is log entry 34, DEDUCED); `trow` reads a tile row into four vectors once no entry placed before it is open, raises ILLEGAL-OPERAND for a word past tile and row, and
for a 64-bit word of the row with an uncorrectable error POISON (R248) or DATA-INTEGRITY (R429), as the error has it (log entry 84, DEDUCED). -/
def Sys2Proof.Machine.Claim.MatrixInstructions : Prop :=
  (∀ (e : Enc) (s s1 t : State) (a : Word), ready 0xC0 e s → bound e s → ownsUnit s → (s.core (coreOf s.cur)).mx.tcfgPending = none → readX s.cur e.a s = .ok (a, s1) →
    mxOpen s1 (coreOf s.cur) = [] →
    let st := specTcfg a (s1.obj (s1.launch ((s1.slot s.cur).launch.getD 0)).objKey).handlers.length
    let s2 := s1.modCore (coreOf s.cur) (fun c => { c with mx :=
      if st = 0 then { c.mx with tcfg := a, tiles := [], tcfgPending := none } else { c.mx with tcfgPending := none } })
    writeX s.cur e.d (BitVec.ofNat 64 st) (if st = 0 then tilesClean (coreOf s.cur) 15 s2 else s2) = .ok ((), t) →
    exec (.tcfgSet e) s = .next (completed e s.cur .next t)) ∧
  (∀ (e : Enc) (s t : State), ready 0xC0 e s → ownsUnit s → writeX s.cur e.d (s.core (coreOf s.cur)).mx.tcfg s = .ok ((), t) →
    exec (.tcfgGet e) s = .next (completed e s.cur .next t)) ∧
  (∀ (e : Enc) (s s1 t : State) (a : Word) (k : Nat), ready 0xC2 e s → bound e s → ownsUnit s → readX s.cur e.a s = .ok (a, s1) →
    (if e.a = .none then (s1.slot s.cur).mxLast = some k else k = a.toNat) → k ∉ mxOpen s1 (coreOf s.cur) →
    let s2 := acquired s.cur (tierOf s1 (s1.slot s.cur)) s1
    let m := (s1.core (coreOf s.cur)).mx
    let d := (m.next + 2 ^ 32 - k % 2 ^ 32) % 2 ^ 32
    let kept := k < 2 ^ 32 ∧ 1 ≤ d ∧ d ≤ 64
    (∀ x, kept → m.status.find? (fun x => x.1 == k) = some x → writeX s.cur e.d x.2 s2 = .ok ((), t)) →
    (¬ kept ∨ m.status.find? (fun x => x.1 == k) = none → writeX s.cur e.d 0xFF s2 = .ok ((), t)) →
    exec (.mxwait e) s = .next (completed e s.cur .next t)) ∧
  (∀ (e : Enc) (s t : State), ready 0xC2 e s → bound e s → ownsUnit s → e.a = .none → (s.slot s.cur).mxLast = none → writeX s.cur e.d 0xFF s = .ok ((), t) →
    exec (.mxwait e) s = .next (completed e s.cur .next t)) ∧
  (∀ (e : Enc) (s s1 : State) (a : Word) (n : Fin 32), ready 0xC3 e s → bound e s → ownsUnit s → e.d = .reg n → readX s.cur e.a s = .ok (a, s1) →
    (64 ≤ a.toNat → exec (.trow e) s = .next (faulted s.cur Cause.illegalOperand 0 none s)) ∧
    let clean := rowClean (coreOf s.cur) (a.toNat / 16) (a.toNat % 16) 16 s1
    (a.toNat < 64 → mxOpen s1 (coreOf s.cur) = [] → ¬ clean → ∃ x ∈ (s1.core (coreOf s.cur)).mx.errs, x.1 / 8 = a.toNat ∧
      exec (.trow e) s = .next (faulted s.cur (if x.2 then Cause.poison + 1 else Cause.dataIntegrity) 0 (some (tileLoc (coreOf s.cur) (2 * x.1))) s)) ∧
    (a.toNat < 64 → mxOpen s1 (coreOf s.cur) = [] → clean → ∃ u : Slot, exec (.trow e) s = .next (completed e s.cur .next (s1.setSlot s.cur u)) ∧
      u = { s1.slot s.cur with v := u.v } ∧ (∀ k, k < 4 → ∀ j, j < 4 → specLane 32 j (u.vreg (n + k)) =
        tileAt (s1.core (coreOf s.cur)).mx (a.toNat / 16) (a.toNat % 16) (4 * k + j)) ∧
      (∀ m, (m < n.val ∨ n.val + 4 ≤ m) → u.vreg m = (s1.slot s.cur).vreg m)))

/-- Messages to the matrix unit and the stack dot units (R134, R262, R265, R267): with the checks of `send` passed, the unit owned and no `tcfg.set` of another slot pending, the
message enters the network with the next ticket, which is taken; `mxq` writes the ticket; `sdq` sends to the cluster's stack dot units; `tzero` places a ZERO entry with a
ticket when the queue has room, and raises ILLEGAL-OPERAND for a mask past four tiles. -/
def Sys2Proof.Machine.Claim.MatrixMessages : Prop :=
  (∀ (s : State) (b : List Byte), ownsUnit s → msgTgt b = 1 → headerOk b = true → (msgReply b = true → ownsTag s s.cur (msgRtag b) = true) →
    targetPermitted s s.cur b = true → (s.core (coreOf s.cur)).mx.tcfgPending = none → outbound s s.cur < 4 → (msgReply b = true → (s.slot s.cur).replies ≠ 255) →
    let k := (s.core (coreOf s.cur)).mx.next
    ∃ (t : State) (i : NetItem), sendMessage s.cur b s = .ok (k, t) ∧ t.net = s.net ++ [i] ∧ i.kind = .command ∧ i.data = b ∧ i.ticket = k ∧ i.dst = coreOf s.cur ∧
      (t.core (coreOf s.cur)).mx = { (s.core (coreOf s.cur)).mx with next := (k + 1) % 2 ^ 32 } ∧ (t.slot s.cur).mxLast = some k ∧ t.mem = s.mem ∧
      (t.slot s.cur).replies = (s.slot s.cur).replies + (if msgReply b then 1 else 0)) ∧
  (∀ (e : Enc) (s s1 t : State) (n : Fin 32) (k : Nat), ready 0xC1 e s → e.a = .reg n →
    sendMessage s.cur (1 :: (msgBytes (s.slot s.cur) n).tail) s = .ok (k, s1) → writeX s.cur e.d (BitVec.ofNat 64 k) s1 = .ok ((), t) →
    exec (.mxq e) s = .next (completed e s.cur .next t)) ∧
  (∀ (e : Enc) (s s1 : State) (n : Fin 32) (k : Nat), ready 0xC5 e s → e.a = .reg n →
    sendMessage s.cur (4 :: (msgBytes (s.slot s.cur) n).tail) s = .ok (k, s1) → exec (.sdq e) s = .next (completed e s.cur .next s1)) ∧
  (∀ (e : Enc) (s s1 : State) (a : Word), ready 0xC4 e s → bound e s → ownsUnit s → readX s.cur e.a s = .ok (a, s1) →
    (16 ≤ a.toNat → exec (.tzero e) s = .next (faulted s.cur Cause.illegalOperand 0 none s)) ∧
    (a.toNat < 16 → placeReady s1 s.cur (.matrix (coreOf s.cur)) = true → ∃ (s2 : State) (x : Entry),
      (s2.core (coreOf s.cur)).mx.queue = (s1.core (coreOf s.cur)).mx.queue ++ [x] ∧ x.ticket = (s1.core (coreOf s.cur)).mx.next ∧ msgEop x.msg = 5 ∧ mxTile x.msg = a.toNat ∧
      s2.mem = s1.mem ∧ ∀ t, writeX s.cur e.d (BitVec.ofNat 64 x.ticket) s2 = .ok ((), t) → exec (.tzero e) s = .next (completed e s.cur .next t)))

/-! ### Juggler -/

/-- Messages to the Juggler (R134, R313): with the checks of `send` passed and a counter of the group copy on the core, or room for one of the eight, the message enters the
network with the counter's ticket, which advances. -/
def Sys2Proof.Machine.Claim.JugglerMessages : Prop :=
  ∀ (s : State) (b : List Byte), msgTgt b = 3 → headerOk b = true → (msgReply b = true → ownsTag s s.cur (msgRtag b) = true) →
    targetPermitted s s.cur b = true → outbound s s.cur < 4 → (msgReply b = true → (s.slot s.cur).replies ≠ 255) →
    let g := (s.slot s.cur).ginst
    let counts := ((jugRelease (coreOf s.cur) s).core (coreOf s.cur)).jug.counts
    let k := (KV.get {} counts g).next
    (KV.find? counts g = none → 8 ≤ counts.length → sendMessage s.cur b s = .error (.wait none)) ∧
    (KV.find? counts g ≠ none ∨ counts.length < 8 → ∃ (t : State) (i : NetItem), sendMessage s.cur b s = .ok (k, t) ∧ t.net = s.net ++ [i] ∧ i.kind = .command ∧ i.data = b ∧
      i.ticket = k ∧ i.dst = coreOf s.cur ∧ (KV.get {} (t.core (coreOf s.cur)).jug.counts g).next = (k + 1) % 2 ^ 32 ∧ (t.slot s.cur).jqLast = some k ∧ t.mem = s.mem ∧
      (t.slot s.cur).replies = (s.slot s.cur).replies + (if msgReply b then 1 else 0))

/-- The Juggler instructions (R314 to R316): `jcfg.set` and `jcfg.clr` send CONFIG and CLEAR for a context 0 to 3, any other raising ILLEGAL-OPERAND; `jq` sends a message;
each writes its ticket; `jwait` completes when its ticket is not open; `jwait` and `jstat.rep` give the retained status and report words, or 0xFF; `jstat.q` gives the next
ticket, the launch's contexts and the queue's length. -/
def Sys2Proof.Machine.Claim.JugglerInstructions : Prop :=
  (∀ (set : Bool) (e : Enc) (s s1 s2 s3 t : State) (a b : Word) (k : Nat), ready 0xE6 e s → bound e s → readX s.cur e.a s = .ok (a, s1) → readX s.cur e.b s1 = .ok (b, s2) →
    (4 ≤ b.toNat → exec (if set then .jcfgSet e else .jcfgClr e) s = .next (faulted s.cur Cause.illegalOperand 0 none s)) ∧
    (b.toNat < 4 → sendMessage s.cur (leBytes 4 (if set then 0xFFFF0203 else 0xFFFF0303) ++ leBytes 12 0 ++ leBytes 8 (if set then a.toNat else 0) ++ leBytes 40 b.toNat) s2 = .ok (k, s3) →
      writeX s.cur e.d (BitVec.ofNat 64 k) s3 = .ok ((), t) → exec (if set then .jcfgSet e else .jcfgClr e) s = .next (completed e s.cur .next t))) ∧
  (∀ (e : Enc) (s s1 t : State) (n : Fin 32) (k : Nat), ready 0xE7 e s → e.a = .reg n →
    sendMessage s.cur (3 :: (msgBytes (s.slot s.cur) n).tail) s = .ok (k, s1) → writeX s.cur e.d (BitVec.ofNat 64 k) s1 = .ok ((), t) →
    exec (.jq e) s = .next (completed e s.cur .next t)) ∧
  (∀ (e : Enc) (s s1 t : State) (a : Word) (k : Nat), ready 0xE8 e s → bound e s → readX s.cur e.a s = .ok (a, s1) →
    (if e.a = .none then (s1.slot s.cur).jqLast = some k else k = a.toNat) →
    (k ∈ jugOpen s1 (coreOf s.cur) (s1.slot s.cur).ginst → exec (.jwait e) s = .next (notReady e s.cur s)) ∧
    (k ∉ jugOpen s1 (coreOf s.cur) (s1.slot s.cur).ginst →
      writeX s.cur e.d (match jugKept s1 s.cur k with | some x => x.1 | none => 0xFF) (acquired s.cur (tierOf s1 (s1.slot s.cur)) s1) = .ok ((), t) →
      exec (.jwait e) s = .next (completed e s.cur .next t))) ∧
  (∀ (e : Enc) (s s1 t : State) (a : Word), ready 0xE9 e s → bound e s → readX s.cur e.a s = .ok (a, s1) →
    writeX s.cur e.d (match jugKept s1 s.cur a.toNat with | some x => x.2 | none => 0xFF) s1 = .ok ((), t) → exec (.jstatRep e) s = .next (completed e s.cur .next t)) ∧
  (∀ (e : Enc) (s t : State), ready 0xE9 e s → writeX s.cur e.d (jstatWord s s.cur) s = .ok ((), t) → exec (.jstatQ e) s = .next (completed e s.cur .next t))

/-- Composition of maps (R304): the shortcuts of identity and constant maps give the composed map itself, for maps of one size whose state 0 stays 0. -/
def Sys2Proof.Machine.Claim.MapComposition : Prop :=
  ∀ (l r : JMap), l.length = r.length → 2 ≤ l.length → (∀ x ∈ l, x < l.length) → (∀ x ∈ r, x < r.length) → l.getD 0 1 = 0 → r.getD 0 1 = 0 →
    (jCompose l r).1 = l.map (fun x => r.getD x 0)

/-- The result of a segment (R302, R303): the root of its composition tree takes START to the state that running the symbols one by one reaches. -/
def Sys2Proof.Machine.Claim.TreeEqualsRun : Prop :=
  ∀ (n start : Nat) (g : List Nat) (maps : Nat → JMap), 2 ≤ n → g ≠ [] → g.length ≤ 4096 → start < n →
    (∀ k, (maps k).length = n ∧ (∀ x ∈ maps k, x < n) ∧ (maps k).getD 0 1 = 0) →
    (jTree 13 (g.map maps)).1.getD start 0 = g.foldl (fun st k => (maps k).getD st 0) start

/-! ### Trapeze regions -/

/-- `rbeg` (R288), in an act that is no formula act and has no buffered store: REGION-OP with a region live and not in RESTART; a region in RESTART opens again with one more
restart; otherwise a free region slot of the die within the quota is taken when its place is after FRONTIER, with the next generation and a snapshot of the registers, and
RSW is written; a place at or before FRONTIER gives LATE and opens nothing; with no slot free it is not ready. -/
def Sys2Proof.Machine.Claim.RegionOpens : Prop :=
  ∀ (e : Enc) (s : State), ready 0xE0 e s → bound e s → (s.slot s.cur).formula = none → (s.slot s.cur).store = [] →
    let x := s.slot s.cur
    let part := partOf s s.cur
    (∀ rs, liveRegion s x = some rs → (s.rslot rs).st ≠ .restart → exec (.rbeg e) s = .next (faulted s.cur Cause.regionOp 0 none s)) ∧
    (∀ rs t, liveRegion s x = some rs → (s.rslot rs).st = .restart →
      let r := { s.rslot rs with st := .open_, depth := 0, restarts := min ((s.rslot rs).restarts + 1) 255 }
      (s.rslot rs).restarts ≤ 255 → writeX s.cur e.d (rswOf rs r) (s.modRslot rs (fun _ => r)) = .ok ((), t) → exec (.rbeg e) s = .next (completed e s.cur .next t)) ∧
    (∀ key s1, liveRegion s x = none → rbegKey s.cur e s = .ok (key, s1) →
      (freeRegions s (dieOf s.cur) part = [] → exec (.rbeg e) s = .next (notReady e s.cur s)) ∧
      (freeRegions s (dieOf s.cur) part ≠ [] → ∃ rs s2, rs ∈ freeRegions s (dieOf s.cur) part ∧ s2 = { s1 with choices := s1.choices.tail } ∧
        (placeLt (frontierOf s part) (key, rs) = false → ∀ t, writeX s.cur e.d (BitVec.ofNat 64 (6 * 2 ^ 56)) s2 = .ok ((), t) →
          exec (.rbeg e) s = .next (completed e s.cur .next t)) ∧
        (placeLt (frontierOf s part) (key, rs) = true → ∃ s3, s3.mem = s.mem ∧ (s3.rslot rs).st = .open_ ∧ (s3.rslot rs).key = key ∧ (s3.rslot rs).tie = rs ∧
          (s3.rslot rs).domain = partOf s2 s.cur ∧ (s3.rslot rs).gen = ((s.rslot rs).gen + 1) % 2 ^ 32 ∧ (s3.rslot rs).restarts = 0 ∧ (s3.rslot rs).act = (s2.slot s.cur).act ∧
          (s3.slot s.cur).region = some rs ∧ (s3.slot s.cur).snap = (s2.slot s.cur).snapshot ∧
          ∀ t, writeX s.cur e.d (rswOf rs (s3.rslot rs)) s3 = .ok ((), t) → exec (.rbeg e) s = .next (completed e s.cur .next t))))

/-- `rend`, `rabort.exit` and `rabort.rst` (R282, R290, R291): `rend` puts the region in ENDING and waits; once the region has closed it completes with the final RSW; at another call
depth, or with no region, it raises REGION-OP; `rabort.exit` discards the region's versions, frees its slot and goes on; `rabort.rst` discards them and the act is back at its
`rbeg` with the snapshot's registers. -/
def Sys2Proof.Machine.Claim.RegionEnds : Prop :=
  (∀ (e : Enc) (s : State), ready 0xE1 e s → (s.slot s.cur).formula = none →
    let x := s.slot s.cur
    (x.region = none → exec (.rend e) s = .next (faulted s.cur Cause.regionOp 0 none s)) ∧
    (∀ rs, x.region = some rs → liveRegion s x = some rs → x.frames.length ≠ (s.rslot rs).callDepth → exec (.rend e) s = .next (faulted s.cur Cause.regionOp 0 none s)) ∧
    (∀ rs, x.region = some rs → liveRegion s x = some rs → x.frames.length = (s.rslot rs).callDepth → (s.rslot rs).st ≠ .ending → ∃ t, exec (.rend e) s = .next t ∧
      (t.rslot rs).st = .ending ∧ (t.slot s.cur).pc = x.pc ∧ (t.slot s.cur).region = some rs ∧ t.mem = s.mem) ∧
    (∀ rs t, x.region = some rs → liveRegion s x = none → x.store = [] →
      writeX s.cur e.d (finalRsw s rs) ((acquired s.cur 3 s).modSlot s.cur (fun u => { u with region := none })) = .ok ((), t) →
      exec (.rend e) s = .next (completed e s.cur .next t))) ∧
  (∀ (e : Enc) (s : State), ready 0xE2 e s → (s.slot s.cur).formula = none →
    (liveRegion s (s.slot s.cur) = none → exec (.rabortExit e) s = .next (faulted s.cur Cause.regionOp 0 none s) ∧
      exec (.rabortRst e) s = .next (faulted s.cur Cause.regionOp 0 none s)) ∧
    (∀ rs, liveRegion s (s.slot s.cur) = some rs → (s.rslot rs).st ≠ .restart →
      (∃ t, exec (.rabortExit e) s = .next t ∧ (t.rslot rs).st = .free ∧ (∀ v ∈ t.versions, v.rslot ≠ rs) ∧ (t.slot s.cur).region = none ∧
        (t.slot s.cur).pc = nextOf e (s.slot s.cur).pc ∧ t.mem = s.mem ∧ (t.slot s.cur).xg = (s.slot s.cur).xg ∧ (t.slot s.cur).win = (s.slot s.cur).win) ∧
      (∃ t, exec (.rabortRst e) s = .next t ∧ (t.rslot rs).st = .restart ∧ (∀ v ∈ t.versions, v.rslot ≠ rs) ∧ t.mem = s.mem ∧
        (t.slot s.cur).pc = (s.slot s.cur).snap.pc ∧ (t.slot s.cur).xg = (s.slot s.cur).snap.xg ∧ (t.slot s.cur).win = (s.slot s.cur).snap.win ∧
        (t.slot s.cur).preds = (s.slot s.cur).snap.preds ∧ (t.slot s.cur).fcs = (s.slot s.cur).snap.fcs ∧ (t.slot s.cur).frames = (s.slot s.cur).snap.frames)))

/-- `rstat`, `rwait` and `rkey` (R292 to R294): `rwait` for a live region waits and keeps its operand, and gives the outcome once the region has closed; in a formula act every
region instruction but `rstat` and `rkey` raises REGION-OP (R228, R287). -/
def Sys2Proof.Machine.Claim.RegionInspection : Prop :=
  (∀ (e : Enc) (s s1 t : State) (a w : Word), ready 0xE3 e s → bound e s →
    (e.a = .none → s1 = s ∧ w = (match liveRegion s (s.slot s.cur) with | some rs => rswOf rs (s.rslot rs) | none => 0)) →
    (e.a ≠ .none → readX s.cur e.a s = .ok (a, s1) ∧ w = handleRsw s (partOf s s.cur) a.toNat) → writeX s.cur e.d w s1 = .ok ((), t) →
    exec (.rstat e) s = .next (completed e s.cur .next t)) ∧
  (∀ (e : Enc) (s s1 : State) (a : Word), ready 0xE4 e s → bound e s → (s.slot s.cur).formula = none → liveRegion s (s.slot s.cur) = none →
    readX s.cur e.a s = .ok (a, s1) → (∀ o, (s.slot s.cur).wait ≠ .regionDone o) →
    let rs := a.toNat % 2 ^ 10
    (s.rslot rs).live = true → (s.rslot rs).gen = a.toNat / 2 ^ 10 % 2 ^ 32 → handleRsw s (partOf s s.cur) a.toNat ≠ 0 →
    ∃ t, exec (.rwait e) s = .next t ∧ (t.slot s.cur).wait = .region rs (s.rslot rs).gen ∧ (t.slot s.cur).pc = (s.slot s.cur).pc ∧
      (t.slot s.cur).chans = (s.slot s.cur).chans ∧ t.mem = s.mem) ∧
  (∀ (e : Enc) (s : State), (s.slot s.cur).formula ≠ none →
    (ready 0xE0 e s → bound e s → exec (.rbeg e) s = .next (faulted s.cur Cause.regionOp 0 none s)) ∧
    (ready 0xE1 e s → exec (.rend e) s = .next (faulted s.cur Cause.regionOp 0 none s)) ∧
    (ready 0xE2 e s → exec (.rabortExit e) s = .next (faulted s.cur Cause.regionOp 0 none s) ∧ exec (.rabortRst e) s = .next (faulted s.cur Cause.regionOp 0 none s)) ∧
    (ready 0xE4 e s → bound e s → exec (.rwait e) s = .next (faulted s.cur Cause.regionOp 0 none s))) ∧
  (∀ (e : Enc) (s s1 t : State) (a : Word), ready 0xE4 e s → bound e s → (s.slot s.cur).formula = none →
    (liveRegion s (s.slot s.cur) ≠ none → exec (.rwait e) s = .next (faulted s.cur Cause.regionOp 0 none s)) ∧
    (∀ o, liveRegion s (s.slot s.cur) = none → readX s.cur e.a s = .ok (a, s1) → (s.slot s.cur).wait = .regionDone o →
      writeX s.cur e.d (BitVec.ofNat 64 o) (if o = 0 then acquired s.cur 3 s1 else s1) = .ok ((), t) → exec (.rwait e) s = .next (completed e s.cur .next t)) ∧
    (liveRegion s (s.slot s.cur) = none → readX s.cur e.a s = .ok (a, s1) → (s.slot s.cur).wait = .none → handleRsw s (partOf s s.cur) a.toNat = 0 →
      writeX s.cur e.d 2 s1 = .ok ((), t) → exec (.rwait e) s = .next (completed e s.cur .next t))) ∧
  (∀ (e : Enc) (s t : State) (w : Word), ready 0xE5 e s →
    (e.v = 0 → w = (match liveRegion s (s.slot s.cur) with | some rs => BitVec.ofNat 64 (s.rslot rs).key | none => BitVec.allOnes 64)) →
    (e.v = 1 → w = BitVec.ofNat 64 (frontierOf s (partOf s s.cur)).1) →
    (e.v = 2 → w = (match (domainRegions s (partOf s s.cur)).find? (fun x => isEarliest s x.2) with | some x => BitVec.ofNat 64 x.2.key | none => BitVec.allOnes 64)) →
    e.v ≤ 2 → writeX s.cur e.d w s = .ok ((), t) → exec (.rkey e) s = .next (completed e s.cur .next t))

/-- Forwarding (R277): a region that holds no version of a granule reads that of the live region of its domain with the latest place before its own, and gains the
dependence edge; it waits at DEPTH 8; with no such version it reads the committed value. -/
def Sys2Proof.Machine.Claim.RegionForwarding : Prop :=
  ∀ (s : State) (rs gran : Nat),
    (∀ v, ownVersion s rs gran = some v → regionRead s rs gran = some (s, some v.bytes)) ∧
    (∀ v, ownVersion s rs gran = none → forwardFrom s rs gran = some v → v ∈ s.versions ∧ v.gran = gran ∧ v.rslot ≠ rs ∧ (s.rslot v.rslot).st ≠ .free ∧
      (s.rslot v.rslot).st ≠ .restart ∧ (s.rslot v.rslot).domain = (s.rslot rs).domain ∧ placeLt (s.rslot v.rslot).place (s.rslot rs).place = true ∧
      (∀ u ∈ s.versions, u.gran = gran → u.rslot ≠ rs → (s.rslot u.rslot).live = true → (s.rslot u.rslot).st ≠ .restart → (s.rslot u.rslot).domain = (s.rslot rs).domain →
        placeLt (s.rslot u.rslot).place (s.rslot rs).place = true → placeLt (s.rslot v.rslot).place (s.rslot u.rslot).place = false) ∧
      (8 ≤ (s.rslot v.rslot).depth → regionRead s rs gran = none) ∧
      ((s.rslot v.rslot).depth < 8 → ∃ t, regionRead s rs gran = some (t, some v.bytes) ∧ v.rslot ∈ (t.rslot rs).pred ∧ (s.rslot v.rslot).depth < (t.rslot rs).depth)) ∧
    (ownVersion s rs gran = none → forwardFrom s rs gran = none → ∃ t, regionRead s rs gran = some (t, none) ∧ t.mem = s.mem)

/-! ### Cells -/

/-- The cell a handle in X(A) names for the act (R219). -/
def Sys2Proof.Machine.namesCell (s : State) (a : Word) (tab i : Nat) : Prop := cellOf s (partOf s s.cur) a.toNat = some (tab, i)

/-- `cst.stage` and `cst.go` (R224, R240) of an ordinary act outside regions: a formula cell raises CELLSTORE, whatever the range, which is the model's order, log entry 57, a bad
range CELLRANGE; with the cell's pending buffer free, the bytes read and the act's stores performed, the buffer takes the newest committed version with the bytes at the offset; `.stage` holds it for the act, `.go` starts the next wave, whose closure
is the cell and all its dependants and whose walk has reached the cell alone, so that no other cell is STALE yet (log entry 56, DEDUCED, and log entry 125, DESIGN CHOICE), and X(D) is the wave's number. -/
def Sys2Proof.Machine.Claim.CellStores : Prop :=
  ∀ (go : Bool) (e : Enc) (s s1 s2 s3 s4 : State) (a src off len : Word) (tab i : Nat), ready 0xC6 e s → bound e s → readX s.cur e.a s = .ok (a, s1) →
    readX s.cur e.b s1 = .ok (src, s2) → readX s.cur e.c s2 = .ok (off, s3) → readX s.cur e.e s3 = .ok (len, s4) → s4.cur = s.cur →
    let c := (s4.table tab).cell i
    let x := s4.slot s.cur
    let range := off.toNat % 16 = 0 ∧ len.toNat % 16 = 0 ∧ off.toNat + len.toNat ≤ (c.sz + 15) / 16 * 16
    let ins := if go then Instr.cstGo e else Instr.cstStage e
    x.region = none → x.formula = none →
    (cellOf s4 (partOf s4 s.cur) a.toNat = none → exec ins s = .next (faulted s.cur Cause.cell 0 none s)) ∧
    (namesCell s4 a tab i → c.form = true → exec ins s = .next (faulted s.cur Cause.cellstore 0 none s)) ∧
    (namesCell s4 a tab i → c.form = false → ¬ range → exec ins s = .next (faulted s.cur Cause.cellrange 0 none s)) ∧
    (∀ b s5 k, namesCell s4 a tab i → c.form = false → range → c.hold = .free → freeStager (s4.table tab) = some k →
      ((s4.table tab).waves.filter (fun w => !w.failed)).length < 64 → i < (s4.table tab).cells.length →
      let held := s4.modTable tab (fun t => { t with stagers := KV.set t.stagers k (x.act, x.launch.getD 0) }.modCell i (fun c => { c with
        pend := c.newest.2, hold := .stager k (x.launch.getD 0), staged := true }))
      loadBytes s.cur src.toNat len.toNat held = .ok (b, s5) → s5.tables = held.tables → (s5.slot s.cur).store = [] → ∃ s6, s6.mem = s5.mem ∧ s6.slots = s5.slots ∧
        ((s6.table tab).cell i).pend = patch c.newest.2 off.toNat b ∧
        (go = false → ((s6.table tab).cell i).hold = .stager k (x.launch.getD 0) ∧ (s6.table tab).waves = (s4.table tab).waves ∧
          ∀ t, writeX s.cur e.d 0 s6 = .ok ((), t) → exec ins s = .next (completed e s.cur .next t)) ∧
        (go = true → (s6.table tab).started = (s4.table tab).started + 1 ∧ ((s6.table tab).cell i).hold = .wave ((s4.table tab).started + 1) ∧
          ((s6.table tab).cell i).stale = true ∧ (∀ j, j ≠ i → (s6.table tab).cell j = (s4.table tab).cell j) ∧
          (∃ w, (s6.table tab).waves = (s4.table tab).waves ++ [w] ∧ w.num = (s4.table tab).started + 1 ∧ w.src = i ∧ w.failed = false ∧
            ∀ j, j ∈ closureOf (s4.table tab).cells i ↔ j ∈ w.closure) ∧
          ∀ t, writeX s.cur e.d (BitVec.ofNat 64 ((s4.table tab).started + 1)) s6 = .ok ((), t) → exec ins s = .next (completed e s.cur .next t)))

/-- The closure of a cell (R224) holds the cell and, with each cell, every dependant of it. -/
def Sys2Proof.Machine.Claim.ClosureIsClosed : Prop :=
  ∀ (cells : List CellD) (i : Nat), i < cells.length → (∀ c ∈ cells, ∀ k ∈ c.dep, k < cells.length) →
    i ∈ closureOf cells i ∧ ∀ j ∈ closureOf cells i, ∀ k ∈ (cells.getD j {}).dep, k ∈ closureOf cells i

/-- A view of a generation sees the newest version that is not newer than it, whenever one of the cell's versions is (R234). -/
def Sys2Proof.Machine.Claim.ViewSeesGeneration : Prop :=
  ∀ (c : CellD) (g : Nat), (c.wa ≤ g ∨ ∃ b, c.wb = some b ∧ b ≤ g) →
    (c.at_ g).1 ≤ g ∧ (c.wa ≤ g → c.wa ≤ (c.at_ g).1) ∧ (∀ b, c.wb = some b → b ≤ g → b ≤ (c.at_ g).1) ∧
    ((c.at_ g) = (c.wa, c.bufA) ∨ ∃ b, c.wb = some b ∧ c.at_ g = (b, c.bufB))

/-- `cld.v` and `cld.cp` (R215, R229, R234, R241): CELLRANGE for an offset or length outside the cell; in an ordinary act with no view, of a cell that is not STALE, the newest committed version
is read, not ready while it is STALE; with a view, the version of its generation; `cld.v` gives 16 bytes in V(D), `cld.cp` stores the bytes at X(C) and gives the version's
wave. -/
def Sys2Proof.Machine.Claim.CellLoads : Prop :=
  (∀ (e : Enc) (s s1 s2 s3 s4 : State) (a b d n : Word) (tab i : Nat), ready 0xC7 e s → bound e s → readX s.cur e.a s = .ok (a, s1) → readX s.cur e.b s1 = .ok (b, s2) →
    readX s.cur e.c s2 = .ok (d, s3) → readX s.cur e.e s3 = .ok (n, s4) → s4.cur = s.cur → namesCell s4 a tab i →
    ¬ (b.toNat % 16 = 0 ∧ n.toNat % 16 = 0 ∧ n.toNat ≤ 65536 ∧ b.toNat + n.toNat ≤ (((s4.table tab).cell i).sz + 15) / 16 * 16) →
    exec (.cldCp e) s = .next (faulted s.cur Cause.cellrange 0 none s)) ∧
  (∀ (e : Enc) (s s1 s2 : State) (a b : Word) (tab i : Nat), ready 0xC7 e s → bound e s → readX s.cur e.a s = .ok (a, s1) → readX s.cur e.b s1 = .ok (b, s2) → s2.cur = s.cur →
    namesCell s2 a tab i →
    let c := (s2.table tab).cell i
    let range := b.toNat % 16 = 0 ∧ b.toNat + 16 ≤ (c.sz + 15) / 16 * 16
    (¬ range → exec (.cldV e) s = .next (faulted s.cur Cause.cellrange 0 none s)) ∧
    (∀ w l s3 t, range → cldVersion s.cur tab i s2 = .ok ((w, l), s3) → writeV s.cur e.d (vecOfBytes ((l.drop b.toNat).take 16)) s3 = .ok ((), t) →
      exec (.cldV e) s = .next (completed e s.cur .next t))) ∧
  (∀ (e : Enc) (s s1 s2 s3 s4 s5 s6 t : State) (a b d n : Word) (tab i w : Nat) (l : List Byte), ready 0xC7 e s → bound e s → readX s.cur e.a s = .ok (a, s1) →
    readX s.cur e.b s1 = .ok (b, s2) → readX s.cur e.c s2 = .ok (d, s3) → readX s.cur e.e s3 = .ok (n, s4) → s4.cur = s.cur → namesCell s4 a tab i →
    b.toNat % 16 = 0 → n.toNat % 16 = 0 → n.toNat ≤ 65536 → b.toNat + n.toNat ≤ (((s4.table tab).cell i).sz + 15) / 16 * 16 →
    cldVersion s.cur tab i s4 = .ok ((w, l), s5) → storeNow s.cur d.toNat ((l.drop b.toNat).take n.toNat) s5 = .ok ((), s6) →
    writeX s.cur e.d (BitVec.ofNat 64 w) s6 = .ok ((), t) → exec (.cldCp e) s = .next (completed e s.cur .next t)) ∧
  (∀ (p tab i : Nat) (s : State), let c := (s.table tab).cell i
    ((s.slot p).view = none → (s.slot p).formula = none → c.stale = false → cldVersion p tab i s = .ok (c.newest, acquired p 3 s)) ∧
    ((s.slot p).view = none → (s.slot p).formula = none → c.stale = true → cldVersion p tab i s = .error (.wait none)) ∧
    (∀ g h, (s.slot p).view = some (tab, g, h) → cldVersion p tab i s = .ok (c.at_ g, acquired p 3 s)) ∧
    (∀ v g h, (s.slot p).view = some (v, g, h) → v ≠ tab → cldVersion p tab i s = .error (.fault Cause.cellview 0 none)))

/-- `cbind` and `cunbind` (R232, R233, R242, R243): the status of the first check that fails, which changes nothing, else the edit takes effect at once with a wave, or is queued when a
wave holds the cell or edits are queued. -/
def Sys2Proof.Machine.Claim.CellEdits : Prop :=
  (∀ (e : Enc) (s s1 s2 s3 : State) (a va : Word) (tab i : Nat) (b : List Byte), ready 0xC8 e s → bound e s → readX s.cur e.a s = .ok (a, s1) → readX s.cur e.b s1 = .ok (va, s2) →
    s2.cur = s.cur → namesCell s2 a tab i → (s2.slot s.cur).region = none → va.toNat % 16 = 0 → loadBytes s.cur va.toNat 32 s2 = .ok (b, s3) →
    let x := s3.table tab
    let r : FRecord := (fieldAt b 0 2, (List.range (fieldAt b 2 1)).map (fun k => fieldAt b (16 + 2 * k) 2), fieldAt b 3 1 == 1, fieldAt b 4 1)
    let handlers := (s3.obj (objKey x.part x.obj)).handlers.length
    let k := if recordOk b x.cells.length = false then 2 else if handlers ≤ r.1 then 3 else if 64 ≤ x.edits.length then 5 else bindStatus (futureCells x) handlers i r
    (∀ t, k ≠ 0 → writeX s.cur e.d (BitVec.ofNat 64 k) s3 = .ok ((), t) → exec (.cbind e) s = .next (completed e s.cur .next t)) ∧
    (∀ st s4 t, k = 0 → submitEdit s.cur tab i (some r) s3 = .ok (st, s4) → writeX s.cur e.d (BitVec.ofNat 64 st) s4 = .ok ((), t) →
      exec (.cbind e) s = .next (completed e s.cur .next t))) ∧
  (∀ (e : Enc) (s s1 : State) (a : Word) (tab i : Nat), ready 0xC9 e s → bound e s → readX s.cur e.a s = .ok (a, s1) → s1.cur = s.cur → namesCell s1 a tab i →
    (s1.slot s.cur).region = none →
    let x := s1.table tab
    let k := if ((futureCells x).getD i {}).form = false then 4 else if 64 ≤ x.edits.length then 5 else 0
    (∀ t, k ≠ 0 → writeX s.cur e.d (BitVec.ofNat 64 k) s1 = .ok ((), t) → exec (.cunbind e) s = .next (completed e s.cur .next t)) ∧
    (∀ st s4 t, k = 0 → submitEdit s.cur tab i none s1 = .ok (st, s4) → writeX s.cur e.d (BitVec.ofNat 64 st) s4 = .ok ((), t) →
      exec (.cunbind e) s = .next (completed e s.cur .next t))) ∧
  (∀ (p tab i : Nat) (r : Option FRecord) (s : State), let x := s.table tab
    (x.edits = [] → x.inWave i = false → (x.waves.filter (fun w => !w.failed)).length < 64 → ∃ t, submitEdit p tab i r s = .ok (0, t) ∧ (t.table tab).started = x.started + 1 ∧
      (t.table tab).waves.length = x.waves.length + 1 ∧ t.mem = s.mem ∧ t.slots = s.slots) ∧
    (x.edits ≠ [] ∨ x.inWave i = true → ∃ t d, submitEdit p tab i r s = .ok (1, t) ∧ (t.table tab).edits = x.edits ++ [d] ∧ d.cell = i ∧ d.record = r ∧
      (t.table tab).waves = x.waves ∧ t.mem = s.mem))

/-- `cview`, `cclose`, `cfence` and `cstat` (R234, R237, R244, R245). -/
def Sys2Proof.Machine.Claim.CellViews : Prop :=
  (∀ (e : Enc) (s s1 : State) (a : Word) (tab i : Nat), ready 0xCA e s → bound e s → readX s.cur e.a s = .ok (a, s1) → s1.cur = s.cur → namesCell s1 a tab i →
    let x := s1.table tab
    ((s1.slot s.cur).view ≠ none → exec (.cview e) s = .next (faulted s.cur Cause.cellview 0 none s)) ∧
    (∀ t, (s1.slot s.cur).view = none → 1024 ≤ x.views.length → writeX s.cur e.d (BitVec.ofNat 64 (2 ^ 63 + 9)) s1 = .ok ((), t) →
      exec (.cview e) s = .next (completed e s.cur .next t)) ∧
    ((s1.slot s.cur).view = none → x.views.length < 1024 → ∃ s2, (s2.slot s.cur).view = some (tab, x.committed, a) ∧
      (s2.table tab).views = x.views ++ [{ act := (s1.slot s.cur).act, gen := x.committed, handle := a }] ∧ s2.mem = s1.mem ∧
      ∀ t, writeX s.cur e.d (BitVec.ofNat 64 x.committed) s2 = .ok ((), t) → exec (.cview e) s = .next (completed e s.cur .next t))) ∧
  (∀ (e : Enc) (s : State), ready 0xCB e s → ∃ t, exec (.cclose e) s = .next t ∧ (t.slot s.cur).view = none ∧ t.mem = s.mem ∧
    (∀ tab g h, (s.slot s.cur).view = some (tab, g, h) → (t.table tab).views = (s.table tab).views.filter (fun v => v.act != (s.slot s.cur).act))) ∧
  (∀ (e : Enc) (s s1 : State) (a : Word) (tab i : Nat), ready 0xCC e s → bound e s → readX s.cur e.a s = .ok (a, s1) → s1.cur = s.cur → namesCell s1 a tab i →
    (s.slot s.cur).view = none →
    let x := s.table tab
    let c := x.cell i
    (∀ f t, (s.slot s.cur).wait = .waveDone f → writeX s.cur e.d (if f then 10 else 0) s1 = .ok ((), t) → exec (.cfence e) s = .next (completed e s.cur .next t)) ∧
    (∀ t, (s.slot s.cur).wait = .none → c.lastw ≤ x.committed → writeX s.cur e.d (if c.lost then 10 else 0) s1 = .ok ((), t) →
      exec (.cfence e) s = .next (completed e s.cur .next t)) ∧
    ((s.slot s.cur).wait = .none → x.committed < c.lastw → ∃ t, exec (.cfence e) s = .next t ∧ (t.slot s.cur).wait = .wave tab c.lastw ∧
      (t.slot s.cur).chans = (s.slot s.cur).chans)) ∧
  (∀ (e : Enc) (s s1 t : State) (a : Word) (tab i : Nat), ready 0xCD e s → bound e s → readX s.cur e.a s = .ok (a, s1) → s1.cur = s.cur → namesCell s1 a tab i →
    writeX s.cur e.d (cstatWord e.v (s1.table tab) ((s1.table tab).cell i)) s1 = .ok ((), t) → exec (.cstat e) s = .next (completed e s.cur .next t))

/-! ### Privileged architecture -/

/-- The state after an event: its effect, one cycle later. -/
def Sys2Proof.Machine.after (t : State) : State := tick { t with idle := false }

/-- The event of `i` happens and leaves `after t`. -/
def Sys2Proof.Machine.happens (i : Instr) (s t : State) : Prop := exec i s = .next (after t)

/-- The device has met no fatal error (R433). -/
def Sys2Proof.Machine.running (s : State) : Prop := s.board.fatal = false

/-- Slot `p` has trapped to a level (R339): XEPC, XCAUSE and XVAL of the level hold the address, the code with INT in bit 63, and the value; the
level before it and its enable bit are saved, control is at XVEC, and no other register of the slot has changed. -/
def Sys2Proof.Machine.trapped (p target : Nat) (int : Bool) (code epc : Nat) (val : Word) (s t : State) : Prop :=
  let x := s.slot p
  let y := t.slot p
  let cause : Word := BitVec.ofNat 64 ((if int then 2 ^ 63 else 0) + code)
  (target = 2 → y.pc = x.ctl.mvec.toNat ∧
    y.ctl = { x.ctl with mepc := BitVec.ofNat 64 epc, mcause := cause, mval := val, mpl := x.ctl.level, mie := false, level := 2 }) ∧
  (target ≠ 2 → y.pc = x.ctl.svec.toNat ∧
    y.ctl = { x.ctl with sepc := BitVec.ofNat 64 epc, scause := cause, sval := val, spl := x.ctl.level, sie := false, level := 1 }) ∧
  y.xg = x.xg ∧ y.win = x.win ∧ y.v = x.v ∧ y.preds = x.preds ∧ y.fcs = x.fcs ∧ y.frames = x.frames ∧ y.chans = x.chans ∧ y.store = x.store ∧ y.st = x.st

/-- The level a fault is taken to (R339). -/
def Sys2Proof.Machine.specTarget (level cause : Nat) : Nat :=
  if cause = Cause.poison ∨ cause = Cause.poison + 1 ∨ cause = Cause.poison + 2 ∨ cause = Cause.poison + 3 ∨ cause = Cause.poison + 4 ∨ cause = Cause.dataIntegrity then 2
  else if cause = Cause.privilege then (if level = 0 then 1 else 2)
  else if level = 2 then 2 else 1

/-- A fault of a control-core slot traps (R339), with the address of the instruction and, of an access cause, the faulting address; memory is unchanged. -/
def Sys2Proof.Machine.Claim.FaultTraps : Prop :=
  ∀ (p cause : Nat) (detail : Word) (s : State), isCtl p = true → cause < 256 → cause ≠ Cause.scall → cause ≠ Cause.mcall → (s.slot p).ctl.level ≤ 2 →
    (∀ k, k < 8 → cause = Cause.poison + k → k < 5) →
    let t := faulted p cause detail none s
    trapped p (specTarget (s.slot p).ctl.level cause) false cause (s.slot p).pc (if 0x20 ≤ cause ∧ cause < 0x50 then detail else 0) s t ∧
    t.mem = s.mem ∧ t.launches = s.launches ∧ (∀ q, q ≠ p → t.slot q = s.slot q)

/-- `mcall` traps to M and `scall` to S, with the address of the next instruction and IMM32 (R339); `eret` goes to the level's XEPC, at the level saved, with
the enable bit of the level it leaves set, and a target that breaks R61 raises PC-ALIGN at the new level (R356). -/
def Sys2Proof.Machine.Claim.CallsAndReturns : Prop :=
  (∀ (e : Enc) (s : State) (v : BitVec 32), ready 0xED e s → e.ext = .imm32 v → ∃ t, exec (.mcall e) s = .next t ∧ t.mem = s.mem ∧
    trapped s.cur 2 false 0xF1 (nextOf e (s.slot s.cur).pc) (v.setWidth 64) s t) ∧
  (∀ (e : Enc) (s : State) (v : BitVec 32), ready 0xEE e s → e.ext = .imm32 v → ∃ t, exec (.scall e) s = .next t ∧ t.mem = s.mem ∧
    trapped s.cur 1 false 0xF0 (nextOf e (s.slot s.cur).pc) (v.setWidth 64) s t) ∧
  (∀ (e : Enc) (s : State), ready 0xEC e s →
    let x := s.slot s.cur
    let c := x.ctl
    let a := if c.level = 2 then c.mepc.toNat else c.sepc.toNat
    let d := if c.level = 2 then { c with level := c.mpl, mie := true } else { c with level := c.spl, sie := true }
    let aligned := a % 4 = 0 ∧ a % 32 ≠ 28
    ∃ t, exec (.eret e) s = .next t ∧ t.mem = s.mem ∧ (t.slot s.cur).xg = x.xg ∧ (t.slot s.cur).win = x.win ∧
      (aligned → (t.slot s.cur).pc = a ∧ (t.slot s.cur).ctl = d) ∧
      (¬ aligned → trapped s.cur (if d.level = 2 then 2 else 1) false Cause.pcAlign x.pc 0 (s.setSlot s.cur { x with ctl := d }) t))

/-- Whether interrupt code `k` is pending, for partition `pid` (R340). -/
def Sys2Proof.Machine.pending (s : State) (pid k : Nat) : Prop :=
  match k with
  | 0 => s.board.mcheck = true | 1 => s.board.mailbox = true | 2 => s.board.vfreset = true
  | 3 => (s.part pid).pendDebug = true | 4 => (s.part pid).pendQueue = true | _ => False

/-- Whether a slot may take interrupt code `k` now: an M interrupt below M or with MIE; an S interrupt below S, or at S with SIE, on a control core of its partition. -/
def Sys2Proof.Machine.takes (s : State) (p k : Nat) : Prop :=
  let c := (s.slot p).ctl
  pending s c.pid k ∧ (k < 3 → c.level ≠ 2 ∨ c.mie = true) ∧
  (3 ≤ k → (c.level = 0 ∨ (c.level = 1 ∧ c.sie = true)) ∧ maskHasCc (s.part c.pid) (ccNumber p) = true)

/-- INTERRUPT_TAKEN takes the lowest code that a slot may take, which is then no longer pending; `idle` is not ready until an interrupt is pending;
TRAP_TAKEN is a trap of a listed code (R339, R340). -/
def Sys2Proof.Machine.Claim.Interrupts : Prop :=
  (∀ (p k : Nat) (s : State), running s → isCtl p = true → (s.slot p).st = .active → (s.slot p).wait.over = false → takes s p k → (∀ j, j < k → ¬ takes s p j) →
    ∃ t, exec (.interruptTaken p) s = .next t ∧ trapped p (if k < 3 then 2 else 1) true k (s.slot p).pc 0 s t ∧ t.mem = s.mem ∧
      ¬ pending t (s.slot p).ctl.pid k ∧ ∀ j, j ≠ k → (pending t (s.slot p).ctl.pid j ↔ pending s (s.slot p).ctl.pid j)) ∧
  (∀ (e : Enc) (s : State), ready 0xFA e s →
    ((∃ k, pending s (s.slot s.cur).ctl.pid k) → exec (.idle e) s = .next (completed e s.cur .next s)) ∧
    ((∀ k, ¬ pending s (s.slot s.cur).ctl.pid k) → exec (.idle e) s = .next (notReady e s.cur s))) ∧
  (∀ (p code : Nat) (v : Word) (s : State), running s → isCtl p = true → (s.slot p).st = .active → causeListed code = true → (s.slot p).ctl.level ≤ 2 →
    (code ≠ Cause.scall → code ≠ Cause.mcall → ∃ t, exec (.trapTaken p code v) s = .next t ∧ t.mem = s.mem ∧
      trapped p (specTarget (s.slot p).ctl.level code) false code (s.slot p).pc (if 0x20 ≤ code ∧ code < 0x50 then v else 0) s t) ∧
    (code = Cause.scall → (s.slot p).ctl.level ≠ 2 → ∃ t, exec (.trapTaken p code v) s = .next t ∧ trapped p 1 false 0xF0 (nextPc (s.slot p).pc 12) v s t) ∧
    (code = Cause.mcall → (s.slot p).ctl.level ≠ 0 → ∃ t, exec (.trapTaken p code v) s = .next t ∧ trapped p 2 false 0xF1 (nextPc (s.slot p).pc 12) v s t))

/-- The bits a write of a plain privileged register keeps (R341, R343, R347, R348), and none for another register. -/
def Sys2Proof.Machine.plainMask (n : Nat) : Option Word :=
  if (0x101 ≤ n ∧ n ≤ 0x104) ∨ (0x110 ≤ n ∧ n ≤ 0x113) ∨ (0x302 ≤ n ∧ n ≤ 0x305) then some (BitVec.allOnes 64)
  else if n = 0x108 ∨ n = 0x300 then some 0xF
  else if n = 0x10A ∨ n = 0x30E ∨ (0x200 ≤ n ∧ n < 0x220 ∧ n % 2 = 0) then some 0x0000FFFFFFFFF000
  else if n = 0x10C then some 0xFFFFFFFF000007FF
  else if 0x200 ≤ n ∧ n < 0x220 then some 0x0000FFFFFFFFF00F
  else if 0x306 ≤ n ∧ n ≤ 0x30D then some 0x3FF03FF
  else if n = 0x30F then some 0x1F3F
  else if 0x500 ≤ n ∧ n < 0x540 then some 0xFFFF
  else none

/-- The privileged registers (R341): the listed numbers, who may read and write them, and what a plain one reads after a write of it and of another. -/
def Sys2Proof.Machine.Claim.RegisterTable : Prop :=
  (∀ n, pregListed n = true ↔ n ≤ 5 ∨ (0x100 ≤ n ∧ n ≤ 0x104) ∨ (0x108 ≤ n ∧ n ≤ 0x10A) ∨ n = 0x10C ∨ n = 0x10D ∨ (0x110 ≤ n ∧ n ≤ 0x113) ∨
    (0x200 ≤ n ∧ n < 0x220) ∨ (0x300 ≤ n ∧ n ≤ 0x313) ∨ (0x400 ≤ n ∧ n < 0x440) ∨ (0x500 ≤ n ∧ n < 0x540)) ∧
  (∀ (s : State) (p n : Nat), pregListed n = true → (s.slot p).ctl.level = 2 →
    pregPermits s p false n = true ∧ (pregPermits s p true n = true ↔ n ≠ 0x109 ∧ n ≠ 0x10D)) ∧
  (∀ (s : State) (p n : Nat), pregListed n = true → (s.slot p).ctl.level = 1 →
    let own := maskHas (s.part (s.slot p).ctl.pid) (64 * dieOf p + n % 64) = true
    (pregPermits s p false n = true ↔ n < 0x110 ∨ (0x200 ≤ n ∧ n < 0x300) ∨ (0x310 ≤ n ∧ n < 0x400) ∨ (0x400 ≤ n ∧ own)) ∧
    (pregPermits s p true n = true ↔ n ≤ 0x104 ∨ n = 0x10A ∨ n = 0x10C ∨ (0x200 ≤ n ∧ n < 0x300) ∨ (0x400 ≤ n ∧ n < 0x440 ∧ own))) ∧
  (∀ (s : State) (p n : Nat) (w m : Word), plainMask n = some m → pregRead (pregSet p n w s) p n = w &&& m) ∧
  (∀ (s : State) (p n k : Nat) (w m m' : Word), plainMask n = some m → plainMask k = some m' → n ≠ k → ¬ (n = 0x300 ∧ 0x301 ≤ k ∧ k ≤ 0x30F) →
    pregRead (pregSet p n w s) p k = pregRead s p k)

/-- `pcrd` and `pcwr` (R341, R356): an unlisted number raises ILLEGAL-INSTRUCTION, one the level may not use PRIVILEGE; else the register is read, or
written whole, with bits set, or with bits cleared. What `.set` and `.clr` do to a W1C field is the model's choice, log entry 104, and PRIVILEGE for a write of a read-only
register its reading, log entry 64. REGISTER_WRITE makes the same write. A register of an enabled partition's entry other than LIM cannot be
written (R344). -/
def Sys2Proof.Machine.Claim.RegisterAccess : Prop :=
  (∀ (e : Enc) (s : State), ready 0xEA e s → e.imm32 < 4096 → let n := e.imm32
    (pregListed n = false → exec (.pcrd e) s = .next (faulted s.cur Cause.illegalInstruction 0 none s)) ∧
    (pregListed n = true → pregPermits s s.cur false n = false → exec (.pcrd e) s = .next (faulted s.cur Cause.privilege 0 none s)) ∧
    (∀ t, pregListed n = true → pregPermits s s.cur false n = true → writeX s.cur e.d (pregRead s s.cur n) s = .ok ((), t) →
      exec (.pcrd e) s = .next (completed e s.cur .next t))) ∧
  (∀ (e : Enc) (s : State) (r : Fin 32), ready 0xEB e s → e.imm32 < 4096 → e.a = .reg r → e.d = .none → e.v ≤ 2 → e.b = .none → e.c = .none → e.e = .none →
    let n := e.imm32
    let a := (s.slot s.cur).x r
    let old := pregRead s s.cur n
    let w := if e.v = 0 then a else if e.v = 1 then old ||| a else old &&& ~~~a
    let locked := 0x302 ≤ n ∧ n ≤ 0x30E ∧ (s.part s.ptsel).en = true
    (pregListed n = false → exec (.pcwr e) s = .next (faulted s.cur Cause.illegalInstruction 0 none s)) ∧
    (pregListed n = true → pregPermits s s.cur true n = false → exec (.pcwr e) s = .next (faulted s.cur Cause.privilege 0 none s)) ∧
    (pregListed n = true → pregPermits s s.cur true n = true → locked → exec (.pcwr e) s = .next (faulted s.cur Cause.illegalOperand 0 none s)) ∧
    (pregListed n = true → pregPermits s s.cur true n = true → ¬ locked → n ≠ 0x301 → (n < 0x310 ∨ 0x313 < n) →
      exec (.pcwr e) s = .next (completed e s.cur .next (pregSet s.cur n w s)))) ∧
  (∀ (p n : Nat) (w : Word) (s : State), running s → isCtl p = true → (s.slot p).st = .active → (s.slot p).ctl.level ≠ 0 → pregListed n = true →
    pregPermits s p true n = true → n ≠ 0x301 → (n < 0x310 ∨ 0x313 < n) → ¬ (0x302 ≤ n ∧ n ≤ 0x30E ∧ (s.part s.ptsel).en = true) →
    happens (.registerWrite p n w) s (pregSet p n w s))

/-- Partitions (R344, R346): from stage S2 on (R434), an enable that passes its checks sets EN and clears ERR, and one that fails leaves EN 0 and ERR at the first failing check, of
which a partition without clusters fails the first; a disable clears EN and ends every launch of the partition with PARTITION; a function-level reset
of a booted partition leaves it enabled and pends VFRESET; a cluster out of service stays so; `pcwr` of PCTL, be it an enable, a disable or a change of fields, and of OUTSVC does the same, and an enable records each of the partition's clusters as its own (R345). That a PCTL write with EN 1 raises ILLEGAL-OPERAND
only when another field changes is the model's reading, log entry 64, and what a reset clears is log entry 65. -/
def Obligations.Partitions : Prop :=
  (∀ (n : Nat) (s : State), running s → s.board.stage = .s2 → n < 16 → (s.part n).en = false → ∃ t, exec (.partitionEnable n) s = .next t ∧
    (enableCheck s n = 0 → (t.part n).en = true ∧ (t.part n).err = 0) ∧
    (enableCheck s n ≠ 0 → (t.part n).en = false ∧ (t.part n).err = enableCheck s n) ∧ (∀ m, m ≠ n → t.part m = s.part m)) ∧
  (∀ (n : Nat) (s : State), (∀ c, c < 256 → maskHas (s.part n) c = false) → enableCheck s n = 1) ∧
  (∀ (n : Nat) (s : State), running s → (s.part n).en = true → ∃ t, exec (.partitionDisable n) s = .next t ∧ (t.part n).en = false ∧
    (∀ m, m ≠ n → (t.part m).en = (s.part m).en) ∧
    ∀ lk l, KV.find? s.launches lk = some l → l.part = n → l.st.terminal = false → l.fault = none →
      (t.launch lk).st = .ending ∧ (t.launch lk).fault = some { cause := Cause.partition, detail := 0, where_ := 0, ginst := 0 }) ∧
  (∀ (vf : Nat) (s : State) (x : Nat × Part), running s → List.find? (fun (e : Nat × Part) => e.2.booted && e.2.vf == vf) s.parts = some x →
    ∃ t, exec (.vfReset vf) s = .next t ∧ (t.part x.1).en = true ∧ t.board.vfreset = true) ∧
  (∀ (d : Nat) (w : Word) (s : State), running s → s.board.stage = .s2 → d < 4 → ∃ t, exec (.outsvcSet d w) s = .next t ∧ (t.die d).outsvc = (s.die d).outsvc ||| w ∧
    (∀ k, k ≠ d → (t.die k).outsvc = (s.die k).outsvc)) ∧
  (∀ (e : Enc) (s : State) (r : Fin 32), ready 0xEB e s → 0x310 ≤ e.imm32 → e.imm32 ≤ 0x313 → e.a = .reg r → e.d = .none → e.v = 0 → e.b = .none → e.c = .none → e.e = .none →
    (s.slot s.cur).ctl.level = 2 → ∃ t, exec (.pcwr e) s = .next t ∧
      (t.die (e.imm32 - 0x310)).outsvc = (s.die (e.imm32 - 0x310)).outsvc ||| (s.slot s.cur).x r) ∧
  (∀ (e : Enc) (s : State) (r : Fin 32), ready 0xEB e s → e.imm32 = 0x301 → e.a = .reg r → e.d = .none → e.v = 0 → e.b = .none → e.c = .none → e.e = .none →
    (s.slot s.cur).ctl.level = 2 →
    let w := ((s.slot s.cur).x r).toNat
    let x := s.part s.ptsel
    let y := pctlFields w x
    (x.en = false → w / 2 ^ 59 % 2 = 0 → exec (.pcwr e) s = .next (completed e s.cur .next (s.modPart s.ptsel (fun _ => y)))) ∧
    (x.en = false → w / 2 ^ 59 % 2 = 1 → let s1 := s.modPart s.ptsel (fun _ => y)
      ∃ t, exec (.pcwr e) s = .next (completed e s.cur .next t) ∧ (∀ m, m ≠ s.ptsel → t.part m = s.part m) ∧
        (enableCheck s1 s.ptsel = 0 → t.part s.ptsel = { y with en := true, err := 0 } ∧ ∀ c, c < 256 → maskHas y c = true → (t.cluster c).lastPart = some s.ptsel) ∧
        (enableCheck s1 s.ptsel ≠ 0 → t = s1.modPart s.ptsel (fun x => { x with err := enableCheck s1 s.ptsel }))) ∧
    (x.en = true → y ≠ x → exec (.pcwr e) s = .next (faulted s.cur Cause.illegalOperand 0 none s)) ∧
    (x.en = true → y = x → w / 2 ^ 59 % 2 = 1 → exec (.pcwr e) s = .next (completed e s.cur .next s)) ∧
    (x.en = true → y = x → w / 2 ^ 59 % 2 = 0 → exec (.pcwr e) s = .next (completed e s.cur .next (resetPartition s.ptsel s))))

/-- A full fence at device scope of a slot is done (R360): its stores are performed, and its core's leases are passed. -/
def Sys2Proof.Machine.fences (p : Nat) (s t : State) : Prop := (s.slot p).store = [] ∧ t = acquired p 3 s

/-- No buffered store, no load under way and no region's version is left on the device. -/
def Sys2Proof.Machine.allPerformed (s : State) : Prop :=
  (∀ p, (s.slot p).store = []) ∧ (∀ x ∈ s.slots, x.2.store = [] ∧ x.2.loads = []) ∧ s.versions = []

/-- No access under memory key `k` is left to perform (R353). -/
def Sys2Proof.Machine.keyUnused (s : State) (k : Nat) : Prop :=
  (∀ x ∈ s.slots, (∀ y ∈ x.2.store, y.key ≠ some k) ∧ (∀ y ∈ x.2.loads, y.key ≠ some k)) ∧ ∀ v ∈ s.versions, v.key ≠ some k

/-- A PSLOT word names a slot the issuer may name (R342). -/
def Sys2Proof.Machine.namesSlot (s : State) (w : Word) : Prop :=
  pslotOk w.toNat = true ∧ ((s.slot s.cur).ctl.level = 1 → pslotIn s (s.slot s.cur).ctl.pid w.toNat = true)

/-- `tlbi` removes every translation it names and no other, once every access translated through them is performed; `cflush` completes
when the slot's stores to the line are performed, and `.wbi` and `.part` leave no copy of the lines in an L1 or an L2 (R356, R360); no byte of memory changes but for
the record of a poisoned line. What `cflush` waits for is the model's reading, log entry 68. -/
def Sys2Proof.Machine.Claim.TranslationsAndCaches : Prop :=
  (∀ (e : Enc) (s : State) (r : Fin 32), ready 0xEF e s → e.a = .reg r → allPerformed s →
    let pid := (s.slot s.cur).ctl.pid
    let a := ((s.slot s.cur).x r).toNat
    exec (.tlbiVa e) s = .next (completed e s.cur .next { s with tlb := s.tlb.filter (fun x => !(x.part == pid && x.covers a)) })) ∧
  (∀ (e : Enc) (s : State) (r : Fin 32), ready 0xEF e s → e.b = .reg r →
    let c := (s.slot s.cur).ctl
    let n := ((s.slot s.cur).x r).toNat
    (15 < n → exec (.tlbiPart e) s = .next (faulted s.cur Cause.illegalOperand 0 none s)) ∧
    (n ≤ 15 → c.level ≠ 2 → n ≠ c.pid → exec (.tlbiPart e) s = .next (faulted s.cur Cause.privilege 0 none s)) ∧
    (n ≤ 15 → (c.level = 2 ∨ n = c.pid) → allPerformed s →
      exec (.tlbiPart e) s = .next (completed e s.cur .next { s with tlb := s.tlb.filter (fun x => x.part != n) }))) ∧
  (∀ (e : Enc) (s : State), ready 0xEF e s → allPerformed s →
    exec (.tlbiDev e) s = .next (completed e s.cur .next { s with tlb := [] })) ∧
  (∀ (wbi : Bool) (e : Enc) (s s1 : State) (r : Fin 32) (q : Phys), ready 0xF8 e s → e.a = .reg r →
    (resolve (whoSlot s s.cur) .load {} ((s.slot s.cur).x r).toNat 1) s = .ok (q, s1) → (∀ x ∈ (s1.slot s.cur).store, x.touches (q.loc / 64 * 64) 64 = false) →
    ∃ t, exec (if wbi then .cflushWbi e else .cflushWb e) s = .next t ∧ ((∀ g, poisoned s1 g = false) → t.mem = s1.mem) ∧ (t.slot s.cur).pc = nextOf e (s1.slot s.cur).pc ∧
      (wbi = true → isSpad q.loc = false → (∀ c ∈ t.cores, ∀ l ∈ c.2.l1, l.loc ≠ q.loc / 64 * 64) ∧ (∀ d ∈ t.dies, ∀ l ∈ d.2.l2, l.1 * 64 ≠ q.loc / 64 * 64))) ∧
  (∀ (e : Enc) (s : State) (r : Fin 32), ready 0xF8 e s → e.b = .reg r → (s.slot s.cur).store = [] →
    ∃ t, exec (.cflushPart e) s = .next t ∧ ((∀ g, poisoned s g = false) → t.mem = s.mem) ∧ (t.slot s.cur).pc = nextOf e (s.slot s.cur).pc ∧
      (∀ c ∈ t.cores, ∀ l ∈ c.2.l1, rangeHas (s.part ((s.slot s.cur).x r).toNat) l.loc = false) ∧
      (∀ d ∈ t.dies, ∀ l ∈ d.2.l2, rangeHas (s.part ((s.slot s.cur).x r).toNat) (l.1 * 64) = false))

/-- `keyld` and `keyclr` (R353): at S an index outside the partition's key range raises PRIVILEGE; a record the index may hold is loaded into the entry,
another gives BADREC; `keyclr` empties the entry. The order of the key checks and the zero bytes 32 to 63 of a type 2 key are the model's reading, log entry 66. Either waits for the accesses under the entry's former key, and leaves no L1 copy read under it. -/
def Sys2Proof.Machine.Claim.Keys : Prop :=
  (∀ (e : Enc) (s s1 s2 t : State) (r : Fin 32) (b : List Byte), ready 0xF4 e s → e.a = .reg r → e.imm32 < 8192 →
    let c := (s.slot s.cur).ctl
    let a := ((s.slot s.cur).x r).toNat
    let inRange := fun (n : Nat) => (s2.part n).keybase ≤ e.imm32 ∧ e.imm32 < (s2.part n).keybase + (s2.part n).keycount
    let typ := fieldAt b 64 1
    let part := fieldAt b 65 1
    let well := (typ = 1 ∨ (typ = 2 ∧ zeroAt b 32 32 = true)) ∧ zeroAt b 66 30 = true ∧
      ((part < 16 ∧ inRange part) ∨ (part = 0xFF ∧ ∀ x ∈ s2.parts, x.2.en = true → ¬ (x.2.keybase ≤ e.imm32 ∧ e.imm32 < x.2.keybase + x.2.keycount)))
    (c.level ≠ 2 → ¬ ((s.part c.pid).keybase ≤ e.imm32 ∧ e.imm32 < (s.part c.pid).keybase + (s.part c.pid).keycount) →
      exec (.keyld e) s = .next (faulted s.cur Cause.privilege 0 none s)) ∧
    (c.level = 2 ∨ ((s.part c.pid).keybase ≤ e.imm32 ∧ e.imm32 < (s.part c.pid).keybase + (s.part c.pid).keycount) →
      (a % 16 ≠ 0 → exec (.keyld e) s = .next (faulted s.cur (Cause.misalign + 1) (BitVec.ofNat 64 a) none s)) ∧
      (a % 16 = 0 → fences s.cur s s1 → loadBytes s.cur a 96 s1 = .ok (b, s2) →
        (c.level ≠ 2 → part ≠ c.pid → exec (.keyld e) s = .next (faulted s.cur Cause.privilege 0 none s)) ∧
        ((c.level = 2 ∨ part = c.pid) → well → keyUnused s2 e.imm32 →
          writeX s.cur e.d 0 (keyGone e.imm32 { s2 with keys := KV.set s2.keys e.imm32 { typ := typ, part := part, mat := b.take 64 } }) = .ok ((), t) →
          exec (.keyld e) s = .next (completed e s.cur .next t)) ∧
        ((c.level = 2 ∨ part = c.pid) → ¬ well → writeX s.cur e.d 5 s2 = .ok ((), t) → exec (.keyld e) s = .next (completed e s.cur .next t))))) ∧
  (∀ (e : Enc) (s s1 t : State), ready 0xF5 e s → e.imm32 < 8192 →
    let c := (s.slot s.cur).ctl
    let inRange := (s.part c.pid).keybase ≤ e.imm32 ∧ e.imm32 < (s.part c.pid).keybase + (s.part c.pid).keycount
    (c.level ≠ 2 → ¬ inRange → exec (.keyclr e) s = .next (faulted s.cur Cause.privilege 0 none s)) ∧
    (c.level = 2 ∨ inRange → fences s.cur s s1 → keyUnused s1 e.imm32 →
      writeX s.cur e.d 0 (keyGone e.imm32 { s1 with keys := KV.erase s1.keys e.imm32 }) = .ok ((), t) →
      exec (.keyclr e) s = .next (completed e s.cur .next t)))

/-- `uipost` (R356, R372): to an ACTIVE slot with nothing held and room in q7 the value enters q7; else it joins the held values, the ninth on being counted as
lost; to a control-core slot it also makes QUEUE pending; to a PARKED slot, or a FREE one whose context is saved, it is held, PENDING; to a HALTED slot, or a FREE one whose context is not saved, NOACT. `wdset` sets one field of LIM. -/
def Sys2Proof.Machine.Claim.UserInterruptsAndLimits : Prop :=
  (∀ (e : Enc) (s : State) (a b : Fin 32), ready 0xF6 e s → e.a = .reg a → e.b = .reg b →
    let w := (s.slot s.cur).x a
    let v := (s.slot s.cur).x b
    let x := s.slot w.toNat
    let kept := if x.uints.length < 8 then { x with uints := x.uints ++ [v] } else { x with uintLoss := if x.uintLoss < 255 then x.uintLoss + 1 else 255 }
    let open7 := x.uints = [] ∧ (x.chan 7).kind = .input ∧ (x.chan 7).entries.length < 8
    (pslotOk w.toNat = false → exec (.uipost e) s = .next (faulted s.cur Cause.illegalOperand 0 none s)) ∧
    (pslotOk w.toNat = true → ¬ namesSlot s w → exec (.uipost e) s = .next (faulted s.cur Cause.privilege 0 none s)) ∧
    (namesSlot s w → (s.slot s.cur).store = [] →
      (∀ t, isCtl w.toNat = false → x.st = .active → open7 → writeX s.cur e.d 0 (s.setSlot w.toNat (x.setChan 7 ((x.chan 7).push s.cycle (v.setWidth 128)))) = .ok ((), t) →
        exec (.uipost e) s = .next (completed e s.cur .next t)) ∧
      (∀ t, isCtl w.toNat = true → x.st = .active → writeX s.cur e.d 0 ((s.setSlot w.toNat (if x.uints.isEmpty && q7Open x then x.setChan 7 ((x.chan 7).push s.cycle (v.setWidth 128))
          else kept)).modPart x.ctl.pid (fun y => { y with pendQueue := true })) = .ok ((), t) → exec (.uipost e) s = .next (completed e s.cur .next t)) ∧
      (∀ t, isCtl w.toNat = false → x.st = .active → ¬ open7 → writeX s.cur e.d 0 (s.setSlot w.toNat kept) = .ok ((), t) → exec (.uipost e) s = .next (completed e s.cur .next t)) ∧
      (∀ t, x.st = .parked → writeX s.cur e.d 7 (s.setSlot w.toNat kept) = .ok ((), t) → exec (.uipost e) s = .next (completed e s.cur .next t)) ∧
      (∀ t, x.st = .halted ∨ (x.st = .free ∧ (x.savedFrom = none ∨ ∃ k, x.savedFrom = some k ∧ ∀ c ∈ s.saved, c.act ≠ k)) → writeX s.cur e.d 1 s = .ok ((), t) →
        exec (.uipost e) s = .next (completed e s.cur .next t)) ∧
      (∀ t k, x.st = .free → x.savedFrom = some k → (∃ c ∈ s.saved, c.act = k) → writeX s.cur e.d 7 { s with saved := s.saved.map (fun c => if c.act ≠ k then c
          else if c.uints.length < 8 then { c with uints := c.uints ++ [v] } else { c with uintLoss := if c.uintLoss < 255 then c.uintLoss + 1 else 255 }) } = .ok ((), t) →
        exec (.uipost e) s = .next (completed e s.cur .next t)))) ∧
  (∀ (view : Bool) (e : Enc) (s : State) (n : Nat), ready 0xF7 e s →
    (∀ v, e.ext = .imm32 v → n = v.toNat) → ((∀ v, e.ext ≠ .imm32 v) → ∃ r : Fin 32, e.a = .reg r ∧ n = ((s.slot s.cur).x r).toNat) →
    let i := if view then Instr.wdsetView e else Instr.wdsetAct e
    let inRange := if view then 12 ≤ n ∧ n ≤ 30 else 10 ≤ n ∧ n ≤ 32
    (¬ inRange → exec i s = .next (faulted s.cur Cause.illegalOperand 0 none s)) ∧
    (inRange → exec i s = .next (completed e s.cur .next (s.modPart (s.slot s.cur).ctl.pid (fun x => { x with
      lim := BitVec.ofNat 64 (if view then n * 256 + x.lim.toNat % 64 else x.lim.toNat / 256 % 32 * 256 + n) })))))

/-- `halt` (R356, R359): `.park` of an ACTIVE slot asks its group copy to park, REQUESTED; `.stop` makes an ACTIVE slot HALTED; `.rel` makes a slot that
`halt.stop` or `trap.brk` halted ACTIVE again; `.start` starts a FREE control-core slot in the state of R359; in any other state NOACT, or BUSY for `.start`. The order
of the checks of `.start` is the model's reading, log entry 66. -/
def Sys2Proof.Machine.Claim.HaltInstructions : Prop :=
  (∀ (e : Enc) (s s1 : State) (r : Fin 32), ready 0xF9 e s → e.a = .reg r → fences s.cur s s1 →
    let w := (s.slot s.cur).x r
    let n := w.toNat
    let x := s.slot n
    namesSlot s w →
    (x.st = .active → (∃ s2, s2.mem = s.mem ∧ (if isCtl n then (s2.slot n).parkReq = true else (s2.ginst x.ginst).parkReq = true) ∧
      ∀ t, writeX s.cur e.d 8 s2 = .ok ((), t) → exec (.haltPark e) s = .next (completed e s.cur .next t))) ∧
    (x.st ≠ .active → ∀ t, writeX s.cur e.d 1 s1 = .ok ((), t) → exec (.haltPark e) s = .next (completed e s.cur .next t)) ∧
    (x.st = .active → ∀ t, writeX s.cur e.d 0 (s1.setSlot n { x with st := .halted, halt := .stop, wdSaved := s.cycle }) = .ok ((), t) →
      exec (.haltStop e) s = .next (completed e s.cur .next t)) ∧
    (x.st ≠ .active → ∀ t, writeX s.cur e.d 1 s1 = .ok ((), t) → exec (.haltStop e) s = .next (completed e s.cur .next t)) ∧
    (x.st = .halted → x.halt = .stop ∨ x.halt = .brk → ∀ t,
      writeX s.cur e.d 0 (s1.setSlot n { x with st := .active, halt := .none, wdBase := x.wdBase + ((s.cycle : Int) - x.wdSaved), wdSaved := 0 }) = .ok ((), t) →
      exec (.haltRel e) s = .next (completed e s.cur .next t)) ∧
    (¬ (x.st = .halted ∧ (x.halt = .stop ∨ x.halt = .brk)) → ∀ t, writeX s.cur e.d 1 s1 = .ok ((), t) →
      exec (.haltRel e) s = .next (completed e s.cur .next t))) ∧
  (∀ (e : Enc) (s : State) (r : Fin 32), ready 0xF9 e s → e.a = .reg r → ¬ namesSlot s ((s.slot s.cur).x r) →
    let c := if pslotOk ((s.slot s.cur).x r).toNat = true then Cause.privilege else Cause.illegalOperand
    exec (.haltPark e) s = .next (faulted s.cur c 0 none s) ∧ exec (.haltStop e) s = .next (faulted s.cur c 0 none s) ∧
    exec (.haltRel e) s = .next (faulted s.cur c 0 none s)) ∧
  (∀ (e : Enc) (s s1 s2 : State) (ra rb : Fin 32) (b : List Byte), ready 0xF9 e s → e.a = .reg ra → e.b = .reg rb → fences s.cur s s1 →
    let w := (s.slot s.cur).x ra
    let n := w.toNat
    let a := ((s.slot s.cur).x rb).toNat
    let c := (s.slot s.cur).ctl
    let lv := fieldAt b 8 1
    let pid := fieldAt b 9 1
    let pc := fieldAt b 0 8
    let vec := fieldAt b 24 8
    let well := pc % 4 = 0 ∧ pc % 32 ≠ 28 ∧ vec % 32 = 0 ∧ (lv = 1 ∨ lv = 2) ∧ pid < 16 ∧ zeroAt b 10 6 = true ∧
      (c.level = 2 → lv = 1 → (s2.part pid).en = true ∧ maskHasCc (s2.part pid) (ccNumber n) = true)
    namesSlot s w →
    (isCtl n = false → exec (.haltStart e) s = .next (faulted s.cur Cause.illegalOperand 0 none s)) ∧
    (isCtl n = true → a % 16 = 0 → loadBytes s.cur a 32 s1 = .ok (b, s2) → (s2.slot s.cur).ctl = c →
      (c.level ≠ 2 → lv = 2 ∨ pid ≠ c.pid → exec (.haltStart e) s = .next (faulted s.cur Cause.privilege 0 none s)) ∧
      ((c.level = 2 ∨ (lv ≠ 2 ∧ pid = c.pid)) →
        (¬ well → ∀ t, writeX s.cur e.d 5 s2 = .ok ((), t) → exec (.haltStart e) s = .next (completed e s.cur .next t)) ∧
        (well → (s2.slot n).st ≠ .free → ∀ t, writeX s.cur e.d 3 s2 = .ok ((), t) → exec (.haltStart e) s = .next (completed e s.cur .next t)) ∧
        (well → (s2.slot n).st = .free → ∃ s3, s3.mem = s2.mem ∧ (s3.slot n).st = .active ∧ (s3.slot n).pc = pc ∧
          (s3.slot n).x 1 = BitVec.ofNat 64 (fieldAt b 16 8) ∧ (∀ k, k < 32 → k ≠ 1 → (s3.slot n).x k = 0) ∧ (∀ k, (s3.slot n).vreg k = 0) ∧
          (s3.slot n).preds = 0 ∧ (s3.slot n).fcs = 0 ∧ (s3.slot n).strms = [] ∧ ((s3.slot n).chan 7).kind = .input ∧
          (∀ k, k < 7 → ((s3.slot n).chan k).kind = .unbound) ∧ (s3.slot n).ctl.level = lv ∧ (s3.slot n).ctl.pid = pid ∧ (s3.slot n).ctl.mie = false ∧
          (s3.slot n).ctl.sie = false ∧ (s3.slot n).ctl.mpl = 0 ∧ (s3.slot n).ctl.spl = 0 ∧
          (lv = 1 → (s3.slot n).ctl.ptbase = (s2.part pid).proot ∧ (s3.slot n).ctl.svec = BitVec.ofNat 64 vec) ∧
          (lv = 2 → (s3.slot n).ctl.mvec = BitVec.ofNat 64 vec) ∧
          ∀ t, writeX s.cur e.d 0 s3 = .ok ((), t) → exec (.haltStart e) s = .next (completed e s.cur .next t)))))

/-! ### Parking, saving and restoring -/

/-- `xsave` (R356, R382, R388): a FREE or HALTED slot gives NOACT, an ACTIVE one NOTPARKED or, with a park request, waits; a PARKED one's context is written at
X(A), aligned to 256, as a slot area when another act or boundary context of the group copy is left on the core, and with the core part when it is the last, once the instance is at rest, or,
of a slot area, no reply is outstanding, and no Juggler work of the launch is open on the core; that of a control-core slot is a slot area. The slot becomes FREE, and its context is
saved. A slot is saved before the instance is at rest by log entry 60 (DEDUCED); the marks of poisoned scratchpad granules, of which there are none here, log 122. -/
def Sys2Proof.Machine.Claim.SaveInstruction : Prop :=
  ∀ (e : Enc) (s s1 s2 : State) (ra rb : Fin 32), ready 0xF0 e s → e.a = .reg ra → e.b = .reg rb → fences s.cur s s1 →
    let w := (s.slot s.cur).x rb
    let n := w.toNat
    let a := ((s.slot s.cur).x ra).toNat
    let x := s.slot n
    let g := x.ginst
    let others := ∃ k, k < 4 ∧ coreOf n + k ≠ n ∧ (s.slot (coreOf n + k)).st ≠ .free ∧ (s.slot (coreOf n + k)).launch ≠ none ∧ (s.slot (coreOf n + k)).ginst = g
    let slotBytes := if x.boundary then zeros 0x12C0 else slotPart s1 n x
    namesSlot s w →
    (x.st = .free ∨ x.st = .halted → ∀ t, writeX s.cur e.d 1 s1 = .ok ((), t) → exec (.xsave e) s = .next (completed e s.cur .next t)) ∧
    (x.st = .active → x.parkReq = false → ∀ t, writeX s.cur e.d 2 s1 = .ok ((), t) → exec (.xsave e) s = .next (completed e s.cur .next t)) ∧
    (x.st = .active → x.parkReq = true → exec (.xsave e) s = .next (notReady e s.cur s)) ∧
    (x.st = .parked → a % 256 ≠ 0 → exec (.xsave e) s = .next (faulted s.cur (Cause.misalign + 2) (BitVec.ofNat 64 a) none s)) ∧
    (x.st = .parked → a % 256 = 0 → isCtl n = false → others →
      (s.ginst g).quiesced = true ∨ x.replies = 0 → ownWork (x.launch.getD 0) (s.core (coreOf n)).jug.queue = false → (s.ginst g).back.contains x.vcore = false →
      storeDirect s.cur a (areaHeader s1 n x false 0x1300 ++ slotBytes) s1 = .ok ((), s2) →
      ∀ t, writeX s.cur e.d 0 ({ s2 with saved := s2.saved ++ [savedOf n x], net := s2.net.filter (fun i => !(i.src == n && inChannel s2 i)) }.modSlot n (fun u => { u.freed with savedFrom := some u.act })) = .ok ((), t) →
        exec (.xsave e) s = .next (completed e s.cur .next t)) ∧
    (x.st = .parked → a % 256 = 0 → isCtl n = true → storeDirect s.cur a (areaHeader s1 n x false 0x1300 ++ slotPart s1 n x) s1 = .ok ((), s2) →
      ∀ t, writeX s.cur e.d 0 ({ s2 with saved := s2.saved ++ [{ savedOf n x with launch := 2 ^ 20 }] }.modSlot n (fun u => { u.freed with savedFrom := some u.act })) = .ok ((), t) →
        exec (.xsave e) s = .next (completed e s.cur .next t)) ∧
    (x.st = .parked → a % 256 = 0 → isCtl n = false → (¬ others ∧ (s.ginst g).quiesced = false) ∨ ownWork (x.launch.getD 0) (s.core (coreOf n)).jug.queue = true → exec (.xsave e) s = .next (notReady e s.cur s)) ∧
    (∀ nacts size tail, x.st = .parked → a % 256 = 0 → isCtl n = false → ¬ others → (s.ginst g).quiesced = true → (s.ginst g).back.contains x.vcore = false →
      ownWork (x.launch.getD 0) (s.core (coreOf n)).jug.queue = false → marksOf s1 n nacts = [] →
      nacts = (s.saved.filter (fun y => y.ginst == g && y.vcore == x.vcore && !y.boundary)).length + (if x.boundary then 0 else 1) →
      tail = corePart s1 n nacts → size = alignUp 256 (0x1300 + tail.length) →
      (let body := areaHeader s1 n x true size ++ slotBytes ++ tail
       storeDirect s.cur a (body ++ zeros (size - body.length)) s1 = .ok ((), s2)) → s2.slots = s1.slots →
      ∃ s3, ((s2.ginst g).regions = [] → s3.mem = s2.mem) ∧ (s3.slot n).st = .free ∧ (s3.slot n).savedFrom = some (s2.slot n).act ∧ coreOfV s3 g x.vcore = none ∧
        (∀ y ∈ (s3.core (coreOf n)).tags, y.ginst ≠ g) ∧ s3.saved = s2.saved ++ [savedOf n x] ∧
        ∀ t, writeX s.cur e.d 0 s3 = .ok ((), t) → exec (.xsave e) s = .next (completed e s.cur .next t))

/-- What a save area holds is what a restore gives back (R384, R389): the registers, predicates and vector registers that the live mask names, the program counter,
FCS, RTO, WP with the frame records, the watchdog count, the outstanding replies, and ACTLN without its reserved bits; a register the mask does not name reads zero. -/
def Obligations.SaveAreaRoundTrip : Prop :=
  ∀ (s s' : State) (t : Slot) (core : Bool) (size p q : Nat) (v : Saved) (rest : List Byte), t.boundary = false → t.pc < 2 ^ 64 → t.offs ≤ 168 → t.frame < 256 →
    t.frames.length ≤ 32 → (∀ f ∈ t.frames, f.link < 2 ^ 64 ∧ f.callee < 256 ∧ f.caller < 256) → t.wdSaved < 2 ^ 64 → t.replies < 256 →
    let u := restoredSlot s' (areaHeader s q t core size ++ slotPart s q t ++ rest) v p
    u.st = .parked ∧ u.pc = t.pc ∧ u.fcs = t.fcs ∧ u.rto = t.rto ∧ u.offs = t.offs ∧ u.frame = t.frame ∧ u.frames = t.frames ∧ u.wdSaved = t.wdSaved ∧
    u.replies = t.replies ∧ u.live = t.live ∧ u.actln = t.actln &&& 0xFFFFFF8FFFFFFFFF ∧
    (∀ n, 0 < n → n < 32 → u.x n = if liveX t.live n then t.x n else 0) ∧ (∀ k, k < 32 → u.vreg k = if liveV t.live k then t.vreg k else 0) ∧
    (∀ j, 0 < j → j < 8 → u.p j = (liveP t.live j && t.p j))

/-- `xrest` (R356, R388, R389): BUSY for a slot that is not FREE; before that MISALIGN (the order is log entry 66, DEDUCED); PRIVILEGE for a slot outside the clusters of the partition the area names; BADAREA for an area
that fails its checks; a slot area restores the act in the slot, PARKED until its group copy resumes (R390). -/
def Sys2Proof.Machine.Claim.RestoreInstruction : Prop :=
  ∀ (e : Enc) (s s1 s2 s3 s4 : State) (ra rb : Fin 32) (h b : List Byte) (v : Saved), ready 0xF1 e s → e.a = .reg ra → e.b = .reg rb → fences s.cur s s1 →
    let w := (s.slot s.cur).x rb
    let n := w.toNat
    let a := ((s.slot s.cur).x ra).toNat
    let x := s.slot n
    namesSlot s w →
    (a % 256 ≠ 0 → exec (.xrest e) s = .next (faulted s.cur (Cause.misalign + 1) (BitVec.ofNat 64 a) none s)) ∧
    (a % 256 = 0 → x.st ≠ .free → ∀ t, writeX s.cur e.d 3 s1 = .ok ((), t) → exec (.xrest e) s = .next (completed e s.cur .next t)) ∧
    (a % 256 = 0 → x.st = .free → loadBytes s.cur a 64 s1 = .ok (h, s2) →
      (isCtl n = true ∨ maskHas (s2.part (fieldAt h 11 1 % 16)) (clusterOf n) = false → s2.parts = s1.parts →
        exec (.xrest e) s = .next (faulted s.cur Cause.privilege 0 none s)) ∧
      (isCtl n = false → maskHas (s1.part (fieldAt h 11 1 % 16)) (clusterOf n) = true →
        (areaHeaderOk h = false → ∀ t, writeX s.cur e.d 4 s2 = .ok ((), t) → exec (.xrest e) s = .next (completed e s.cur .next t)) ∧
        (areaHeaderOk h = true → 0x1300 ≤ areaSize h → areaSize h ≤ 2 ^ 20 → loadBytes s.cur a (areaSize h) s2 = .ok (b, s3) →
          (areaOk s3 b s.cur n = none → ∀ t, writeX s.cur e.d 4 s3 = .ok ((), t) → exec (.xrest e) s = .next (completed e s.cur .next t)) ∧
          (areaOk s3 b s.cur n = some (v, s4) → areaCore b = false → areaBoundary b = false → ∃ s5, s5.mem = s4.mem ∧ s5.slot n = restoredSlot s4 b v n ∧
            (∀ y ∈ s5.saved, ¬ (y.act = v.act ∧ y.boundary = v.boundary ∧ y.ginst = v.ginst ∧ y.vcore = v.vcore)) ∧
            ∀ t, writeX s.cur e.d 0 s5 = .ok ((), t) → exec (.xrest e) s = .next (completed e s.cur .next t)))))

/-- Parking and resuming (R380 to R382, R390, R372): an act asked to park that stands at a safe point, with nothing sent or stored outstanding, is PARKED, unless its watchdog is due, its hold released
and its channels outside the live mask unbound; a group copy at rest is quiesced, its re-issuable copies recorded; one wholly restored resumes, its acts ACTIVE
and their watchdogs from the saved counts; a held interrupt value moves to q7. -/
def Sys2Proof.Machine.Claim.ParkingEvents : Prop :=
  (∀ (p : Nat) (s : State), running s → (s.slot p).st = .active → (s.slot p).parkReq = true → (s.slot p).safe = true → (s.slot p).wait = .none → watchdogDue s p = false →
    (s.slot p).store = [] → (s.slot p).loads = [] → (∀ i ∈ s.net, ¬ (i.src = p ∧ i.isMessage = true ∧ i.act = (s.slot p).act)) →
    ∃ t, exec (.actPark p) s = .next t ∧ (t.slot p).st = .parked ∧ (t.slot p).hold = none ∧ (t.slot p).pc = (s.slot p).pc ∧ (t.slot p).xg = (s.slot p).xg ∧
      (t.slot p).win = (s.slot p).win ∧ (t.slot p).v = (s.slot p).v ∧ (t.slot p).wdSaved = ((s.cycle : Int) - (s.slot p).wdBase).toNat ∧ t.mem = s.mem ∧
      (∀ q, q < 8 → (t.slot p).chan q = if liveQ (s.slot p).live q then (s.slot p).chan q else {})) ∧
  (∀ (g : Nat) (s : State), running s → canQuiesce s g = true → ∃ t, exec (.quiesce g) s = .next t ∧ (t.ginst g).quiesced = true ∧ t.mem = s.mem ∧ t.slots = s.slots ∧
    (∀ c ∈ (s.ginst g).cores, ∀ y ∈ (t.core c.2).copyq, y.org.ginst ≠ g)) ∧
  (∀ (g : Nat) (s : State), running s → (s.ginst g).quiesced = true → (s.ginst g).savedCores = [] → 0 < (s.ginst g).ncores →
    (s.ginst g).back.length = (s.ginst g).ncores → (s.ginst g).owed = 0 →
    ∃ t, exec (.instanceResume g) s = .next t ∧ t.mem = s.mem ∧ (t.ginst g).parkReq = false ∧ (t.ginst g).quiesced = false ∧
      ∀ p, (s.slot p).liveIn g = true → (s.slot p).st = .parked →
        (t.slot p).st = .active ∧ (t.slot p).wdBase = (s.cycle : Int) - (s.slot p).wdSaved ∧ (t.slot p).pc = (s.slot p).pc ∧ (t.slot p).xg = (s.slot p).xg ∧ (t.slot p).win = (s.slot p).win) ∧
  (∀ (p : Nat) (v : Word) (r : List Word) (s : State), running s → (s.slot p).uints = v :: r → (s.slot p).st = .active → ((s.slot p).chan 7).kind = .input →
    ((s.slot p).chan 7).entries.length < 8 → ∃ t, exec (.uintPendingDeliver p) s = .next t ∧ (t.slot p).uints = r ∧ t.mem = s.mem ∧
      (t.slot p).chan 7 = ((s.slot p).chan 7).push s.cycle (v.setWidth 128))

/-- `qexp` and `qimp` (R356, R374, R375): the word names queue [5:0] of die [7:6] for PID; NOACT for a queue the partition has not, BUSY for a full export of one not
stopped; else the image is written and X(D) holds OK and its size in bits [63:32], and a dirty export, which reports the marks, clears them. `qimp` gives BUSY for a queue that another partition holds or that is not
stopped, BADIMG for a bad header; an image without a queue deletes the queue; one with a queue and no launch installs it, with its indices
written to the QCB. A word with a bit above 7 raises ILLEGAL-OPERAND; that, and what another partition's queue gives, is log entry 67 (DEDUCED). -/
def Obligations.QueueImages : Prop :=
  (∀ (full : Bool) (e : Enc) (s s1 s2 : State) (ra rb : Fin 32), ready 0xF2 e s → e.a = .reg ra → e.b = .reg rb → fences s.cur s s1 →
    let a := ((s.slot s.cur).x ra).toNat
    let k := ((s.slot s.cur).x rb).toNat
    let pid := (s.slot s.cur).ctl.pid
    let i := if full then Instr.qexpFull e else Instr.qexpDirty e
    (256 ≤ k → exec i s = .next (faulted s.cur Cause.illegalOperand 0 none s)) ∧
    (k < 256 → a % 64 ≠ 0 → exec i s = .next (faulted s.cur (Cause.misalign + 2) (BitVec.ofNat 64 a) none s)) ∧
    (k < 256 → a % 64 = 0 → (∀ q, KV.find? s.queues k = some q → q.part ≠ pid) → ∀ t, writeX s.cur e.d 1 s1 = .ok ((), t) → exec i s = .next (completed e s.cur .next t)) ∧
    (∀ q, k < 256 → a % 64 = 0 → KV.find? s.queues k = some q → q.part = pid → full = true → q.stopped = false →
      ∀ t, writeX s.cur e.d 3 s1 = .ok ((), t) → exec i s = .next (completed e s.cur .next t)) ∧
    (∀ q, k < 256 → a % 64 = 0 → KV.find? s.queues k = some q → q.part = pid → full = false ∨ q.stopped = true →
      let img := if full then fullImage s1 q else dirtyImage s1 q
      storeDirect s.cur a img s1 = .ok ((), s2) → ∀ t, writeX s.cur e.d (BitVec.ofNat 64 (img.length * 2 ^ 32)) (if full then s2 else s2.modQueue k (fun q => { q with dovf := false, exported := s2.cycle })) = .ok ((), t) →
      exec i s = .next (completed e s.cur .next t))) ∧
  (∀ (s : State) (q : Queue), (fullImage s q).take 4 = [0x51, 0x49, 0x4D, 0x47] ∧ (fullImage s q).length = 128 + 64 * (recorded s q).length ∧
    (q.qcb < 2 ^ 64 → fieldAt (fullImage s q) 8 8 = q.qcb) ∧ (q.ring < 2 ^ 64 → fieldAt (fullImage s q) 16 8 = q.ring) ∧
    (q.head < 2 ^ 32 → fieldAt (fullImage s q) 36 4 = q.head) ∧ (q.ctail < 2 ^ 32 → fieldAt (fullImage s q) 40 4 = q.ctail)) ∧
  (∀ (e : Enc) (s s1 s2 s3 : State) (ra rb : Fin 32) (h b : List Byte), ready 0xF3 e s → e.a = .reg ra → e.b = .reg rb → fences s.cur s s1 →
    let a := ((s.slot s.cur).x ra).toNat
    let k := ((s.slot s.cur).x rb).toNat
    let pid := (s.slot s.cur).ctl.pid
    let busy := ∃ q, KV.find? s.queues k = some q ∧ (q.part ≠ pid ∨ q.stopped = false)
    k < 256 → a % 64 = 0 →
    (busy → ∀ t, writeX s.cur e.d 3 s1 = .ok ((), t) → exec (.qimp e) s = .next (completed e s.cur .next t)) ∧
    (¬ busy → loadBytes s.cur a 128 s1 = .ok (h, s2) →
      (imageOk s2 pid h = false → ∀ t, writeX s.cur e.d 6 s2 = .ok ((), t) → exec (.qimp e) s = .next (completed e s.cur .next t)) ∧
      (imageOk s2 pid h = true → fieldAt h 34 1 = 0 → fieldAt h 7 1 % 2 = 0 → loadBytes s.cur (a + 128) 0 s2 = .ok (b, s3) →
        KV.find? (dropQueue k s3).queues k = none ∧ ∀ t, writeX s.cur e.d 0 (dropQueue k s3) = .ok ((), t) → exec (.qimp e) s = .next (completed e s.cur .next t)) ∧
      (∀ (s4 s5 s6 s7 : State) (c : List Byte), imageOk s2 pid h = true → fieldAt h 34 1 = 0 → fieldAt h 7 1 % 2 = 1 → loadBytes s.cur (a + 128) 0 s2 = .ok (b, s3) →
        let q : Queue := { part := pid, qcb := fieldAt h 8 8, ring := fieldAt h 16 8, cring := fieldAt h 24 8, rlog := fieldAt h 32 1, clog := fieldAt h 33 1
                           head := fieldAt h 36 4, ctail := fieldAt h 40 4, stopped := fieldAt h 7 1 / 2 % 2 == 1 }
        s4 = { dropQueue k s3 with queues := KV.set (dropQueue k s3).queues k { q with exported := s3.cycle } } → readQcb q s4 = .ok (c, s5) →
        partWrite pid (q.qcb + 4) (leBytes 4 q.head) s5 = .ok ((), s6) → partWrite pid (q.qcb + 16) (leBytes 4 q.ctail) s6 = .ok ((), s7) →
        ∀ s8, writeQcbFlags q c s7 = .ok ((), s8) → ∀ t, writeX s.cur e.d 0 (s8.modQueue k (fun q => { q with stopSeen := qcbStop c })) = .ok ((), t) →
        exec (.qimp e) s = .next (completed e s.cur .next t))))

/-! ### The network and the start of acts -/

/-- The event that item `n` of the network arrives by: a first attempt, or a retry whose time has come. -/
def Sys2Proof.Machine.arrivesBy (retry : Bool) (n : Nat) (i : NetItem) (s : State) : Prop :=
  running s ∧ s.net[n]? = some i ∧ mayArrive s n i = true ∧ (if retry then ∃ c, i.retryAt = some c ∧ c ≤ s.cycle else i.retryAt = none)

/-- PACKET_ARRIVAL and PACKET_RETRY (R20, R26, R126, R128, R413): an item of an ended launch is discarded; one for another device leaves; of the others, a packet for a free
tag is discarded and counted; one for a bound channel with room and nothing parked before it enters the channel; one that no channel can take and no handler has is parked, with
room for 32; one for a tag with a handler enters the inbox as the start of an act; a message enters its core's inbox, with room for 32; a command enters the queue of its copy engine (16), matrix
unit (8), Juggler (4) or stack dot units (8), with room, or that of the collective engine of a die; and one that finds no room stays and is retried 64 cycles later. What another device does with
an item for it, and whether it answers and takes it, is log entry 99 (DEDUCED). -/
def Sys2Proof.Machine.Claim.Arrival : Prop :=
  ∀ (retry : Bool) (n : Nat) (i : NetItem) (s : State), arrivesBy retry n i s →
    let ev := if retry then Instr.packetRetry n else Instr.packetArrival n
    let gone := { s with net := s.net.eraseIdx n }
    let refused := { s with net := s.net.set n { i with retryAt := some (s.cycle + 64) } }
    let ended := launchEnding s i.launch = true ∨ (s.launch i.launch).st.terminal = true
    let here := ¬ ended ∧ i.dst < farBase
    let peer := KV.get ({ } : Peer) s.peers ((i.dst - farBase) / 2 ^ 21 * 16 + (s.launch i.launch).part)
    let parked := fun (k : Parked) => k.ginst = i.ginst ∧ k.tag = i.tag
    (ended → happens ev s gone) ∧
    (¬ ended → farBase ≤ i.dst → peer.answers = true → peer.takes = true → happens ev s (gone.modGinst i.ginst (fun g => { g with farActs := g.farActs + 1 }))) ∧
    (¬ ended → farBase ≤ i.dst → peer.answers = false ∨ peer.takes = false → happens ev s refused) ∧
    (here → i.kind = .packet → tagOf s i.dst i.ginst i.tag = none →
      happens ev s (gone.modCore i.dst (fun c => { c with discarded := c.discarded + 1 }))) ∧
    (∀ t p q, here → i.kind = .packet → tagOf s i.dst i.ginst i.tag = some t → (∀ k ∈ (s.core i.dst).parking, ¬ parked k) →
      boundAt s i.dst i.ginst i.tag = some (p, q) → (s.slot p).st = .active → ((s.slot p).chan q).entries.length < 8 →
      happens ev s (gone.modSlot p (fun x => x.setChan q ((x.chan q).push s.cycle (vecOfBytes i.data))))) ∧
    (∀ t, here → i.kind = .packet → tagOf s i.dst i.ginst i.tag = some t → t.handler = none →
      (∀ p q, boundAt s i.dst i.ginst i.tag = some (p, q) → (s.slot p).st ≠ .active ∨ 8 ≤ ((s.slot p).chan q).entries.length) →
      ((s.core i.dst).parking.length < 32 → happens ev s (gone.modCore i.dst (fun c => { c with
        parking := c.parking ++ [{ ginst := i.ginst, tag := i.tag, data := vecOfBytes i.data, launch := i.launch, at_ := s.cycle }] }))) ∧
      (32 ≤ (s.core i.dst).parking.length → happens ev s refused)) ∧
    (here → i.kind = .start ∨ i.kind = .code ∨ i.kind = .row ∨ i.kind = .port ∨ i.kind = .park →
      ((s.core i.dst).inbox.length < 32 → happens ev s (gone.modCore i.dst (fun c => { c with inbox := c.inbox ++ [{ i with retryAt := none, at_ := s.cycle }] }))) ∧
      (32 ≤ (s.core i.dst).inbox.length → happens ev s refused)) ∧
    (∀ t h, here → i.kind = .packet → tagOf s i.dst i.ginst i.tag = some t → t.handler = some h →
      (∀ p q, boundAt s i.dst i.ginst i.tag = some (p, q) → (s.slot p).st ≠ .active ∨ 8 ≤ ((s.slot p).chan q).entries.length) →
      ((s.core i.dst).inbox.length < 32 → happens ev s (gone.modCore i.dst (fun c => { c with
        inbox := c.inbox ++ [{ i with kind := .packet, launch := t.launch, handler := h, retryAt := none, at_ := s.cycle }] }))) ∧
      (32 ≤ (s.core i.dst).inbox.length → happens ev s refused)) ∧
    (here → i.kind = .command → msgTgt i.data = 1 →
      ((s.core i.dst).mx.queue.length < 8 → happens ev s (gone.modCore i.dst (fun c => { c with mx := { c.mx with
        queue := c.mx.queue ++ [entryOf i], accepted := (c.mx.accepted + 1) % 2 ^ 32 } }))) ∧
      (8 ≤ (s.core i.dst).mx.queue.length → happens ev s refused)) ∧
    (here → i.kind = .command → msgTgt i.data = 3 →
      ((s.core i.dst).jug.queue.length < 4 → happens ev s (gone.modCore i.dst (fun c => { c with jug := { c.jug with queue := c.jug.queue ++ [entryOf i] } }))) ∧
      (4 ≤ (s.core i.dst).jug.queue.length → happens ev s refused)) ∧
    (here → i.kind = .command → msgTgt i.data = 4 →
      ((s.cluster i.dst).sdq.length < 8 → happens ev s (gone.modCluster i.dst (fun c => { c with sdq := c.sdq ++ [entryOf i] }))) ∧
      (8 ≤ (s.cluster i.dst).sdq.length → happens ev s refused)) ∧
    (here → i.kind = .command → msgTgt i.data = 5 → happens ev s (gone.modDie i.dst (fun d => { d with collIn := d.collIn ++ [i] }))) ∧
    (here → i.kind = .command → msgTgt i.data = 2 →
      ((s.core i.dst).copyq.length < 16 → happens ev s (gone.modCore i.dst (fun c => { c with copyq := c.copyq ++ [entryOf i] }))) ∧
      (16 ≤ (s.core i.dst).copyq.length → happens ev s refused))

/-- INBOX_TAKE (R10, R15): a FREE slot takes the first message of the highest rank that it may take, row handlers before priority. An act that a launch started begins at its
handler with x1 to x7 from the message, one that a packet started with the route word in x1 and the packet in v0, one of a code message at its payload with the argument in x1 and the header in x7
(R136), a row handler with row and tile in x1 and x2 and the row in v28 to v31 (R257), one of a port with x1 to x3 from the landing (R425); every other register and predicate reads zero, every channel is
unbound, OFFS and DEPTH are 0, no reply is outstanding, and FCS holds the launch's rounding mode. -/
def Sys2Proof.Machine.Claim.ActStart : Prop :=
  ∀ (p : Nat) (i : NetItem) (before behind : List NetItem) (s : State), running s → computeSlot p = true → (s.slot p).st = .free →
    (s.core (coreOf p)).mx.owner = none → (s.core (coreOf p)).inbox = before ++ i :: behind → takeable s p i = true →
    (∀ j ∈ before, takeable s p j = true → inboxRank j < inboxRank i) → (∀ j ∈ behind, takeable s p j = true → inboxRank j ≤ inboxRank i) →
    i.formula = none → i.kind ≠ .park → i.regs.length ≤ 7 →
    let l := s.launch i.launch
    let h := ((s.obj l.objKey).handlers)[i.handler]?
    ∃ t, exec (.inboxTake p) s = .next t ∧ t.mem = s.mem ∧ (t.core (coreOf p)).inbox = before ++ behind ∧
      let x := t.slot p
      x.st = .active ∧ x.launch = some i.launch ∧ x.ginst = i.ginst ∧ x.vcore = i.vcore ∧ x.feat = l.feat ∧ x.preds = 0 ∧ x.chans = [] ∧ x.strms = [] ∧
      x.offs = 0 ∧ x.frames = [] ∧ x.fcs = BitVec.ofNat 64 l.rm ∧ x.hold = none ∧ x.view = none ∧ x.store = (s.slot p).store ∧
      (i.kind = .code → x.pc = 0 ∧ x.payload = some i.data ∧ x.frame = 0) ∧
      (∀ d, i.kind ≠ .code → h = some d → x.pc = d.addr ∧ x.payload = none ∧ x.frame = d.frame) ∧
      x.replies = 0 ∧
      (∀ k, 1 ≤ k → k < 32 → x.x k = match i.kind with
        | .start => if k ≤ 7 then i.regs.getD (k - 1) 0 else 0
        | .code => if k = 1 then i.regs.getD 0 0 else if k = 7 then i.regs.getD 1 0 else 0
        | .row => if k ≤ 2 then i.regs.getD (k - 1) 0 else 0
        | .port => if k ≤ 3 then i.regs.getD (k - 1) 0 else 0
        | _ => if k = 1 then BitVec.ofNat 64 (i.vcore * 2 ^ 16 + i.tag) else 0) ∧
      (∀ k, k < 32 → x.vreg k = match i.kind with
        | .packet => if k = 0 then vecOfBytes i.data else 0
        | .row => if 28 ≤ k then vecOfBytes ((i.data.drop (16 * (k - 28))).take 16) else 0
        | _ => 0)

/-- Events of a core (R15, R17, R20, R34, R179, R368): the first packet parked for a tag enters its channel when there is room; a start message that ADDR sent to a core full for 2,048
cycles, the first in its inbox that has where to go, or else the first still on the way, goes to a core of the cluster with a FREE slot and room for the regions; a slot ready for 16 cycles becomes urgent; an act whose watchdog count reaches 2^WDEXP faults with WATCHDOG; a
hold expires at its time. -/
def Obligations.CoreEvents : Prop :=
  (∀ (c n p q : Nat) (k : Parked) (s : State), running s → (s.core c).parking[n]? = some k →
    (∀ j ∈ (s.core c).parking.take n, ¬ (j.ginst = k.ginst ∧ j.tag = k.tag)) → boundAt s c k.ginst k.tag = some (p, q) → (s.slot p).st = .active →
    ((s.slot p).chan q).entries.length < 8 → happens (.parkedPacketDeliver c n) s
      ((s.modCore c (fun x => { x with parking := x.parking.eraseIdx n })).modSlot p (fun x => x.setChan q ((x.chan q).push s.cycle k.data)))) ∧
  (∀ (c d : Nat) (i : NetItem) (before behind : List NetItem) (s : State), running s → (s.core c).inbox = before ++ i :: behind → (∀ j ∈ before, fallbackTo s c j = none) →
    i.affine = true → coreFree s c = false → (s.core c).fullSince + 2048 ≤ s.cycle →
    (clusterCores (clusterOf c)).find? (fun k => k != c && coreFree s k && coreFits s k (s.launch i.launch).l1 (s.ginst i.ginst).regions) = some d →
    (s.core d).inbox.length < 32 → ∃ t, exec (.placementFallback c) s = .next t ∧ (t.core c).inbox = before ++ behind ∧
      (t.core d).inbox = (s.core d).inbox ++ [{ i with dst := d }] ∧ coreOfV t i.ginst 0 = some d ∧ t.mem = s.mem) ∧
  (∀ (c d : Nat) (i : NetItem) (before behind : List NetItem) (s : State), running s → (∀ j ∈ (s.core c).inbox, fallbackTo s c j = none) → s.net = before ++ i :: behind →
    (∀ j ∈ before, ¬ (j.affine = true ∧ j.kind = .start ∧ j.dst = c ∧ (fallbackCore s c j).isSome = true)) → i.affine = true → i.kind = .start → i.dst = c → coreFree s c = false →
    (s.core c).fullSince + 2048 ≤ s.cycle →
    (clusterCores (clusterOf c)).find? (fun k => k != c && coreFree s k && coreFits s k (s.launch i.launch).l1 (s.ginst i.ginst).regions) = some d →
    happens (.placementFallback c) s ({ s with net := before ++ behind ++ [{ i with dst := d, retryAt := none }] }.modGinst i.ginst (fun g => { g with cores := [(0, d)] }))) ∧
  (∀ (p : Nat) (s : State), running s → (s.slot p).st = .active → (s.slot p).urgent = false → 16 ≤ (s.slot p).readyFor →
    happens (.slotUrgent p) s (s.modSlot p (fun t => { t with urgent := true }))) ∧
  (∀ (p l : Nat) (s : State), running s → (s.slot p).st = .active → isCtl p = false → (s.slot p).launch = some l → (s.slot p).boundary = false → (s.launch l).st.terminal = false →
    (s.launch l).fault = none → (2 : Int) ^ ((s.part (s.launch l).part).lim.toNat % 64) ≤ (s.cycle : Int) - (s.slot p).wdBase →
    ∃ t, exec (.actWatchdog p) s = .next t ∧ t.mem = s.mem ∧ (t.launch l).st = .ending ∧ (t.slot p).st = .halted ∧ (t.launch l).fault =
      some { cause := Cause.watchdog, detail := BitVec.ofNat 64 (s.slot p).pc, where_ := p, ginst := (s.ginst (s.slot p).ginst).num }) ∧
  (∀ (p l c : Nat) (s : State), running s → (s.slot p).hold = some (l, c) → c ≤ s.cycle →
    happens (.holdExpiry p) s (s.modSlot p (fun t => { t with hold := none })))

/-- A request in a core's remote-access buffer (R138): a target that is FREE or of another launch answers status 1; an ACTIVE one, once what it has issued has written its results, gives or takes a scalar register, or gives
the head of an `.in` channel (status 3 when it is empty) or takes an entry, status 5 for a channel that is not `.in`; one that waits past its time answers status 2, or 4
where only a full channel held it. The requester then goes on with the answer. -/
def Sys2Proof.Machine.Claim.RemoteAnswers : Prop :=
  (∀ (c : Nat) (r : Remote) (rest : List Remote) (s : State), running s → (s.core c).remote = r :: rest → r.tact = 0 → (∀ x ∈ rest, x.from_ ≠ r.from_) → r.target ≠ r.from_ →
    let x := s.slot r.target
    let other := x.st = .free ∨ x.boundary = true ∨ x.launch ≠ (s.slot r.from_).launch
    let q := r.spec - 32
    let ch := x.chan q
    let answer := fun (st : Nat) (v : Word) (u : Slot) => happens (.remoteRequest c) s
      (((s.setSlot r.target u).modCore c (fun k => { k with remote := k.remote.filter (fun y => y.from_ != r.from_) })).modSlot r.from_ (fun t => { t with wait := .remoteDone st v }))
    (other → answer 1 0 x) ∧
    (¬ other → x.st = .active → x.atBoundary = true →
      (r.spec < 32 → r.put = false → answer 0 (x.x r.spec) x) ∧ (r.spec < 32 → r.put = true → answer 0 0 (x.setX r.spec r.value)) ∧
      (32 ≤ r.spec → ch.kind ≠ .input → answer 5 0 x) ∧
      (32 ≤ r.spec → ch.kind = .input → r.put = false → ch.entries = [] → answer 3 0 x) ∧
      (∀ v l, 32 ≤ r.spec → ch.kind = .input → r.put = false → ch.entries = v :: l → answer 0 (v.setWidth 64) x) ∧
      (32 ≤ r.spec → ch.kind = .input → r.put = true → ch.entries.length < 8 → answer 0 0 (x.setChan q (ch.push s.cycle (r.value.setWidth 128)))))) ∧
  (∀ (p target since : Nat) (r : Remote) (s : State), running s → (s.slot p).wait = .remote target since →
    (s.core (coreOf target)).remote.find? (fun x => x.from_ == p) = some r → remoteAnswer s r = none → (s.slot target).st ≠ .active ∨ (s.slot target).atBoundary = true → since + r.timeout ≤ s.cycle → r.from_ = p →
    let full := (s.slot target).st = .active ∧ (r.tact = 0 ∨ (s.slot target).act = r.tact)
    ∃ t, exec (.remoteTimeout p) s = .next t ∧ (t.slot p).wait = .remoteDone (if full then 4 else 2) 0 ∧ (∀ x ∈ (t.core (coreOf target)).remote, x.from_ ≠ p) ∧ t.mem = s.mem)

/-! ### Engines -/

/-- The head entry of a queue is `e`, and its engine may work on it. -/
def Sys2Proof.Machine.headOf (q : EngQ) (e : Entry) (s : State) : Prop := q.head s = some e ∧ engineOn s e.org = true

/-- The core of an entry's sender is in the machine: its part is not saved (R386). -/
def Sys2Proof.Machine.senderHere (o : Origin) (s : State) : Prop := (coreOfV s o.ginst o.vcore).isSome = true ∨ o.vcore ∉ (s.ginst o.ginst).savedCores

/-- A launch's first fault, as an engine records it (R26, R28). -/
def Sys2Proof.Machine.engineFault (l cause : Nat) (t : State) : Prop := ∃ f, (t.launch l).fault = some f ∧ f.cause = cause ∧ (t.launch l).st = .ending

/-- The copy engine (R35, R182, R183, R444), serving a core's queue in its turn: a bad command ends its launch with COPY; LEN 0 credits a named object with 0 bytes and completes at once; otherwise the entry starts, and each beat reads and writes as many bytes as reach
the next 64-byte boundary of the destination, credits the object with them, and after the last the entry leaves with its reply. A join leaves every queue it stands at the head of at once (R187). The
reply of a sender whose core part is saved waits with the packets that the part's restoring parks, log entry 124 (DESIGN CHOICE). -/
def Sys2Proof.Machine.Claim.CopyEngine : Prop :=
  (∀ (c : Nat) (e : Entry) (s : State), running s → headOf (.copy c) e s → copyTurnOf s c = true → e.started = false →
    (copyOk s (EngQ.who s e.org (.copy c)) e.msg = false → (s.launch e.org.launch).fault = none → (s.launch e.org.launch).st.terminal = false →
      ∃ t, exec (.copyCommand c) s = .next t ∧ engineFault e.org.launch Cause.copy t ∧ t.mem = s.mem) ∧
    (copyOk s (EngQ.who s e.org (.copy c)) e.msg = true → payAt e.msg 16 8 = 0 → payAt e.msg 24 8 = 2 ^ 64 - 1 → happens (.copyCommand c) s (copyDone c e s)) ∧
    (∀ t, copyOk s (EngQ.who s e.org (.copy c)) e.msg = true → payAt e.msg 16 8 = 0 → payAt e.msg 24 8 ≠ 2 ^ 64 - 1 →
      creditObj (EngQ.who s e.org (.copy c)) e.org.launch (some (payAt e.msg 24 8)) 0 s = .ok ((), t) → happens (.copyCommand c) s (copyDone c e t)) ∧
    (copyOk s (EngQ.who s e.org (.copy c)) e.msg = true → payAt e.msg 16 8 ≠ 0 → ∃ (t : State) (r : List Entry), exec (.copyCommand c) s = .next t ∧ t.mem = s.mem ∧ (s.core c).copyq = e :: r ∧
      (t.core c).copyq = { e with started := true, src := payAt e.msg 0 8, dst := payAt e.msg 8 8, len := payAt e.msg 16 8, obj := copyObj e.msg } :: r)) ∧
  (∀ (c n : Nat) (e : Entry) (s s1 s2 s3 : State) (b : List Byte), running s → headOf (.copy c) e s → copyTurnOf s c = true → e.started = true → n = min e.len (64 - e.dst % 64) →
    let w := EngQ.who s e.org (.copy c)
    engineRead w e.src n s = .ok (b, s1) → engineWrite w e.dst b (some (payAt e.msg 32 1 % 4)) s1 = .ok ((), s2) → creditObj w e.org.launch e.obj n s2 = .ok ((), s3) →
    (e.len = n → happens (.copyBeat c) s (copyDone c e s3)) ∧
    (e.len ≠ n → happens (.copyBeat c) s ((EngQ.copy c).modHead (fun e => { e with src := (e.src + n) % 2 ^ 64, dst := (e.dst + n) % 2 ^ 64, len := e.len - n }) s3))) ∧
  (∀ (c : Nat) (e : Entry) (s : State), ∃ net : List NetItem, (copyDone c e s).net = s.net ++ net ∧ ((copyDone c e s).core c).copyq = (s.core c).copyq.drop 1 ∧
    (senderHere e.org s → (net ≠ [] ↔ msgReply e.msg = true)) ∧ (copyDone c e s).mem = s.mem ∧
    (¬ senderHere e.org s → net = [] ∧ ∃ k : List (Nat × Parked), (msgReply e.msg = true → k.map (fun y => (y.1, y.2.tag)) = [(e.org.vcore, msgRtag e.msg)]) ∧
      (msgReply e.msg = false → k = []) ∧ ((copyDone c e s).ginst e.org.ginst).heldParked = (s.ginst e.org.ginst).heldParked ++ k)) ∧
  (∀ (id : Nat) (s : State), running s → joinQueues s id ≠ [] → (joinQueues s id).Nodup → (∀ q ∈ joinQueues s id, ∃ e r, q.get s = e :: r ∧ e.join = some id) →
    ∃ t, exec (.qfenceJoinComplete id) s = .next t ∧ t.mem = s.mem ∧ (∀ q ∈ joinQueues s id, q.get t = (q.get s).drop 1) ∧
      (∀ c, EngQ.matrix c ∈ joinQueues s id → ∀ e, (s.core c).mx.queue.head? = some e → (t.core c).mx.status.getLast? = some (e.ticket, BitVec.ofNat 64 (e.ticket * 2 ^ 32))))

/-- How a matrix entry ends (R260, R263): its status word, which holds the ticket, the retries, the flags and the status, is retained among the last 64, the entry leaves the queue, and a
reply that was asked for is sent. -/
def Sys2Proof.Machine.Claim.MatrixCompletion : Prop :=
  ∀ (c : Nat) (e : Entry) (st : Nat) (s : State),
    let w : Word := BitVec.ofNat 64 (e.ticket * 2 ^ 32 + min e.retry 255 * 2 ^ 16 + e.status.toNat % 64 * 2 ^ 8 + st)
    ∃ (t : State) (net : List NetItem), mxFinish c e st false s = .ok ((), t) ∧ (t.core c).mx.queue = (s.core c).mx.queue.drop 1 ∧
      (t.core c).mx.status = (let l := (s.core c).mx.status ++ [(e.ticket, w)]; l.drop (l.length - 64)) ∧ (t.core c).mx.tiles = (s.core c).mx.tiles ∧ t.mem = s.mem ∧
      t.net = s.net ++ net ∧ (senderHere e.org s → (net ≠ [] ↔ msgReply e.msg = true))

/-- MMA and MMAZ (R253 to R259, R272): a command that fails its checks ends with their status and no other effect; otherwise each event performs one K step, which adds to every tile element the dot
product of its rows, MMAZ taking the tile as +0 at first; after the last step an entry without a drain ends with OK, one whose drain has no handler with NOHANDLER; one residue
mismatch counts a retry, and a second ends the launch with DATA-INTEGRITY. The check finds every flipped bit of an exact sum, and its residue is the sum modulo 255. Which bits
a fault flips is the event's argument (log 35). -/
def Sys2Proof.Machine.Claim.MatrixSteps : Prop :=
  (∀ (z : Bool) (c : Nat) (e : Entry) (s s1 s2 s3 : State) (e1 : Entry) (as bs : List (List (FVal × FVal))) (mm : List Nat), running s → headOf (.matrix c) e s →
    msgEop e.msg = (if z then 2 else 1) → e.dispatched = false → ¬ (e.started = true ∧ e.done = mxKsteps e.msg) →
    let ev := if z then Instr.mmaz c mm else Instr.mma c mm
    let m := (s.core c).mx
    let w := whoOrigin s e.org
    let k := mxTile e.msg
    (e.started = false → mxCheck m.tcfg e.msg ≠ 0 → ∀ t, mxFinish c e (mxCheck m.tcfg e.msg) false s = .ok ((), t) → happens ev s t) ∧
    (e.started = true ∨ mxCheck m.tcfg e.msg = 0 → readDescs w { e with started := true } s = .ok (e1, s1) →
      (List.range (tcM m.tcfg)).mapM (fun i => operandRow w m.tcfg e1 true i e1.done) s1 = .ok (as, s2) →
      (List.range (tcN m.tcfg)).mapM (fun j => operandRow w m.tcfg e1 false j e1.done) s2 = .ok (bs, s3) →
      (z = false → ∀ i, i < tcM m.tcfg → rowClean c k i (tcN m.tcfg) s3) →
      let v := stepMismatches (pairColumn (tcAfmt m.tcfg) (tcBfmt m.tcfg) (tcTrim m.tcfg)) (rowElems (tcAfmt m.tcfg) / 16) as bs (mm.take 2)
      let u := if z then tilesClean c (2 ^ k) s3 else s3
      (v.length = 2 → (s3.launch e.org.launch).fault = none → (s3.launch e.org.launch).st.terminal = false → ∃ t, exec ev s = .next t ∧
        engineFault e.org.launch Cause.dataIntegrity t) ∧
      (v.length ≤ 1 →
      let r := kStep m.tcfg k as bs (if z then zeroTile k m.tiles else m.tiles)
      let e2 := { e1 with done := e1.done + 1, status := e1.status ||| r.2.setWidth 64, retry := e1.retry + v.length, msg := patch e1.msg 1 [1] }
      let s4 := (EngQ.matrix c).modHead (fun _ => e2) (u.modCore c (fun x => { x with mx := { x.mx with tiles := r.1 } }))
      (e2.done ≠ mxKsteps e2.msg → happens ev s s4) ∧
      (e2.done = mxKsteps e2.msg → wantsDrain e2.msg = false → ∀ t, mxFinish c e2 0 true s4 = .ok ((), t) → happens ev s t) ∧
      (e2.done = mxKsteps e2.msg → wantsDrain e2.msg = true → tcRhnd m.tcfg ≠ 0xFFFF → happens ev s s4) ∧
      (e2.done = mxKsteps e2.msg → wantsDrain e2.msg = true → tcRhnd m.tcfg = 0xFFFF → ∀ t, mxFinish c e2 4 true s4 = .ok ((), t) → happens ev s t)))) ∧
  (∀ (l : List (Int × Int)) (k : Nat), groupResidue l = (adderSum l % 255).toNat ∧ checkFlipped l k ≠ none) ∧
  (∀ (tc : Word) (k : Nat) (as bs : List (List (FVal × FVal))) (tiles : KV (BitVec 32)), as.length ≤ 16 → bs.length ≤ 16 →
    let r := kStep tc k as bs tiles
    (∀ i j a b, as[i]? = some a → bs[j]? = some b → KV.get 0 r.1 (k * 256 + i * 16 + j) =
      BitVec.ofNat 32 (dotScaled (pairColumn (tcAfmt tc) (tcBfmt tc) (tcTrim tc)) (rowElems (tcAfmt tc) / 16) a b (KV.get (0 : BitVec 32) tiles (k * 256 + i * 16 + j)).toNat).1) ∧
    (∀ x, (∀ i j, i < as.length → j < bs.length → x ≠ k * 256 + i * 16 + j) → KV.get 0 r.1 x = KV.get 0 tiles x))

/-- ZERO, STORE, DRAIN and DRAIN_COMPLETE (R248, R251, R256, R257, R265), on tiles whose elements carry no uncorrectable error: ZERO sets the tiles of its mask to +0; STORE writes the tile's rows, converted, beat by beat; DRAIN dispatches a row handler for each
row in ascending order, or ends with NOHANDLER and no credit, which is log entry 36 (DEDUCED); it ends with OK once every row's act has ended and its stores are performed. The unit loses its
owner when that launch ends, and when it has no act ACTIVE or PARKED on the core and no entry open. -/
def Sys2Proof.Machine.Claim.MatrixOutputs : Prop :=
  (∀ (c : Nat) (e : Entry) (s : State), running s → headOf (.matrix c) e s → msgEop e.msg = 5 → e.started = false → mxCheck (s.core c).mx.tcfg e.msg = 0 → ∀ t,
    mxFinish c { e with started := true } 0 true (tilesClean c (mxTile e.msg) (s.modCore c (fun x => { x with mx := { x.mx with
      tiles := x.mx.tiles.filter (fun y => !testBit (mxTile e.msg) (y.1 / 256)) } }))) = .ok ((), t) → happens (.zero c) s t) ∧
  (∀ (c : Nat) (e : Entry) (s s1 : State) (x : List (Nat × List Byte)) (r : List (List (Nat × List Byte))), running s → headOf (.matrix c) e s → msgEop e.msg = 3 → e.started = false →
    mxCheck (s.core c).mx.tcfg e.msg = 0 → e.done = 0 →
    (∀ i, i < tcM (s.core c).mx.tcfg → rowClean c (mxTile e.msg) i (tcN (s.core c).mx.tcfg) s) → (storeBeats (s.core c).mx.tcfg e.msg (s.core c).mx).1 = x :: r →
    let e1 := { e with started := true, done := 1, beats := x :: r, status := (storeBeats (s.core c).mx.tcfg e.msg (s.core c).mx).2.setWidth 64, obj := objField (mxObj e.msg) }
    writeBeat (.matrix c) e1 x ((EngQ.matrix c).modHead (fun _ => e1) s) = .ok ((), s1) →
    (r ≠ [] → happens (.store c) s s1) ∧ (r = [] → ∀ t, mxFinish c e1 0 false s1 = .ok ((), t) → happens (.store c) s t)) ∧
  (∀ (c : Nat) (e : Entry) (s : State), running s → headOf (.matrix c) e s → msgEop e.msg = 4 → e.started = false → e.dispatched = false → mxCheck (s.core c).mx.tcfg e.msg = 0 →
    let m := (s.core c).mx
    let e1 := { e with started := true }
    (tcRhnd m.tcfg = 0xFFFF → ∀ t, mxFinish c e1 4 false s = .ok ((), t) → happens (.drain c) s t) ∧
    (tcRhnd m.tcfg ≠ 0xFFFF → (∀ i, i < tcM m.tcfg → rowClean c (mxTile e.msg) i 16 s) → ∃ (t : State) (net : List NetItem) (x : Entry) (r : List Entry), exec (.drain c) s = .next t ∧ t.mem = s.mem ∧ t.net = s.net ++ net ∧
      (t.core c).mx.queue = x :: r ∧ x.dispatched = true ∧ x.rows = List.range (tcM m.tcfg) ∧ net.length = tcM m.tcfg ∧
      ∀ i, i < tcM m.tcfg → ∃ n, net[i]? = some n ∧ n.kind = .row ∧ n.dst = c ∧ n.handler = tcRhnd m.tcfg ∧ n.regs = [BitVec.ofNat 64 i, BitVec.ofNat 64 (mxTile e.msg)] ∧
        n.row = some (i, mxTile e.msg))) ∧
  (∀ (c : Nat) (e : Entry) (s : State), running s → headOf (.matrix c) e s → e.started = true → e.dispatched = true → e.rows = [] →
    (∀ x ∈ s.slots, ∀ y ∈ x.2.store, y.act ∉ e.acts) → ∀ t, mxFinish c e 0 true s = .ok ((), t) → happens (.drainComplete c) s t) ∧
  (∀ (c : Nat) (l : Nat) (s : State), running s → (s.core c).mx.owner = some l → (s.launch l).st.terminal = true ∨ (s.launch l).st = .ending ∨
      (mxOpen s c = [] ∧ ∀ k, k < 4 → ¬ ((s.slot (c + k)).launch = some l ∧ (s.slot (c + k)).boundary = false ∧ ((s.slot (c + k)).st = .active ∨ (s.slot (c + k)).st = .parked))) →
    happens (.matrixOwnerRelease c) s (tilesClean c 15 (s.modCore c (fun x => { x with mx := {} }))))

/-- MV (R259, R267 to R270), of a cluster whose turn at its stack it is: a command that fails its checks ends with their status when it asked for a reply, and its launch with ENGINE-CMD when it did not; one whose B bytes are off the stack
with BADSTACK; otherwise the N dot products are formed and written beat by beat, and the turn passes to the next cluster as the command ends; a step with two residue mismatches ends the launch with DATA-INTEGRITY (the faults are the
event's argument, log 35). -/
def Sys2Proof.Machine.Claim.StackDot : Prop :=
  ∀ (cl : Nat) (mm : List Nat) (e : Entry) (s s1 s2 : State), running s → headOf (.dot cl) e s → dotTurnOf s cl e = true →
    let w := EngQ.who s e.org (.dot cl)
    let ev := Instr.mv cl mm
    let turned := fun (s : State) => match dotStack s (EngQ.who s e.org (.dot cl)) e.msg with
      | some k => s.modDie (k / 2) (fun d => { d with dotTurn := KV.set d.dotTurn (k % 2) ((cl + 1) % 256) })
      | none => s
    let done := fun (e : Entry) (st : Nat) (s : State) =>
      engineReply e (bytesOfWord (BitVec.ofNat 64 (min e.retry 255 * 2 ^ 16 + e.status.toNat % 64 * 2 ^ 8 + st)) ++ leBytes 8 0) ((EngQ.dot cl).pop (turned s))
    (e.started = false → sdCheck e.msg ≠ 0 → msgReply e.msg = true → happens ev s (done e (sdCheck e.msg) s)) ∧
    (e.started = false → sdCheck e.msg ≠ 0 → msgReply e.msg = false → (s.launch e.org.launch).fault = none → (s.launch e.org.launch).st.terminal = false →
      ∃ t, exec ev s = .next t ∧ engineFault e.org.launch Cause.engineCmd t) ∧
    (∀ k r, e.started = false → sdCheck e.msg = 0 → dotStack s w e.msg = some k → sdOnStack w k e.msg s = .ok (true, s1) → mvResults w e.msg mm s1 = .ok (r, s2) →
      (∀ v, secondMismatch r.2.2 = some v → (s2.launch e.org.launch).fault = none → (s2.launch e.org.launch).st.terminal = false → ∃ t, exec ev s = .next t ∧
        engineFault e.org.launch Cause.dataIntegrity t) ∧
      (secondMismatch r.2.2 = none → happens ev s ((EngQ.dot cl).modHead (fun e => { e with
        started := true, beats := beatsOf (sdDst e.msg) r.1, obj := objField (sdObj e.msg), status := r.2.1.setWidth 64, retry := r.2.2.length }) s2))) ∧
    (∀ k, e.started = false → sdCheck e.msg = 0 → dotStack s w e.msg = some k → sdOnStack w k e.msg s = .ok (false, s1) → msgReply e.msg = true → happens ev s (done e 3 s1)) ∧
    (∀ q, e.started = false → sdCheck e.msg = 0 → dotStack s w e.msg = none → resolve w .engine Need.read (sdBbase e.msg) 1 false s = .ok (q, s1) → msgReply e.msg = true →
      happens ev s (done e 3 s1)) ∧
    (∀ x y r, e.started = true → e.beats = x :: y :: r → writeBeat (.dot cl) e x s = .ok ((), s1) → happens ev s s1) ∧
    (∀ x, e.started = true → e.beats = [x] → writeBeat (.dot cl) e x s = .ok ((), s1) → happens ev s (done e 0 s1))

/-- CONFIG, CLEAR and RUN (R299, R300, R303, R308, R310, R311), on a core whose turn it is: CONFIG puts a good table descriptor into a context, CLEAR empties one, and RUN reads the string, composes the
maps, and writes its outputs beat by beat; a refused command leaves its status and no other effect. Each leaves its two words under its ticket and its reply. -/
def Sys2Proof.Machine.Claim.JugglerEngine : Prop :=
  ∀ (c : Nat) (e : Entry) (s : State), running s → headOf (.jug c) e s → jugTurnOf s c = true →
    let b := e.msg
    let w := EngQ.who s e.org (.jug c)
    let ends := fun (st : Nat) (s : State) (t : State) => jugFinish c e st 0 false 0 s = .ok ((), t)
    let fields := payAt b 8 1 < 4 ∧ zeroAt b (16 + 9) 39 = true
    (msgEop b = 3 → e.started = false →
      (fields → payAt b 0 8 = 0 → ∀ t, ends 0 (s.modCore c (fun x => { x with jug := { x.jug with ctx := KV.erase x.jug.ctx (payAt b 8 1) } })) t → happens (.clear c) s t) ∧
      (¬ (fields ∧ payAt b 0 8 = 0) → ∀ t, ends jBadCmd s t → happens (.clear c) s t)) ∧
    (msgEop b = 2 → e.started = false →
      (¬ (fields ∧ payAt b 0 8 % 64 = 0) → ∀ t, ends jBadCmd s t → happens (.config c) s t) ∧
      (∀ d s1, fields → payAt b 0 8 % 64 = 0 → engineRead w (payAt b 0 8) 64 s = .ok (d, s1) →
        (tdOk d = false → ∀ t, ends jBadDesc s1 t → happens (.config c) s t) ∧
        (tdOk d = true → ∀ t, ends 0 (s1.modCore c (fun x => { x with jug := { x.jug with
          ctx := KV.set x.jug.ctx (payAt b 8 1) { desc := d, launch := e.org.launch } } })) t → happens (.config c) s t))) ∧
    (msgEop b = 1 → e.started = false →
      (runFieldsOk b = false → ∀ t, ends jBadCmd s t → happens (.run c) s t) ∧
      (runFieldsOk b = true → KV.find? (s.core c).jug.ctx (jRunCtx b) = none → ∀ t, ends jNoCtx s t → happens (.run c) s t) ∧
      (∀ t, runStart c e s = .ok ((), t) → happens (.run c) s t)) ∧
    (∀ x y r s1, msgEop b = 1 → e.started = true → e.beats = x :: y :: r → writeBeat (.jug c) e x s = .ok ((), s1) → happens (.run c) s s1) ∧
    (∀ x s1 t, msgEop b = 1 → e.started = true → e.beats = [x] → writeBeat (.jug c) e x s = .ok ((), s1) →
      jugFinish c e 0 (e.status.toNat / 2) (e.status.toNat % 2 == 1) e.report s1 = .ok ((), t) → happens (.run c) s t) ∧
    (∀ st final acc report, ∃ (t : State) (net : List NetItem), jugFinish c e st final acc report s = .ok ((), t) ∧ (t.core c).jug.queue = (s.core c).jug.queue.drop 1 ∧
      ((KV.get {} (t.core c).jug.counts e.org.ginst).kept.getLast? =
        some (e.ticket, BitVec.ofNat 64 (e.ticket * 2 ^ 32 + final * 2 ^ 24 + (if acc then 1 else 0) * 2 ^ 16 + st), report, e.org.launch)) ∧
      t.net = s.net ++ net ∧ (senderHere e.org s → (net ≠ [] ↔ msgReply e.msg = true)) ∧ t.mem = s.mem)

/-! ### Launches, queues and objects -/

/-- No slot holds a line (R179). -/
def Sys2Proof.Machine.noLine (s : State) : Prop := ∀ x ∈ s.slots, x.2.hold = none

/-- From QUEUED to RUNNING, while no slot holds a line (R24, R363 to R370): LAUNCH_TAKE reads the next command of a queue that runs into a launch in QUEUED with the lowest free identifier, and sets ERR for indices out of range; LAUNCH_WAITING
checks it, and a failed check makes it REFUSED with its cause; DEPENDENCE_MET waits for EXPECT arrivals at AFTER, which a failure turns into SKIPPED with DEPFAIL unless the command runs
on any end; PLACE_INSTANCE sends a launch-start message to each core of the unit, and the last instance makes the launch RUNNING. -/
def Sys2Proof.Machine.Claim.LaunchBegins : Prop :=
  (∀ (d k lid : Nat) (q : Queue) (b cmd : List Byte) (s s1 s2 : State), running s → KV.find? s.queues (queueKey d k) = some q → q.stopped = false → q.stopping = false → q.err = false →
    (s.part q.part).en = true → readQcb q s = .ok (b, s1) →
    (indicesOk q b = false → noLine s1 → ∃ t, exec (.launchTake d k) s = .next t ∧ (t.queue (queueKey d k)).err = true ∧ (t.queue (queueKey d k)).stopped = true ∧ t.launches = s1.launches) ∧
    (indicesOk q b = true → qcbTail b ≠ q.head → partRead q.part (q.ring + 128 * (q.head % 2 ^ q.rlog)) 128 s1 = .ok (cmd, s2) → noLine s2 → q.launches = [] →
      lid < 65536 → KV.find? s2.launches (launchKey q.part lid) = none → (∀ j, j < lid → KV.find? s2.launches (launchKey q.part j) ≠ none) →
      ∃ t, exec (.launchTake d k) s = .next t ∧ (t.queue (queueKey d k)).head = (q.head + 1) % 2 ^ 32 ∧ (t.queue (queueKey d k)).launches = [launchKey q.part lid] ∧
        KV.find? t.launches (launchKey q.part lid) = some { lid := lid, part := q.part, die := d, queue := k, rindex := q.head % 2 ^ q.rlog, st := .queued, cmd := cmd })) ∧
  (∀ (lk : Nat) (l : Launch) (s : State), running s → KV.find? s.launches lk = some l → l.st = .queued →
    (commandCheck s l = 0 → happens (.launchWaiting lk) s (s.modLaunch lk (fun l => { l with st := .waiting, checked := true }))) ∧
    (commandCheck s l ≠ 0 → happens (.launchWaiting lk) s (s.modLaunch lk (fun x => { x with
      st := .refused, fault := some { cause := commandCheck s l, detail := 0, where_ := 0, ginst := 0 } })))) ∧
  (∀ (lk : Nat) (b : List Byte) (s s1 : State), running s → (s.launch lk).st = .waiting → (s.queue (queueKey (s.launch lk).die (s.launch lk).queue)).stopping = false →
    (s.queue (queueKey (s.launch lk).die (s.launch lk).queue)).stopped = false → let l := s.launch lk
    (l.after = 0 → happens (.dependenceMet lk) s (s.modLaunch lk (fun l => { l with st := .placing }))) ∧
    (l.after ≠ 0 → partRead l.part l.after 16 s = .ok (b, s1) → fieldAt b 0 4 ≠ 0 → fieldAt b 0 4 ≤ fieldAt b 4 4 →
      (fieldAt b 8 4 = 0 ∨ l.runany = true → happens (.dependenceMet lk) s (s1.modLaunch lk (fun l => { l with st := .placing }))) ∧
      (fieldAt b 8 4 ≠ 0 → l.runany = false → happens (.dependenceMet lk) s (s1.modLaunch lk (fun l => { l with
        st := .skipped, fault := some { cause := Cause.depfail, detail := 0, where_ := 0, ginst := 0 } }))))) ∧
  (∀ (lk u : Nat) (affine : Bool) (s : State), running s → placing s lk = true → placeTurn s lk = true → chooseUnit s lk = .unit u affine → let l := s.launch lk
    let cores := unitCores s l.part l.tier u
    ∃ (t : State) (net : List NetItem), exec (.placeInstance lk) s = .next t ∧ t.net = s.net ++ net ∧ net.length = cores.length ∧
      (∀ (i : Nat) (c : Nat × Nat), cores[i]? = some c → ∃ n : NetItem, net[i]? = some n ∧ n.kind = .start ∧ n.dst = c.2 ∧ n.vcore = c.1 ∧ n.launch = lk ∧ n.ginst = s.nextId ∧ n.handler = l.entry ∧
        n.regs = l.args ++ [BitVec.ofNat 64 l.hdr0]) ∧
      (t.ginst s.nextId).cores = cores ∧ (t.ginst s.nextId).num = l.placed ∧ (t.ginst s.nextId).launch = lk ∧ (t.launch lk).placed = l.placed + 1 ∧
      (t.launch lk).st = (if l.placed + 1 = l.nInst then .running else .placing))

/-- The end of a launch, while no slot holds a line (R25, R26, R29, R370 to R372): with every count of R25 zero a launch is DONE, its slots FREE and its tags free; an ending one whose engines, messages and stores are gone is
ENDED; a launch in a terminal state posts when the completion ring has room: CTAIL moves on, its identifier is free and the partition's QUEUE interrupt pends; with the ring full it waits. -/
def Sys2Proof.Machine.Claim.LaunchEnds : Prop :=
  (∀ (lk : Nat) (s : State), running s → (s.launch lk).st = .running ∨ (s.launch lk).st = .draining → launchLive s lk = false → engineWork s lk = false → messagesOut s lk = false →
    storesOut s lk = false → recordedWork s lk = false → ∃ t, exec (.launchDone lk) s = .next t ∧ t.mem = s.mem ∧ (t.launch lk).st = .done ∧ (∀ x ∈ t.slots, x.2.ofLaunch lk = false) ∧
      (∀ c, ∀ y ∈ (t.core c).tags, y.launch ≠ lk)) ∧
  (∀ (lk : Nat) (s : State), running s → (s.launch lk).st = .ending → engineWork s lk = false → messagesOut s lk = false → storesOut s lk = false →
    ∃ t, exec (.launchEnded lk) s = .next t ∧ t.mem = s.mem ∧ (t.launch lk).st = .ended ∧ (∀ x ∈ t.slots, x.2.ofLaunch lk = false) ∧ (∀ v ∈ t.saved, v.launch ≠ lk)) ∧
  (∀ (lk : Nat) (l : Launch) (b : List Byte) (s s1 : State), running s → KV.find? s.launches lk = some l → l.st.terminal = true → readQcb (s.queue (queueKey l.die l.queue)) s = .ok (b, s1) →
    let k := queueKey l.die l.queue
    let q := s.queue k
    (diff32 q.ctail (qcbChead b) = 2 ^ q.clog → exec (.launchPost lk) s = .next (tick { s with idle := true })) ∧
    (diff32 q.ctail (qcbChead b) ≠ 2 ^ q.clog → noLine s1 → l.credit = 0 → l.note = false → ∃ t, exec (.launchPost lk) s = .next t ∧ (t.queue k).ctail = (q.ctail + 1) % 2 ^ 32 ∧
      KV.find? t.launches lk = none ∧ lk ∉ (t.queue k).launches ∧ (t.part l.part).pendQueue = true)) ∧
  (∀ (l : Launch), l.lid < 65536 → l.secondary < 256 → (∀ f, l.fault = some f → f.cause < 256) → (recordBytes l).length = 32 ∧ fieldAt (recordBytes l) 24 8 = l.cookie % 2 ^ 64 ∧
    let w := fieldAt (recordBytes l) 0 8
    w / 2 ^ 48 = l.lid ∧ w / 2 ^ 42 % 64 = l.queue % 64 ∧ w / 2 ^ 8 % 4 = l.die % 4 ∧ w / 2 ^ 32 % 256 = l.secondary ∧
      w / 2 ^ 40 % 4 = (match l.st with | .done => 0 | .ended => 1 | .skipped => 2 | _ => 3) ∧
      (∀ f, l.fault = some f → l.st ≠ .done → w % 256 = f.cause ∧ fieldAt (recordBytes l) 8 8 = f.detail.toNat))

/-- Stopping a queue, while no slot holds a line, and loading an object (R109, R110, R373): a reported write of STOP makes the queue stopping, and clearing it resumes the queue; a stopping queue whose launches wait, are
posted or are suspended is STOPPED; a load that passes its checks adds the object, and one that does not leaves its status and nothing else; an unload of an object that a launch
or a command standing in a ring names is BUSY, of another removes it with its cell table; that its bytes stay is the model's choice, log entry 127. -/
def Obligations.QueuesAndObjects : Prop :=
  (∀ (d k : Nat) (q : Queue) (b : List Byte) (s s1 : State), running s → noLine s1 → KV.find? s.queues (queueKey d k) = some q → readQcb q s = .ok (b, s1) →
    (qcbStop b = true → q.stopSeen = false → happens (.queueStopRequest d k) s (s1.modQueue (queueKey d k) (fun q => { q with stopping := true, stopSeen := true }))) ∧
    (qcbStop b = false → q.stopSeen = true → ∃ t, exec (.queueStopRequest d k) s = .next t ∧ (t.queue (queueKey d k)).stopping = false ∧ (t.queue (queueKey d k)).stopped = q.err)) ∧
  (∀ (d k : Nat) (q : Queue) (s : State), running s → noLine s → KV.find? s.queues (queueKey d k) = some q → q.stopping = true → q.stopped = false → (∀ l ∈ q.launches, launchStill s l = true) →
    ∃ t, exec (.queueStopped d k) s = .next t ∧ (t.queue (queueKey d k)).stopped = true ∧ t.launches = s.launches) ∧
  (∀ (p d id base : Nat) (file : List Byte) (s : State), running s → (s.part p).en = true → KV.find? s.objs (objKey p id) = none → d < 4 →
    ((loadCheck s p base file).2 = none → happens (.objectLoad p d id base file) s (s.modBoard (fun b => { b with loadStatus := (loadCheck s p base file).1 }))) ∧
    (∀ f, (loadCheck s p base file).2 = some f → ∃ t, exec (.objectLoad p d id base file) s = .next t ∧ t.board.loadStatus = 0 ∧
      KV.find? t.objs (objKey p id) = some (objectOf p id f) ∧ (f.cells ≠ [] → (t.table (objKey p id)).committed = 0 ∧ (t.table (objKey p id)).cells = f.cellList))) ∧
  (∀ (p id : Nat) (s : State), running s → KV.find? s.objs (objKey p id) ≠ none →
    (objectBusy s p id = true → happens (.objectUnload p id) s (s.modBoard (fun b => { b with loadStatus := Load.busy }))) ∧
    (objectBusy s p id = false → ∃ t, exec (.objectUnload p id) s = .next t ∧ t.mem = s.mem ∧ KV.find? t.objs (objKey p id) = none ∧
      KV.find? t.tables (objKey p id) = none ∧ t.board.loadStatus = 0))

/-! ### Waves, commits and collectives -/

/-- Waves (R224 to R228, R233, R235, R236): a wave whose walk is over, whose formula cells have committed and that no view pins publishes every cell of its closure at once, and COMMITTED becomes its number; a pinned one waits; a wave
of an ended launch fails: the cells its walk has reached keep their versions, their FAILED is set and its buffers are free; a queued edit takes effect when no wave holds its cell, and starts a wave, or is dropped where it can no longer take effect (the order of these, and that the drop gives no sign, are log entry 101, DEDUCED); the watchdog
revokes the views that pin a wave for the table's limit; a formula act starts in its turn, after those of its wave of a lower rank, and after those of earlier waves of the table that have not failed (that of two waves is log entry 126, DESIGN CHOICE), with an open region whose KEY
is the wave and the cell's rank at the wave's acceptance (that a later edit of another cell leaves it is log entry 134, DEDUCED); in a ring each member starts again for each further round, in ascending
index; a fault of a formula act ends its launch, and so fails the wave. That FAILED is set on the cells the walk has reached alone is log entry 56, and that the region is open from the sending of the start message log entry 58 (both DEDUCED). -/
def Sys2Proof.Machine.Claim.WaveEvents : Prop :=
  (∀ (tab : Nat) (w : Wave) (rest : List Wave) (s s1 : State), running s → (s.table tab).waves = w :: rest → w.failed = false → launchEnding s w.launch = false → w.unmarked = 0 →
    (∀ a ∈ w.acts, a.st = .committed ∧ a.round = a.rounds) →
    (pins (s.table tab) w ≠ [] → w.waitSince = none → ∃ t, exec (.wavePublish tab) s = .next t ∧ t.mem = s.mem ∧ (t.table tab).cells = (s.table tab).cells ∧
      (t.table tab).committed = (s.table tab).committed ∧ ∃ r, (t.table tab).waves = { w with waitSince := some s.cycle } :: r) ∧
    (pins (s.table tab) w = [] → (∀ x ∈ rest, x.failed = false) →
      (w.closure.forM (fun i => do
        let s' ← Act.look id
        let _ ← resolve (whoPart s' (s.table tab).part) .engine Need.write ((s.table tab).cell i).target 16 true) : Act PUnit) s = .ok (⟨⟩, s1) →
      s1.tables = s.tables → s1.mem = s.mem →
      ∃ t, exec (.wavePublish tab) s = .next t ∧ t.mem = s.mem ∧ (t.table tab).committed = w.num ∧ (t.table tab).waves = rest ∧
        (t.table tab).cells = (s.table tab).cells.mapIdx (fun i c => if w.closure.contains i then c.publish w.num else c))) ∧
  (∀ (c : CellD) (n : Nat), (c.publish n).newest = (n, c.pend) ∨ n ≤ c.wa ∨ (∃ b, c.wb = some b ∧ n ≤ b)) ∧
  (∀ (tab n : Nat) (w : Wave) (s : State), running s → (s.table tab).waves.find? (fun x => x.num == n) = some w → w.failed = false → launchEnding s w.launch = true →
    ∃ t, exec (.waveFail tab n) s = .next t ∧ t.mem = s.mem ∧ (t.table tab).cells = (s.table tab).cells.mapIdx (fun i c => if (w.closure.take w.marked).contains i then
      { c with hold := if c.hold == .wave w.num then .free else c.hold, failed := true, lost := c.lost || c.lastw == w.num, stale := c.stale && c.lastw != w.num } else c)) ∧
  (∀ (tab : Nat) (e : Edit) (rest : List Edit) (s : State), running s → (s.table tab).edits = e :: rest → (s.table tab).inWave e.cell = false → (s.table tab).unpublished < 64 →
    e.record = none → ((s.table tab).cell e.cell).form = true → e.cell < (s.table tab).cells.length → ∃ t, exec (.editTakeEffect tab) s = .next t ∧ t.mem = s.mem ∧
      (t.table tab).edits = rest ∧ (t.table tab).started = (s.table tab).started + 1 ∧ ((t.table tab).cell e.cell).form = false ∧
      ∃ w, (t.table tab).waves = (s.table tab).waves ++ [w] ∧ w.num = (s.table tab).started + 1 ∧ w.src = e.cell) ∧
  (∀ (tab c : Nat) (w : Wave) (rest : List Wave) (s : State), running s → (s.table tab).waves = w :: rest → w.waitSince = some c → pins (s.table tab) w ≠ [] →
    (s.table tab).vwlim ≤ s.cycle - c → ∃ t, exec (.viewWatchdog tab) s = .next t ∧ t.mem = s.mem ∧ ∀ v ∈ pins (s.table tab) w, v ∉ (t.table tab).views) ∧
  (∀ (tab cell pa core : Nat) (affine : Bool) (w : Wave) (a : FAct) (s : State), running s → (s.table tab).waves.find? (fun x => x.num == w.num) = some w →
    w.acts.find? (fun x => x.cell == cell) = some a → a.st = .waiting → w.failed = false → launchEnding s w.launch = false → a.ring = [] →
    ((s.table tab).cell cell).hold = .free → startTurn (s.table tab) w cell = true → partPhys s (s.table tab).part ((s.table tab).cell cell).vp = some pa →
    formulaCore s (s.table tab) w.launch pa = some (core, affine) → freeRegions s (dieOf core) (s.table tab).part ≠ [] → cell < (s.table tab).cells.length →
    ∃ (t : State) (i : NetItem) (rs : Nat), exec (.formulaActStart tab w.num cell) s = .next t ∧ t.net = s.net ++ [i] ∧ i.kind = .start ∧ i.dst = core ∧
      i.handler = ((s.table tab).cell cell).handler ∧ i.formula = some { table := tab, cell := cell, wave := w.num, round := 1 } ∧
      (t.rslot rs).st = .open_ ∧ (t.rslot rs).key = w.num * 2 ^ 16 + a.rank ∧ ((t.table tab).cell cell).hold = .wave w.num ∧
      ((t.table tab).cell cell).pend = ((s.table tab).cell cell).newest.2) ∧
  (∀ (tab cell pa core : Nat) (affine : Bool) (w : Wave) (a : FAct) (s : State), running s → (s.table tab).waves.find? (fun x => x.num == w.num) = some w →
    w.acts.find? (fun x => x.cell == cell) = some a → a.st = .committed → w.failed = false → launchEnding s w.launch = false →
    a.round < a.rounds → ringTurn w a.ring cell (a.round + 1) = true → partPhys s (s.table tab).part ((s.table tab).cell cell).vp = some pa →
    formulaCore s (s.table tab) w.launch pa = some (core, affine) → freeRegions s (dieOf core) (s.table tab).part ≠ [] → cell < (s.table tab).cells.length →
    ∃ (t : State) (i : NetItem) (rs : Nat), exec (.formulaActStart tab w.num cell) s = .next t ∧ t.net = s.net ++ [i] ∧ i.kind = .start ∧ i.dst = core ∧
      i.formula = some { table := tab, cell := cell, wave := w.num, round := a.round + 1 } ∧ i.regs.getD 2 0 = BitVec.ofNat 64 (a.round + 1) ∧
      (t.rslot rs).st = .open_ ∧ (t.rslot rs).key = w.num * 2 ^ 16 + a.rank) ∧
  (∀ (w : Wave) (ring : List Nat) (cell round : Nat), ringTurn w ring cell round = true ↔ ∀ j ∈ ring, j ≠ cell → ∀ a, w.acts.find? (fun a => a.cell == j) = some a →
    (j < cell → round ≤ FAct.done a) ∧ (cell < j → round - 1 ≤ FAct.done a)) ∧
  (∀ (t : Table) (i : Nat) (org : Origin) (fill : Bool), ∃ w, (t.startWave i org fill).waves = t.waves ++ [w] ∧ ∀ a ∈ w.acts,
    a.rank = (t.cells.getD a.cell {}).rank ∧ a.ring = ringOf t.cells a.cell ∧ a.rounds = ringRounds t.cells (ringOf t.cells a.cell) ∧ a.st = .waiting ∧ a.round = 1) ∧
  (∀ (t : Table) (w : Wave) (cell : Nat) (b : FAct), w.acts.find? (fun x => x.cell == cell) = some b → startTurn t w cell = true → w.unmarked = 0 ∧
    (∀ a ∈ w.acts, a.rank < b.rank → a.st ≠ .waiting ∧ a.round = a.rounds) ∧
    (∀ u ∈ t.waves, u.num < w.num → u.failed = false → ∀ a ∈ u.acts, a.st ≠ .waiting)) ∧
  (∀ (tab : Nat) (e : Edit) (r : FRecord) (rest : List Edit) (s : State), running s → (s.table tab).edits = e :: rest → (s.table tab).inWave e.cell = false →
    (s.table tab).unpublished < 64 → e.record = some r → e.cell < (s.table tab).cells.length →
    let ok := bindStatus (s.table tab).cells (s.obj (objKey (s.table tab).part (s.table tab).obj)).handlers.length e.cell r
    (ok = 0 → ∃ t, exec (.editTakeEffect tab) s = .next t ∧ t.mem = s.mem ∧ (t.table tab).edits = rest ∧ (t.table tab).started = (s.table tab).started + 1 ∧
      (let c := (t.table tab).cell e.cell
       c.form = true ∧ c.handler = r.1 ∧ c.prec = r.2.1 ∧ c.iter = r.2.2.1 ∧ c.rounds = r.2.2.2) ∧
      ∃ w, (t.table tab).waves = (s.table tab).waves ++ [w] ∧ w.num = (s.table tab).started + 1 ∧ w.src = e.cell) ∧
    (ok ≠ 0 → ∃ t, exec (.editTakeEffect tab) s = .next t ∧ t.mem = s.mem ∧ (t.table tab).edits = rest ∧ (t.table tab).started = (s.table tab).started ∧
      (t.table tab).waves = (s.table tab).waves)) ∧
  (∀ (p l c : Nat) (d : Word) (f : Formula) (s : State), isCtl p = false → (s.slot p).formula = some f → (s.slot p).launch = some l → (s.launch l).st.terminal = false →
    (s.launch l).fault = none → launchEnding (faulted p c d none s) l = true)

/-- REGION_COMMIT (R283, R284): the earliest ENDING region of its domain, whose predecessors have committed, closes: memory then holds its versions and is otherwise as before, no version of it is left, its slot is free, and FRONTIER of
its domain is its place; one that is not the earliest does not commit. Its versions here are of whole granules outside pages with a memory key, each granule once, and no granule is poisoned. -/
def Sys2Proof.Machine.Claim.RegionCommits : Prop :=
  (∀ (rs : Nat) (s : State), running s → commitReady s rs = true → ∃ t, exec (.regionCommit rs) s = .next t ∧ (∀ v ∈ t.versions, v.rslot ≠ rs) ∧
    (t.rslot rs).st = .free ∧ (∃ n, (t.rslot rs).closed = some ((s.rslot rs).gen, 0, n)) ∧ frontierOf t (s.rslot rs).domain = (s.rslot rs).place ∧
    (∀ r, rs ∉ (t.rslot r).pred) ∧
    let mine := s.versions.filter (fun v => v.rslot == rs)
    ((∀ g, poisoned s g = false) → (∀ v ∈ mine, v.key = none ∧ v.bytes.length = 16) → (mine.map (fun v => v.gran)).Nodup →
      (∀ v ∈ mine, Memory.readN t.mem (v.gran * 16) 16 = v.bytes) ∧ ∀ a, (∀ v ∈ mine, v.gran ≠ a / 16) → Memory.read t.mem a = Memory.read s.mem a)) ∧
  (∀ (rs x : Nat) (s : State), running s → x ≠ rs → (s.rslot x).live = true → (s.rslot x).domain = (s.rslot rs).domain → placeLt (s.rslot x).place (s.rslot rs).place = true →
    exec (.regionCommit rs) s = .next (tick { s with idle := true }))

/-- The event of a die's collective engine for commands of an EOP; those of no kind are refused by the first. -/
def Sys2Proof.Machine.collEv (eop d : Nat) : Instr := if eop = 2 then .reduce d else if eop = 3 then .bcast d else .allreduce d

/-- No collective that this event would perform now stands at the die's engine: none of its kind has every rank. -/
def Sys2Proof.Machine.noneFull (eop d : Nat) (s : State) : Prop :=
  ∀ c ∈ (s.die d).colls, collEv (msgEop c.first) d = collEv eop d → c.decided = none → c.full = true → collPresent s c = false

/-- A command disagrees with a collective (R415): another EOP, COUNT, FMT, CTL, NPARTM1 or ROOT, or a RANK that has arrived. -/
def Sys2Proof.Machine.disagrees (c : Coll) (b : List Byte) : Prop :=
  msgEop b ≠ msgEop c.first ∨ collCount b ≠ collCount c.first ∨ collFmt b ≠ collFmt c.first ∨ collCtl b ≠ collCtl c.first ∨ collLast b ≠ collLast c.first ∨
  collRoot b ≠ collRoot c.first ∨ ∃ x ∈ c.arrived, x.rank = collRank b

/-- The participants that have arrived are on this device, with their core parts, and asked for the reply. -/
def Sys2Proof.Machine.answerable (c : Coll) (s : State) : Prop := ∀ a ∈ c.arrived, msgReply a.msg = true ∧ a.src = none ∧ senderHere a.org s

/-- Collectives (R414, R415, R417, R418): a command that fails its checks is answered with their status, and one without REPLY ends its launch with ENGINE-CMD; the first of a collective opens it at its decision point; one that agrees
joins it; one that disagrees ends it with MISMATCH for all that have arrived and changes no DST; when every rank has arrived the collective is performed and its decision recorded; after 2^TOEXP cycles it ends with TIMEOUT and the lowest missing
rank, and changes no DST; a late command gets the decision. What the model remembers of decided collectives is log entry 72 (DEDUCED), and that one with an address in the scratchpad of a saved core waits is log entry 124 (DESIGN CHOICE). -/
def Obligations.Collectives : Prop :=
  (∀ (d : Nat) (i : NetItem) (rest : List NetItem) (s : State), running s → (s.die d).collIn = i :: rest → noneFull (msgEop i.data) d s →
    let ev := collEv (msgEop i.data) d
    let chk := collCheck (s.launch i.launch).tier i.data
    let a : CollArr := { rank := collRank i.data, org := (entryOf i).org, core := coreOf i.src, msg := i.data }
    let s0 := s.modDie d (fun x => { x with collIn := rest })
    let named := findColl s0 i.launch i.ginst (barrierKey (collScope i.data) i.vcore 0) (collSeq i.data)
    (chk ≠ 0 → msgReply i.data = true → senderHere a.org s → ∃ (t : State) (n : NetItem), exec ev s = .next t ∧ t.mem = s.mem ∧ t.net = s.net ++ [n] ∧ n.kind = .reply ∧ n.tag = msgRtag i.data ∧
      fieldAt n.data 0 1 = chk % 256 ∧ (t.die d).collIn = rest) ∧
    (msgReply i.data = false → (s.launch i.launch).fault = none → (s.launch i.launch).st.terminal = false → ∃ t, exec ev s = .next t ∧ t.mem = s.mem ∧
      engineFault i.launch Cause.engineCmd t) ∧
    (chk = 0 → named = none → ∃ (t : State) (c : Coll), exec ev s = .next t ∧ t.mem = s.mem ∧ t.net = s.net ∧ (t.die d).collIn = rest ∧
      (t.die (decisionPoint a d)).colls = (s.die (decisionPoint a d)).colls ++ [c] ∧
      c.seq = collSeq i.data ∧ c.launch = i.launch ∧ c.ginst = i.ginst ∧ c.since = s.cycle ∧ c.decided = none ∧ c.arrived.map (fun a => a.rank) = [collRank i.data]) ∧
    (∀ dd k c, chk = 0 → named = some (dd, k, c) → c.decided = none → c.full = false → c.late? s.cycle = false →
      (¬ disagrees c i.data → happens ev s (moveColl dd k (decisionPoint a dd) { c with arrived := c.arrived ++ [a] } s0)) ∧
      (disagrees c i.data → (s.die dd).colls[k]? = some c → answerable c s → senderHere a.org s → ∃ (t : State) (net : List NetItem) (x : Coll), exec ev s = .next t ∧ t.mem = s.mem ∧ t.net = s.net ++ net ∧
        net.length = c.arrived.length + 1 ∧ (∀ n ∈ net, n.kind = .reply ∧ fieldAt n.data 0 1 = 5 ∧ fieldAt n.data 6 2 = 0) ∧
        (t.die dd).colls[k]? = some x ∧ x.decided = some .mismatch)) ∧
    (∀ dd k c e, chk = 0 → named = some (dd, k, c) → c.decided = some e → happens ev s (CollEnd.reply e a s0))) ∧
  (∀ (d k fl : Nat) (c : Coll) (s s1 : State), running s → (s.die d).colls[k]? = some c → c.decided = none → c.full = true → collPresent s c = true →
    (∀ x ∈ (s.die d).colls.take k, ¬ (collEv (msgEop x.first) d = collEv (msgEop c.first) d ∧ x.decided = none ∧ x.full = true ∧ collPresent s x = true)) →
    performColl c s = .ok (fl, s1) → happens (collEv (msgEop c.first) d) s (setColl d k { c with late := [], decided := some (.ok fl) } s1)) ∧
  (∀ (d k : Nat) (c : Coll) (s : State), running s → (s.die d).colls[k]? = some c → c.decided = none → c.full = false → c.late? s.cycle = true → answerable c s →
    ∃ (t : State) (net : List NetItem) (x : Coll), exec (.collectiveTimeout d k) s = .next t ∧ t.mem = s.mem ∧ t.net = s.net ++ net ∧ net.length = c.arrived.length ∧
      (∀ n ∈ net, n.kind = .reply ∧ fieldAt n.data 0 1 = 6 ∧ fieldAt n.data 6 2 = missingRank c % 2 ^ 16) ∧ (t.die d).colls[k]? = some x ∧ x.decided = some (.timeout (missingRank c))) ∧
  (∀ (c : Coll), (∃ r, r ≤ collLast c.first ∧ ∀ a ∈ c.arrived, a.rank ≠ r) → (∀ a ∈ c.arrived, a.rank ≠ missingRank c) ∧ ∀ r, r < missingRank c → ∃ a ∈ c.arrived, a.rank = r)


/-! ### The directory, the fabric and the ports -/

/-- Whether die `o` is another die than `d` and the home of `pa`. -/
def Sys2Proof.Machine.thirdDie (d pa o : Nat) : Prop := o < 4 ∧ o ≠ d ∧ o ≠ homeDie pa

/-- A line that no slot holds (R179), and room for one more line in the L2 of die `d` (R5). -/
def Sys2Proof.Machine.lineFree (d pa : Nat) (s : State) : Prop := heldByOther s none pa = false ∧ (s.die d).l2.length < 2 ^ 20

/-- No granule is poisoned: a write-back then finds nothing to record (R432). -/
def Sys2Proof.Machine.unmarked (s : State) : Prop := ∀ g, poisoned s g = false

/-- The line's home slice has room for every line of one more region, so that no SPLIT region collapses (R403). -/
def Sys2Proof.Machine.roomForLines (pa : Nat) (s : State) : Prop := linesUsed s pa + 64 ≤ 8192

/-- Reads and probes at the cross-die directory (R403, R404, R405), of a line that no slot holds, with room in the L2: a die that reads a line of an UNCACHED region owns the region and holds the line E; of a SHARED one, it becomes present; of one that another
die owns, or a SPLIT one, M or O at another die falls to O and the region is SPLIT; where no line entry is free, a SPLIT region may itself collapse, and is then owned by the die. A probe sees no copy of another partition. Memory is unchanged. The state E of the first line, the fall
of E to S and what the home die's own requests do are log entry 73 (DEDUCED). -/
def Sys2Proof.Machine.Claim.DirectoryReads : Prop :=
  (∀ (d pa : Nat) (s : State), running s → d < 4 → populated s pa = true → lineFree d pa s → d ≠ homeDie pa → probeAnswer s d pa = none →
    ∃ t, exec (.dirRead d pa) s = .next t ∧ (unmarked s → t.mem = s.mem) ∧
      ((dirEntry s pa).st = .uncached → dirEntry t pa = { present := [d], st := .owned d } ∧ probeAnswer t d pa = some .e ∧
        ∀ o, thirdDie d pa o → probeAnswer t o pa = probeAnswer s o pa) ∧
      ((dirEntry s pa).st = .shared → (dirEntry t pa).st = .shared ∧ d ∈ (dirEntry t pa).present ∧ probeAnswer t d pa = some .s ∧
        (∀ o, thirdDie d pa o → o ∈ (dirEntry s pa).present → o ∈ (dirEntry t pa).present)) ∧
      (∀ o, ((dirEntry s pa).st = .owned o ∧ o ≠ d) ∨ (dirEntry s pa).st = .split →
        let stays := (dirEntry t pa).st = .split ∧ probeAnswer t d pa = some .s ∧
          ∀ k, thirdDie d pa k → probeAnswer t k pa = (probeAnswer s k pa).map (fun c => match c with | .m => .o | .e => .s | x => x)
        ((dirEntry s pa).st ≠ .split ∨ roomForLines pa s → stays) ∧
        (stays ∨ ((dirEntry t pa).st = .owned d ∧ probeAnswer t d pa = some .e ∧ ∀ k, thirdDie d pa k → probeAnswer t k pa = none)))) ∧
  (∀ (d pa : Nat) (s : State), running s → d < 4 → populated s pa = true → heldByOther s none pa = false → ∃ t, exec (.dirProbe d pa) s = .next t ∧ t.mem = s.mem ∧
    (∀ k, (t.die k).l2 = (s.die k).l2 ∧ (t.die k).dir = (s.die k).dir) ∧
    (KV.find? (s.die d).l2 (pa / 64) = none → (t.die d).probed = some (pa / 64, none)) ∧
    (∀ part c, KV.find? (s.die d).l2 (pa / 64) = some (part, c) → (t.die d).probed = some (pa / 64, if part = (partOfPa s pa).getD 16 then some c else none)))

/-- Writes and write-backs at the directory (R404), of a line that no slot holds, with room in the L2: a write or an atomic leaves the line M at the die that asked, unless it is its home, and no copy of the line's partition at any other die; an
UNCACHED region is then OWNED by it, one that another die owned, or a SPLIT one, is SPLIT (or, collapsed for want of line entries, the die's), and a SHARED one is OWNED if no other die holds lines of it, else SPLIT. A write-back drops the die's copy: an
OWNED region keeps its presence, a line entry drops the die. The home die's own requests are log entry 73 (DEDUCED). -/
def Sys2Proof.Machine.Claim.DirectoryWrites : Prop :=
  (∀ (d pa : Nat) (s : State), running s → d < 4 → populated s pa = true → lineFree d pa s → probeAnswer s d pa ≠ some .m → probeAnswer s d pa ≠ some .e →
    (d = homeDie pa → (dirEntry s pa).st ≠ .uncached) →
    let own := if d = homeDie pa then DirState.uncached else .owned d
    ∃ t, exec (.dirWrite d pa) s = .next t ∧ (unmarked s → t.mem = s.mem) ∧ (∀ o, o < 4 → o ≠ d → probeAnswer t o pa = none) ∧
      (d ≠ homeDie pa → probeAnswer t d pa = some .m) ∧
      ((dirEntry s pa).st = .uncached → dirEntry t pa = { present := [d], st := .owned d }) ∧
      (∀ o, (dirEntry s pa).st = .owned o → (dirEntry t pa).st = (if o = d then .owned d else .split)) ∧
      ((dirEntry s pa).st = .split → (roomForLines pa s → (dirEntry t pa).st = .split) ∧ ((dirEntry t pa).st = .split ∨ (dirEntry t pa).st = own)) ∧
      ((dirEntry s pa).st = .shared → d ≠ homeDie pa → ((∃ o, thirdDie d pa o ∧ holdsRegion t o pa = true) → (dirEntry t pa).st = .split) ∧
        ((∀ o, thirdDie d pa o → holdsRegion t o pa = false) → (dirEntry t pa).st = .owned d))) ∧
  (∀ (d pa : Nat) (s : State), running s → d < 4 → d ≠ homeDie pa → probeAnswer s d pa = some .m ∨ probeAnswer s d pa = some .o →
    (∀ o, (dirEntry s pa).st = .owned o → ∃ t, exec (.dirWriteback d pa) s = .next t ∧ (unmarked s → t.mem = s.mem) ∧ probeAnswer t d pa = none ∧ dirEntry t pa = dirEntry s pa) ∧
    ((dirEntry s pa).st = .split → ∃ t, exec (.dirWriteback d pa) s = .next t ∧ (unmarked s → t.mem = s.mem) ∧ probeAnswer t d pa = none ∧ (roomForLines pa s → (dirEntry t pa).st = .split) ∧
      ∀ hs, KV.find? (dirEntry t pa).lines (pa / 64) = some hs → KV.find? hs d = none))

/-- Fabric accesses (R411, R412): one of a slot that got no answer in 2^22 cycles ends the launch with POISON and its access kind, or on a control core traps to M with it, and a machine check is pending; one from another
device to a partition that is not enabled, does not export to it or does not hold the address is answered PROTECTION with its kind; one that is accepted reads or writes at the home. Which kinds read, write or swap, and the layout of the reply, are log entry 42 (DEDUCED). -/
def Obligations.FabricAccesses : Prop :=
  (∀ (p a k va since : Nat) (s : State), running s → (s.slot p).st = .active → (s.slot p).wait = .fabric a k va since → since + 2 ^ 22 ≤ s.cycle → k < 5 →
    (∀ l, isCtl p = false → (s.slot p).launch = some l → (s.launch l).st.terminal = false → (s.launch l).fault = none →
      ∃ t, exec (.fabricTimeout p a) s = .next t ∧ t.board.mcheck = true ∧ (t.launch l).st = .ending ∧ (t.launch l).fault =
        some { cause := Cause.poison + k, detail := BitVec.ofNat 64 va, where_ := p, ginst := (s.ginst (s.slot p).ginst).num }) ∧
    (isCtl p = true → ∃ t, exec (.fabricTimeout p a) s = .next t ∧ t.board.mcheck = true ∧
      trapped p 2 false (Cause.poison + k) (s.slot p).pc (if 0x20 ≤ Cause.poison + k ∧ Cause.poison + k < 0x50 then BitVec.ofNat 64 va else 0) s t)) ∧
  (∀ (f part rpart pa kind key : Nat) (ke : Bool) (b : List Byte) (s : State), running s → b ≠ [] → pa % 64 + b.length ≤ 64 → kind ≤ 4 → heldByOther s none pa = false →
    ((s.part rpart).en = false ∨ exportsTo s rpart f part = false ∨ rangeHas (s.part rpart) pa = false ∨
        (ke = true ∧ (key < (s.part rpart).keybase ∨ (s.part rpart).keybase + (s.part rpart).keycount ≤ key ∨ memKey s key = none)) →
      happens (.fabricAccess f part rpart pa kind key ke b) s (s.modBoard (fun x => { x with fabricReply := some (Cause.protection + kind, []) }))) ∧
    ((s.part rpart).en = true → exportsTo s rpart f part = true → rangeHas (s.part rpart) pa = true → rangeHas (s.part rpart) (pa + b.length - 1) = true → ke = false →
      (kind ≠ 2 → kind ≠ 3 → poisonIn s pa b.length = none →
        happens (.fabricAccess f part rpart pa kind key ke b) s (s.modBoard (fun x => { x with fabricReply := some (0, homeRead s pa b.length none) }))) ∧
      (kind = 3 → poisonIn s pa b.length = none → happens (.fabricAccess f part rpart pa kind key ke b) s
        ((homeStore none { loc := pa } b s).modBoard (fun x => { x with fabricReply := some (0, homeRead s pa b.length none) }))) ∧
      (kind = 2 → poisonPart s pa b.length = none → happens (.fabricAccess f part rpart pa kind key ke b) s
        ((homeStore none { loc := pa } b s).modBoard (fun x => { x with fabricReply := some (0, []) })))))

/-- A landing (R420, R421, R423, R424, R425), of a flow whose entry no unit holds and carries no poison: before stage S2, after a fatal error, or in an unsupported mode it is counted at the port, and for no flow in the port's drops; with a bad tag, in AUTHF only; for a bad entry, in CFGERR; a record too long,
or with the ring full under DROP-NEW, is lost; under DROP-OLD a full ring loses its oldest record; under BACKPRESSURE a full ring withholds it; else it is written to slot RXTAIL mod 2^RLOG with its header, RXTAIL rises, and with HND a handler act is started, or CFGERR rises where
the launch is finished or has no such handler. The numbers of the port's counters are log entry 118 (DESIGN CHOICE). -/
def Sys2Proof.Machine.Claim.PortLandings : Prop :=
  (∀ (port index mode : Nat) (ok : Bool) (b : List Byte) (s : State), port < 8 → let ev := Instr.portLanding port index mode ok b
    (s.board.stage = .s0 ∨ s.board.stage = .s1 ∨ s.board.fatal = true ∨ 3 ≤ mode → happens ev s (countUp (64 + 2 * port) s)) ∧
    (s.board.stage = .s2 → running s → mode ≤ 2 → flowAt s index = none → happens ev s (countUp (64 + 2 * port + 1) s))) ∧
  (∀ (port index mode part k a : Nat) (b : List Byte) (s : State), running s → s.board.stage = .s2 → port < 8 → mode ≤ 2 → flowAt s index = some (part, k, a) → flowPoison s a = none →
    (heldByOther s none a = false → happens (.portLanding port index mode false b) s (addFlow a 56 8 1 s)) ∧
    (heldByOther s none a = true → exec (.portLanding port index mode false b) s = .next (tick { s with idle := true }))) ∧
  (∀ (port index mode part k a : Nat) (b : List Byte) (s : State), running s → s.board.stage = .s2 → port < 8 → mode ≤ 2 → flowAt s index = some (part, k, a) → flowPoison s a = none →
    heldByOther s none a = false → heldByOther s none (a + 64) = false →
    let f := flowOf s a
    let n := flowField s a 32 8
    let h := flowField s a 24 8
    let used := (n + 2 ^ 64 - h) % 2 ^ 64
    let loses := fun (m : Nat) (s : State) => addFlow a 48 8 m (addFlow a 40 8 1 s)
    let record := leBytes 4 b.length ++ leBytes 1 port ++ leBytes 1 mode ++ leBytes 2 0 ++ leBytes 8 n ++ b
    let ev := Instr.portLanding port index mode true b
    (flowBad s part port f = true → happens ev s (addFlow a 124 4 1 s)) ∧
    (flowBad s part port f = false → 2 ^ f.slog - 16 < b.length → happens ev s (loses b.length s)) ∧
    (flowBad s part port f = false → b.length ≤ 2 ^ f.slog - 16 → 2 ^ f.rlog ≤ used →
      (f.policy = 0 → happens ev s (loses b.length s)) ∧ (f.policy = 2 → exec ev s = .next (tick { s with idle := true }))) ∧
    (∀ s2, flowBad s part port f = false → b.length ≤ 2 ^ f.slog - 16 → 2 ^ f.rlog ≤ used → f.policy = 1 → f.hnd = false →
      landBytes part f (2 ^ f.slog * (n % 2 ^ f.rlog)) record
        (loses (recordLen part f (2 ^ f.slog * (h % 2 ^ f.rlog)) s) (setFlow a 24 8 ((h + 1) % 2 ^ 64) s)) = some (true, s2) →
      happens ev s (setFlow a 32 8 ((n + 1) % 2 ^ 64) s2)) ∧
    (∀ s2, flowBad s part port f = false → b.length ≤ 2 ^ f.slog - 16 → used < 2 ^ f.rlog → landBytes part f (2 ^ f.slog * (n % 2 ^ f.rlog)) record s = some (true, s2) →
      let s3 := setFlow a 32 8 ((n + 1) % 2 ^ 64) s2
      let lk := launchKey part f.hlaunch
      (f.hnd = false → happens ev s s3) ∧
      (∀ (l : Launch) (g v : Nat), f.hnd = true → KV.find? s3.launches lk = some l → launchOnCore s3 lk (coreOf f.hcore) = some (g, v) → l.st.terminal = false →
        f.hidx < (s3.obj l.objKey).handlers.length →
        ∃ (t : State) (i : NetItem), exec ev s = .next t ∧ t.net = s3.net ++ [i] ∧ t.mem = s3.mem ∧ i.kind = .port ∧ i.dst = coreOf f.hcore ∧ i.handler = f.hidx ∧ i.launch = lk ∧
          i.regs = [BitVec.ofNat 64 (f.rbase + 2 ^ f.slog * (n % 2 ^ f.rlog) + 16), BitVec.ofNat 64 b.length, BitVec.ofNat 64 k]) ∧
      (f.hnd = true → KV.find? s3.launches lk = none ∨ (∃ l, KV.find? s3.launches lk = some l ∧ (l.st.terminal = true ∨ (s3.obj l.objKey).handlers.length ≤ f.hidx)) →
        happens ev s (addFlow a 124 4 1 s3))))

/-- Transmission (R427), of a flow whose entry carries no poison and no unit holds: a write of TXTAIL is accepted with TXEN and CLPERM.PORTS of the writing cluster (a writer that is none of the clusters has no CLPERM and may transmit: log entry 110, DESIGN CHOICE, as is which port serves a flow), else counted in
DENY; with no write to look at, the port reads the next descriptor and its payload, and abandons one with a bad field; TXHEAD rises when the oldest message is acknowledged, sent or abandoned, and TXERR when it is abandoned. -/
def Sys2Proof.Machine.Claim.PortTransmission : Prop :=
  ∀ (part flow port k a : Nat) (s : State), running s → s.board.stage = .s2 → port < 8 → flowAt s ((s.part part).keybase + flow) = some (part, k, a) → flowPoison s a = none → heldByOther s none (a + 64) = false →
    let f := flowOf s a
    let x := txOf s part flow
    let n := (flowField s a 72 8 + x.out.length) % 2 ^ 64
    let ev := Instr.portTransmit part flow port
    (∀ (w : TailWrite) (before behind : List TailWrite), s.board.txWrites = before ++ w :: behind → (∀ u ∈ before, u.entry ≠ a) → w.entry = a →
      let s1 := s.modBoard (fun b => { b with txWrites := before ++ behind })
      let may := f.txen = true ∧ (256 ≤ w.writer ∨ (s.cluster w.writer).clperm.getLsbD 7 = true)
      (may → happens ev s (setTx part flow { x with limit := some w.value } s1)) ∧ (¬ may → happens ev s (addFlow a 120 4 1 s1))) ∧
    (∀ m d s1, (∀ u ∈ s.board.txWrites, u.entry ≠ a) → f.v = true → f.ok = true → f.txen = true → x.limit = some m → m ≠ n → partRead part (f.txbase + 32 * (n % 2 ^ f.rlog)) 32 s = .ok (d, s1) →
      (fieldAt d 8 4 = 0 ∨ 2 ^ f.slog - 16 < fieldAt d 8 4 ∨ zeroAt d 12 20 = false → happens ev s (setTx part flow { x with out := x.out ++ [none] } s1)) ∧
      (∀ b s2, fieldAt d 8 4 ≠ 0 → fieldAt d 8 4 ≤ 2 ^ f.slog - 16 → zeroAt d 12 20 = true → partRead part (fieldAt d 0 8) (fieldAt d 8 4) s1 = .ok (b, s2) →
        happens ev s (setTx part flow { x with out := x.out ++ [some b] } s2))) ∧
    (∀ m r, x.out = m :: r →
      (m = none → happens (.portTxComplete part flow true) s (addFlow a 112 8 1 (addFlow a 72 8 1 (setTx part flow { x with out := r } s)))) ∧
      (m ≠ none → happens (.portTxComplete part flow false) s (addFlow a 72 8 1 (setTx part flow { x with out := r } s)))) ∧
    (∀ (writer loc len : Nat), reportTail writer loc len s = s.modBoard (fun b => { b with
      txWrites := b.txWrites ++ (tailEntries s loc len).map (fun y => { entry := y, writer := writer, value := ofLe (Memory.readN s.mem (y + 80) 8) }) }))

/-! ### Reset, the monitor and the board -/

/-- Device reset and the monitor's start (R434 to R438, R441): a reset leaves stage S1 with what package flash holds, no slot, no partition and memory with nothing listed, and RECOVERY 1 when no image verifies; the monitor starts only
when stack 0 is trained and the configuration blob verifies, at M in slot 0 of control core 0 of die 0, the secret forgotten and the clusters of absent stacks out of service; with a blob that does not verify it has been placed and the secret is forgotten, and the device is in RECOVERY with reason 3 (log entry 119, DEDUCED); RECOVER is refused when the device
does not need it. The monitor's first address and the order of the slots are log entry 69 (DEDUCED), the blob's signature log entry 43 (PRESUMED). -/
def Sys2Proof.Machine.Claim.MonitorStart : Prop :=
  (∀ (s : State), ∃ t, exec .deviceReset s = .next t ∧ t.mem = [] ∧ t.slots = [] ∧ t.parts = [] ∧ t.launches = [] ∧ t.board.stage = .s1 ∧ t.board.fatal = false ∧ t.board.flashA = s.board.flashA ∧
    t.board.flashB = s.board.flashB ∧ t.board.blob = s.board.blob ∧ t.board.helper = s.board.helper ∧ t.board.cert = s.board.cert ∧ t.board.telem.length = 0x380 ∧
    t.board.recovery = (if verifiedImage s.board.flashA = none ∧ verifiedImage s.board.flashB = none then 1 else 0)) ∧
  (∀ (b i : List Byte), verifiedImage b = some i → fieldAt b 0 4 = 0x4E4F4D4C ∧ 1 ≤ fieldAt b 4 4 ∧ fieldAt b 4 4 ≤ 16000000 ∧ i = b.take (7424 + fieldAt b 4 4) ∧ i.length = 7424 + fieldAt b 4 4 ∧
    Config.sha3_512 ((i.drop 16).take 2592) = Config.vendorRoot) ∧
  (∀ (trained : Bool) (absent : List Nat) (s : State), s.board.stage = .s1 → s.board.recovery = 0 → running s →
    (trained = false → happens (.monitorStart trained absent) s (s.modBoard (fun b => { b with recovery := 2 }))) ∧
    (∀ i, trained = true → blobOk s.board.blob = false → bootImage s.board = some i → ∃ t, exec (.monitorStart trained absent) s = .next t ∧ t.board.stage = .s1 ∧ t.board.recovery = 3 ∧
      t.board.romSecret = none ∧ t.board.mondig = Config.sha3_512 i ∧ t.slots = s.slots ∧ t.dies = s.dies) ∧
    (∀ i, trained = true → blobOk s.board.blob = true → bootImage s.board = some i → ∃ t, exec (.monitorStart trained absent) s = .next t ∧ t.board.stage = .s2 ∧ t.board.romSecret = none ∧
      t.board.mondig = Config.sha3_512 i ∧ t.board.cfgdig = Config.sha3_512 s.board.blob ∧ t.board.absent = absent.filter (fun k => decide (1 ≤ k) && decide (k ≤ 7)) ∧
      (t.slot 0x8000).st = .active ∧ (t.slot 0x8000).ctl.level = 2 ∧ (t.slot 0x8000).pc = globalBase + monitorBase + 7424 ∧ (∀ q, q ≠ 0x8000 → t.slot q = s.slot q) ∧
      ∀ k ∈ absent, 1 ≤ k → k ≤ 7 → ∀ j, j < 32 → (t.die (k / 2)).outsvc.getLsbD (32 * (k % 2) + j) = true)) ∧
  (∀ (img : List Byte) (s : State),
    (s.board.recovery = 0 ∨ s.board.stage ≠ .s1 → happens (.recover img) s (s.modBoard (fun b => { b with answer := [4] }))) ∧
    (s.board.recovery ≠ 0 → s.board.stage = .s1 → 2 ^ 24 < img.length → happens (.recover img) s (s.modBoard (fun b => { b with answer := [3] }))) ∧
    (s.board.recovery ≠ 0 → s.board.stage = .s1 → img.length ≤ 2 ^ 24 → ∃ t, exec (.recover img) s = .next t ∧ t.board.answer = [0] ∧ t.board.flashB = img ∧ t.board.flashA = s.board.flashA ∧ t.board.stage = .s1))

/-- The mailbox (R439, R440, R442): before stage S1 HEALTH and TELEM are not ready; then HEALTH gives the stage, the recovery code, whether the device met a fatal error, and the throttle level, and TELEM the telemetry block; ATTEST is not ready before S2,
refuses a nonce of another length than 64 and a device without identity, and else answers a report of 8,640 bytes that holds the nonce, with its signature of 4,627. The byte layouts and the status bytes of the
answers are log entry 70 (DEDUCED). -/
def Sys2Proof.Machine.Claim.MailboxAnswers : Prop :=
  (∀ (s : State), (s.board.stage = .s0 → happens .health s (s.modBoard (fun b => { b with answer := [1] })) ∧ happens .telem s (s.modBoard (fun b => { b with answer := [1] }))) ∧
    (s.board.stage ≠ .s0 → happens .telem s (s.modBoard (fun b => { b with answer := 0 :: b.telem })) ∧
      ∃ t rest, exec .health s = .next t ∧ t.mem = s.mem ∧ t.board.answer = 0 :: BitVec.ofNat 8 (stageCode s) :: (if s.board.recovery = 0 then 0 else 1) :: BitVec.ofNat 8 s.board.recovery ::
        (if s.board.fatal then 1 else 0) :: BitVec.ofNat 8 s.board.throttle :: rest ∧ rest.length = 8)) ∧
  (∀ (s : State), (s.board.stage = .s1 → stageCode s = 1) ∧ (s.board.stage = .s2 → (stageCode s = 3 ↔ ∃ e ∈ s.parts, e.2.en = true ∧ e.2.image = 2) ∧ (stageCode s = 3 ∨ stageCode s = 2))) ∧
  (∀ (nonce : List Byte) (s : State),
    (s.board.stage ≠ .s2 ∨ s.board.fatal = true → happens (.attest nonce) s (s.modBoard (fun b => { b with answer := [1] }))) ∧
    (s.board.stage = .s2 → running s → nonce.length ≠ 64 → happens (.attest nonce) s (s.modBoard (fun b => { b with answer := [3] }))) ∧
    (s.board.stage = .s2 → running s → nonce.length = 64 → s.board.identity = false → happens (.attest nonce) s (s.modBoard (fun b => { b with answer := [2] }))) ∧
    (s.board.stage = .s2 → running s → nonce.length = 64 → s.board.identity = true → ∃ t r, exec (.attest nonce) s = .next t ∧ t.mem = s.mem ∧ (r.drop 8).take 64 = nonce ∧
      r.take 4 = [0x41, 0x54, 0x54, 0x52] ∧ r.length = 8640 ∧ (Config.mldsaSign (homeRead s handoffBase 32 none) (Config.sha3_512 r)).length = 4627 ∧ t.board.answer = 0 :: r ++ Config.mldsaSign (homeRead s handoffBase 32 none) (Config.sha3_512 r)))

/-- Telemetry and throttling (R442, R443): when its time has come the controller measures, chooses the throttle level and rewrites the telemetry block, which holds the temperatures, the powers and that level; the level is what power needs, at least 4 from 95 degrees, 7 from 105 degrees or with the power brake,
which drives it to 7 at once; a die at 115 degrees takes the fatal path and drives THERMTRIP; before stage S2, and after a fatal error, memory does not change. The units of the block and of the temperatures are log entry 78 (DESIGN CHOICE). -/
def Sys2Proof.Machine.Claim.TelemetryAndThrottle : Prop :=
  (∀ (temps dieMw stackMw : List Nat) (s : State), s.board.stage ≠ .s0 → s.board.telemNext ≤ s.cycle → ∃ t, exec (.telemetryUpdate temps dieMw stackMw) s = .next t ∧
    (s.board.stage = .s1 ∨ s.board.fatal = true → t.mem = s.mem) ∧ t.board.temps = (List.range 4).map (fun k => temps.getD k 0) ∧
    t.board.throttle = throttleLevel s.board.need s.board.powerBrake t.board.temps ∧ t.board.telemNext = s.cycle + 2 ^ 21 ∧
    t.board.telem.take 0x20 = (List.range 4).flatMap (fun k => leBytes 8 (temps.getD k 0)) ∧ (t.board.telem.drop 0x80).take 8 = leBytes 8 t.board.throttle ∧
    (t.board.telem.drop 0x20).take 0x20 = (List.range 4).flatMap (fun k => leBytes 8 (dieMw.getD k 0)) ∧ (t.board.telem.drop 0x40).take 0x40 = (List.range 8).flatMap (fun k => leBytes 8 (stackMw.getD k 0)) ∧
    t.board.telem.length = 0x380 ∧
    ((∃ k, k < 4 ∧ 16 * 115 ≤ temps.getD k 0) → t.board.fatal = true ∧ t.board.thermtrip = true) ∧
    ((∀ k, k < 4 → temps.getD k 0 < 16 * 115) → t.board.fatal = s.board.fatal ∧ t.board.thermtrip = s.board.thermtrip)) ∧
  (∀ (temps dieMw stackMw : List Nat) (s : State), s.board.stage ≠ .s0 → s.cycle < s.board.telemNext → exec (.telemetryUpdate temps dieMw stackMw) s = .next (tick { s with idle := true })) ∧
  (∀ (need : Nat) (brake : Bool) (s : State), s.board.stage ≠ .s0 → ∃ n, happens (.throttleUpdate need brake) s (s.modBoard (fun b => { b with need := need, throttle := n, powerBrake := brake })) ∧ n ≤ 7 ∧
    (brake = true ∨ (∃ x ∈ s.board.temps, 16 * 105 ≤ x) → n = 7) ∧ ((∃ x ∈ s.board.temps, 16 * 95 ≤ x) → 4 ≤ n) ∧
    (brake = false → (∀ x ∈ s.board.temps, x < 16 * 95) → n = (if need < 7 then need else 7))) ∧
  (∀ (s : State), s.board.stage ≠ .s0 → happens .powerBrake s (s.modBoard (fun b => { b with throttle := 7, powerBrake := true })))

/-- Fatal errors, links and the scrub (R413, R429, R432, R433): a fatal error stops every act, ends every launch with no status posted and drives FAULT, and a thermal trip THERMTRIP too; afterwards no instruction issues; a link's retry is counted as corrected, and a link that fails
is down, with a machine-check record in stage S2; the scrub writes a record for a poisoned line once; a corrected error is counted, and a count that crosses a multiple of 1,024 in stage S2 makes a machine check; an error in memory poisons its line, or its granule in a scratchpad, or marks the 64-bit word of a tile (log entry 84, DEDUCED),
and is fatal in the ring control and the boot hand-off block. That it is fatal at once is log entry 111, the record only in stage S2 log entry 112, the record of a link log entry 120 (DEDUCED); the numbers of links and counters are log entries 100 and 75 (DESIGN CHOICE). -/
def Sys2Proof.Machine.Claim.FatalErrorsAndLinks : Prop :=
  (∀ (source d unit : Nat) (s : State), running s → s.board.stage ≠ .s0 → ∃ t, exec (.fatalError source d unit) s = .next t ∧ t.board.fatal = true ∧ t.board.faultPin = true ∧ t.launches = [] ∧
    (∀ q ∈ t.queues, q.2.launches = [] ∧ ∃ x ∈ s.queues, x.1 = q.1 ∧ x.2.ctail = q.2.ctail) ∧ (s.board.stage = .s1 → t.mem = s.mem)) ∧
  (∀ (d : Nat) (s : State), d < 4 → s.board.stage ≠ .s0 → ∃ t, exec (.thermalTrip d) s = .next t ∧ t.board.fatal = true ∧ t.board.thermtrip = true ∧ (running s → t.launches = [] ∧ t.board.faultPin = true) ∧
    (d < s.board.temps.length → 16 * 115 ≤ t.board.temps.getD d 0)) ∧
  (∀ (p : Nat) (s : State), s.board.fatal = true → ∃ t, issueSlot p s = .next t ∧ t.idle = true ∧ t.mem = s.mem) ∧
  (∀ (link : Nat) (s : State), linkExists link = true → link ∉ s.board.linksDown →
    happens (.linkFlitError link false) s (countError (link / 256 % 4) 8 (s.modBoard (fun b => { b with linkRetries := KV.modify 0 b.linkRetries link (· + 1) }))) ∧
    ∀ ev ∈ [Instr.linkFlitError link true, .linkDown link],
      (s.board.stage ≠ .s2 ∨ s.board.fatal = true → happens ev s (s.modBoard (fun b => { b with linksDown := link :: b.linksDown }))) ∧
      (s.board.stage = .s2 → running s → ∃ t, exec ev s = .next t ∧ t.board.linksDown = link :: s.board.linksDown ∧ t.board.mcheck = true ∧ t.slots = s.slots ∧ t.net = s.net ∧ t.launches = s.launches)) ∧
  (∀ (pa : Nat) (s : State), running s → s.board.stage = .s2 → populated s pa = true → (poisonIn s (pa / 64 * 64) 64).isSome = true →
    (pa / 64 ∉ s.poisonSeen → ∃ t, exec (.scrub pa) s = .next t ∧ t.board.mcheck = true ∧ t.poisonSeen = pa / 64 :: s.poisonSeen ∧ t.poison = s.poison) ∧
    (pa / 64 ∈ s.poisonSeen → exec (.scrub pa) s = .next (tick { s with idle := true }))) ∧
  (∀ (d k : Nat) (s : State), countError d k s = countUp (d * 16 + k) s) ∧
  (∀ (m : Nat) (s : State),
    let s1 := s.modBoard (fun b => { b with counts := KV.modify 0 b.counts m (· + 1) })
    let n := KV.get 0 s1.board.counts m
    let c := KV.get 0 s.board.crossed m
    (s.board.stage ≠ .s2 ∨ n / 1024 ≤ c → countUp m s = s1) ∧
    (s.board.stage = .s2 → running s → c < n / 1024 → (countUp m s).board.mcheck = true ∧ (countUp m s).board.counts = s1.board.counts ∧
      (countUp m s).board.crossed = KV.set s.board.crossed m (n / 1024))) ∧
  (∀ (loc source : Nat) (s : State), running s → s.board.stage = .s2 →
    let t := memoryError loc source s
    (vitalLine loc = true → loc < tileBase → t.board.fatal = true ∧ t.board.faultPin = true ∧ t.launches = []) ∧
    (vitalLine loc = false → loc < tileBase → t.board = s.board ∧ t.mem = s.mem ∧
      ∀ g, poisoned t g = true ↔ poisoned s g = true ∨ (if isSpad loc = true then g = loc / 16 else g / 4 = loc / 64)) ∧
    (tileBase ≤ loc → t.board = s.board ∧ t.mem = s.mem ∧ t.poison = s.poison ∧
      KV.find? (t.core (tileCore loc)).mx.errs (tileWord loc) = some (decide (source ≠ 4))))


/-! ### The machine as a whole -/

/-- What a step adds to the outcome of an issue of slot `p` (R17, R18, R75, R233, R247): the unit that the instruction holds, the safe point that a wait completed has passed, both only where its guards hold, the cycles that
ready slots have waited, and what follows at once in the engines and the cell tables. -/
def Sys2Proof.Machine.afterIssue (p : Nat) (i : Option Instr) (s : State) (o : Host.Outcome State Fault Refusal) : Host.Outcome State Fault Refusal :=
  match o with
  | .next t =>
    let u := if t.idle = true then t else (match i with | some i => afterRun p i s t | none => t)
    .next (settleTables (settleUnits (if u.idle = true then aged none s u else waited p s u)))
  | x => x

/-- A step runs the decoded instruction (R17, R59 to R63, R81): when the schedule lets slot `p` issue, the slot is ACTIVE and its core's choice, does not stand at a safe point to park, nor is it to restart, its launch goes on
and its watchdog is not due, and, on a control core, no interrupt may be taken, the instruction that the bytes at its program counter decode to is executed, if the unit it needs is free; one in a message's
payload is decoded from the payload (R137); and one that fails a decode check that its level does not hide faults with the check's cause and has no effect. What the step adds changes no memory, and of the slot
only its safe point and the record of what its accesses are ordered behind (R205, log entry 131). -/
def Obligations.StepRunsDecoded : Prop :=
  (∀ (p : Nat) (rest : List Move) (s : State), s.agenda = .issue p :: rest → running s →
    let x := s.slot p
    let sr := { s with agenda := rest }
    let s0 := { sr with cur := p }
    x.st = .active → x.readyAt ≤ s.cycle → outranked sr p = false → x.parking = false → inRestart s0 x = false → (isCtl p = true → ∀ k, ¬ takes s0 p k) →
    (isCtl p = false → launchEnding s (x.launch.getD 0) = false ∧ watchdogDue s p = false) → x.pc % 4 = 0 → x.pc % 32 ≠ 28 →
    (∀ b q s1, x.payload = none → fetchBytes p x.pc s0 = .ok ((b, q), s1) →
      (∀ i n, decode (x.pc % 32) b = .ok (i, n) → poisonIn s1 q.loc n = none → unitBusy s p i = false → step s = afterIssue p (some i) sr (exec i (sourced p i s1))) ∧
      (∀ r, decodeRaw (x.pc % 32) none b = .error r → poisonIn s1 q.loc 8 = none → step s = afterIssue p none sr (.next (faulted p (decodeCauseCode r.cause) 0 none s0))) ∧
      (∀ r d, decodeRaw (x.pc % 32) none b = .ok r → decodeChecks false r = .error d → poisonIn s1 q.loc 8 = none →
        step s = afterIssue p none sr (.next
          (faulted p (if permitsOpc (if isCtl p then some x.ctl.level else none) r.opc r.enc.v then decodeCauseCode d.cause else Cause.privilege) 0 none s0)))) ∧
    (∀ b r i, x.payload = some b → decodeRaw (x.pc % 32) (some x.pc) (b.drop x.pc) = .ok r → decodeChecks true r = .ok i → unitBusy s p i = false →
      step s = afterIssue p (some i) sr (exec i (sourced p i s0)))) ∧
  (∀ (p : Nat) (i : Instr) (s t : State),
    (∀ u, u = waited p s t ∨ u = aged none s t → u = { t with slots := u.slots } ∧
      ∀ q, u.slot q = { t.slot q with readyFor := (u.slot q).readyFor, urgent := (u.slot q).urgent, yielded := (u.slot q).yielded }) ∧
    (waited p s t).slot p = t.slot p ∧
    (let u := afterRun p i s t
     u = { t with slots := u.slots, cores := u.cores } ∧ u.slot p = { t.slot p with safe := (u.slot p).safe, order := (u.slot p).order } ∧ (∀ q, q ≠ p → u.slot q = t.slot q) ∧
      (∀ d, u.core d = { t.core d with divBusy := (u.core d).divBusy, sfuBusy := (u.core d).sfuBusy }) ∧
      (∀ o e, opcodeOf i = some (o, e) → (s.slot p).guards e = false → u.cores = t.cores ∧ (u.slot p).safe = (t.slot p).safe)) ∧
    (let u := sourced p i t
     u = { t with slots := u.slots } ∧ u.slot p = { t.slot p with order := (u.slot p).order } ∧ ∀ q, q ≠ p → u.slot q = t.slot q) ∧
    (∀ o e, opcodeOf i = some (o, e) →
      (unitBusy s p i = true ↔ (s.slot p).guards e = true ∧ (((o = 0x06 ∨ o = 0x07) ∧ s.cycle < (s.core (coreOf p)).divBusy) ∨
        (0x96 ≤ o ∧ o ≤ 0x99 ∧ s.cycle < (s.core (coreOf p)).sfuBusy)))) ∧
    settleTables t = { t with tables := (settleTables t).tables } ∧
    (let u := settleUnits t
     u = { t with cores := u.cores, poison := u.poison, unanswered := u.unanswered }))

/-- The checks that do not come from the words (R18, R65, R79, R80, R81, R433): a slot that is not ACTIVE, or a device after a fatal error, issues nothing; a privileged opcode on a compute core, or at a level that does not permit it, faults with PRIVILEGE whatever
its guards; one of a feature that the slot has not declared faults with FEATURE; one whose replies are awaited waits; one that is guarded off does nothing but complete; and another waits for a register that a load under way has yet to write. It holds of every instruction. -/
def Obligations.IssueChecks : Prop :=
  ∀ (i : Instr) (opc : Nat) (e : Enc) (s : State), opcodeOf i = some (opc, e) → let x := s.slot s.cur
    let level := if isCtl s.cur = true then some x.ctl.level else none
    (x.st ≠ .active ∨ s.board.fatal = true → exec i s = .next (tick { s with idle := true })) ∧
    (x.st = .active → running s →
      (permitsOpc level opc e.v = false → exec i s = .next (faulted s.cur Cause.privilege 0 none s)) ∧
      (∀ f, isCtl s.cur = false → permitsOpc level opc e.v = true → featureOf opc = some f → f ≠ 0 → x.feat.testBit f = false →
        exec i s = .next (faulted s.cur Cause.feature 0 none s)) ∧
      (admitted opc e s.cur x = none →
        let off := x.p e.ga.p.val = e.ga.neg ∨ x.p e.gb.p.val = e.gb.neg
        (replyWait e x = true → exec i s = .next (notReady e s.cur s)) ∧
        (replyWait e x = false → off → exec i s = .next (completed e s.cur .next s)) ∧
        (replyWait e x = false → ¬ off → loadsClear opc e x = false → exec i s = .next (notReady e s.cur s))))

/-- A register operand, or none. -/
def Sys2Proof.Machine.regOrNone (o : Opnd) : Prop := ∀ n m, o ≠ .chan n ∧ o ≠ .strm m

/-- What an instruction on registers alone leaves unchanged (R72, R111, R142): scalar arithmetic and logic, lanes, moves, conversions and scans, with no channel or stream among their operands, complete, and change no memory, no other slot, and of their own slot the destination register (of `vpack` to
an LB format also the next), the program counter with what completion records, and the flags of FCS, which are only set; a scalar instruction sets none. -/
def Obligations.RegisterOnlyFrame : Prop :=
  ∀ (i : Instr) (opc : Nat) (e : Enc) (s : State), opcodeOf i = some (opc, e) → opc < 0x12 ∨ (0x80 ≤ opc ∧ opc ≤ 0xAC) ∨ opc = 0xAF → ready opc e s → encOk opc e = true →
    regOrNone e.d → regOrNone e.a → regOrNone e.b → regOrNone e.c → regOrNone e.e →
    ∃ t, exec i s = .next t ∧ sameDevice s t ∧ sameCores s t ∧ sameClusters s t ∧ sameOthers s.cur s t ∧
      let x := s.slot s.cur
      let y := t.slot s.cur
      y = { x with pc := y.pc, xg := y.xg, win := y.win, v := y.v, preds := y.preds, fcs := y.fcs, wait := .none, reexec := false, yielded := e.yield, readyFor := 0, urgent := false, drawNo := none, resumed := false
                   safe := y.safe, live := y.live, wdBase := y.wdBase } ∧
      y.fcs &&& x.fcs = x.fcs ∧ y.rm = x.rm ∧ (opc < 0x12 → y.fcs = x.fcs) ∧
      (∀ k : Fin 32, e.d ≠ .reg k → y.x k = x.x k ∧ (k.val < 8 → y.p k = x.p k) ∧ ((opc = 0xA7 → ∀ j : Fin 32, e.d = .reg j → k.val ≠ j.val + 1) → y.vreg k = x.vreg k))

/-- Encoding and decoding agree (R59, R60, R64 to R75): every well-formed instruction, at every value of its operands and fields, is decoded from its words, at any place in a fetch block where it lies whole, whatever follows it. -/
def Obligations.EncodeDecode : Prop :=
  ∀ (i : Instr) (b rest : List Byte) (off : Nat), i.wf = true → encode i = some b → off % 32 + b.length ≤ 32 → decode off (b ++ rest) = .ok (i, b.length)

/-- The words that the manual writes out decode to the instructions it gives them (R64, R70, R75, R239, R266, R312, R354; the `amo` word stands in the section 'Atomics at the home' of 07, the `vfma` word in 'Class 4: lane arithmetic' of 06, the `mxq` word in 'The instructions' of 10, the `rbeg` word in 'Instructions' of 11): an `add` with both guards, `endact`, `vfma.f32`, `amo.add.s64`, `cst.go`, `cclose`, `mxq`, `rbeg`, `jwait`, `eret`, `pcrd` and `mcall`. -/
def Obligations.DecodedWords : Prop :=
  let w := fun (d a b c e : Opnd) (typ : BitVec 4) (ga gb : Guard) (ext : Ext) =>
    ({ yield := false, wait := 15, hint := 0, typ := typ, var := 0, e := e, c := c, b := b, a := a, d := d, gb := gb, ga := ga, live := none, ext := ext } : Enc)
  let g : Guard := { neg := false, p := 0 }
  decodeTableWord 64 0x7861FFE5104E9811 = some (.add (w (.reg 9) (.reg 8) (.reg 10) .none .none 3 { neg := false, p := 3 } { neg := true, p := 5 } .none)) ∧
  decodeTableWord 64 0x7801FFFFFFF80129 = some (.endact (w .none .none .none .none .none 0 g g .none)) ∧
  decodeTableWord 64 0x79A1F96512400421 = some (.vfma (w (.reg 8) (.reg 9) (.reg 10) (.reg 11) .none 13 g g .none)) ∧
  decodeTableWord 64 0x7861FFE490500331 = some (.amo (w (.reg 10) (.reg 8) (.reg 9) .none .none 3 g g .none)) ∧
  decodeTableWord 64 0x7800616512400631 = some (.cstGo (w (.reg 8) (.reg 9) (.reg 10) (.reg 11) (.reg 12) 0 g g .none)) ∧
  decodeTableWord 64 0x7801FFFFFFF80659 = some (.cclose (w .none .none .none .none .none 0 g g .none)) ∧
  decodeTableWord 64 0x7801FFFF90480609 = some (.mxq (w (.reg 9) (.reg 8) .none .none .none 0 g g .none)) ∧
  decodeTableWord 64 0x7801FFFF92400701 = some (.rbeg (w (.reg 8) (.reg 9) .none .none .none 0 g g .none)) ∧
  decodeTableWord 64 0x7801FFFF92500741 = some (.jwait (w (.reg 10) (.reg 9) .none .none .none 0 g g .none)) ∧
  decodeTableWord 64 0x7801FFFFFFF80761 = some (.eret (w .none .none .none .none .none 0 g g .none)) ∧
  decodeTableWord 96 0x000001007801FFFFFE400752 = some (.pcrd (w (.reg 8) .none .none .none .none 0 g g (.imm32 0x100))) ∧
  decodeTableWord 96 0x000000407801FFFFFFF8076A = some (.mcall (w .none .none .none .none .none 0 g g (.imm32 0x40)))

/-- Every step keeps memory in its canonical form: addresses strictly rising, and no listed byte equal to what an unlisted address reads as. The form is the model's own, not the manual's. -/
def Obligations.StepKeepsCanonical : Prop :=
  ∀ s t : State, canonical s → step s = .next t → canonical t

/-- The state after device reset (R434): stage S0, no act, no launch, no partition enabled, no fatal error; LIM at the value the manual gives it (R343), and memory in its canonical form with nothing listed. What a byte that nothing has written reads as,
and the registers without a reset value, are the model's choice (log 4, log 5) and not stated here. -/
def Obligations.ResetState : Prop :=
  let s := State.reset
  canonical s ∧ s.mem = [] ∧ s.board.stage = .s0 ∧ s.board.fatal = false ∧ (∀ p, (s.slot p).st = .free) ∧ (∀ n, (s.part n).en = false) ∧ s.launches = [] ∧ s.queues = [] ∧ s.keys = [] ∧ s.objs = [] ∧
  (∀ n, (s.part n).lim.toNat % 64 = 24 ∧ (s.part n).lim.toNat / 2 ^ 8 % 64 = 20) ∧ s.board.throttle = 0

/-! ### Rules stated whole -/

/-- R116: `sel` takes the 64-bit form, a register D, registers or channels A and B, a predicate C, VAR 0 and no TYP; it sets X(D) to X(A) if P(C) is true and to X(B) otherwise; a channel named in A or B is consumed whichever value is chosen. -/
def Obligations.Select : Prop :=
  (∀ (e : Enc), instrOf 0x0F e = some (.sel e) ∧
    (encOk 0x0F e = true → e.ext = .none ∧ (∃ n, e.d = .reg n) ∧ ((∃ n, e.a = .reg n) ∨ ∃ q, e.a = .chan q) ∧ ((∃ n, e.b = .reg n) ∨ ∃ q, e.b = .chan q) ∧ (∃ n, e.c = .reg n ∧ n.val < 8) ∧ e.e = .none ∧
      e.v = 0 ∧ e.t = 0)) ∧
  (∀ (e : Enc) (s s1 s2 t : State) (a b : Word) (n : Fin 32), ready 0x0F e s → bound e s → readX s.cur e.a s = .ok (a, s1) → readX s.cur e.b s1 = .ok (b, s2) → e.c = .reg n →
    writeX s.cur e.d (if (s2.slot s.cur).p n = true then a else b) s2 = .ok ((), t) → exec (.sel e) s = .next (completed e s.cur .next t)) ∧
  (∀ (e : Enc) (q : Fin 8) (n m k : Fin 32) (v : Vec) (r : List Vec) (s : State), ready 0x0F e s → bound e s → ((s.slot s.cur).chan q).entries = v :: r → e.d = .reg n → e.c = .reg k →
    (e.a = .chan q ∧ e.b = .reg m) ∨ (e.a = .reg m ∧ e.b = .chan q) → ∃ t, exec (.sel e) s = .next t ∧ ((t.slot s.cur).chan q).entries = r)

/-- R149: `vsel` sets each lane to the lane of A where the lane of C is not 0, and to that of B otherwise; `vand`, `vor` and `vxor` act on all 128 bits; `.n` complements V(B) first; none raises a flag. -/
def Obligations.BitwiseLanes : Prop :=
  ∀ (e : Enc) (s s1 s2 s3 : State) (a b c : Vec), readV s.cur e.a s = .ok (a, s1) → readV s.cur e.b s1 = .ok (b, s2) → bound e s →
    (∀ t, ready 0x91 e s → readV s.cur e.c s2 = .ok (c, s3) → fmtWidth e.t ∈ [8, 16, 32, 64] → ∀ r : Vec,
      (∀ i, i < 128 / fmtWidth e.t → specLane (fmtWidth e.t) i r = if specLane (fmtWidth e.t) i c ≠ 0 then specLane (fmtWidth e.t) i a else specLane (fmtWidth e.t) i b) →
      writeV s.cur e.d r s3 = .ok ((), t) → exec (.vsel e) s = .next (completed e s.cur .next t)) ∧
    (∀ t, readV s.cur e.c s2 = .ok (c, s3) → let b' := if e.v = 1 then ~~~b else b
      (ready 0x8A e s → writeV s.cur e.d (a &&& b') s3 = .ok ((), t) → exec (.vand e) s = .next (completed e s.cur .next t)) ∧
      (ready 0x8B e s → writeV s.cur e.d (a ||| b') s3 = .ok ((), t) → exec (.vor e) s = .next (completed e s.cur .next t)) ∧
      (ready 0x8C e s → writeV s.cur e.d (a ^^^ b') s3 = .ok ((), t) → exec (.vxor e) s = .next (completed e s.cur .next t)))

/-- R358: LIM holds the act watchdog limit 2^WDEXP and the default view watchdog limit 2^VWEXP, which reset makes 2^24 and 2^20; an act faults with WATCHDOG when its count reaches the limit of its partition and not before, and a table that is loaded takes the view limit. -/
def Obligations.WatchdogLimits : Prop :=
  (∀ n, 2 ^ ((State.reset.part n).lim.toNat % 64) = 2 ^ 24 ∧ 2 ^ ((State.reset.part n).lim.toNat / 2 ^ 8 % 64) = 2 ^ 20) ∧
  (∀ (p l : Nat) (s : State), running s → (s.slot p).st = .active → isCtl p = false → (s.slot p).launch = some l → (s.slot p).boundary = false → (s.launch l).st.terminal = false → (s.launch l).fault = none →
    let limit := 2 ^ ((s.part (s.launch l).part).lim.toNat % 64)
    (limit ≤ s.cycle - (s.slot p).wdBase → ∃ t f, exec (.actWatchdog p) s = .next t ∧ (t.launch l).st = .ending ∧ (t.launch l).fault = some f ∧ f.cause = Cause.watchdog) ∧
    (s.cycle - (s.slot p).wdBase < limit → exec (.actWatchdog p) s = .next (tick { s with idle := true }))) ∧
  (∀ (p d id base : Nat) (file : List Byte) (f : LoadFile) (s : State), running s → (s.part p).en = true → KV.find? s.objs (objKey p id) = none → d < 4 → (loadCheck s p base file).2 = some f → f.cells ≠ [] →
    ∃ t, exec (.objectLoad p d id base file) s = .next t ∧ (t.table (objKey p id)).vwlim = 2 ^ ((s.part p).lim.toNat / 2 ^ 8 % 64))

/-! ### Forms on registers, and events in the simplest case -/

/-- The vector, or the scalar, of a register operand; an unused field reads zero. -/
def Sys2Proof.Machine.regV (x : Slot) (o : Opnd) : Vec := match o with | .reg n => x.vreg n | _ => 0
def Sys2Proof.Machine.regX (x : Slot) (o : Opnd) : Word := match o with | .reg n => x.x n | _ => 0

/-- Every source of an instruction is a register or unused. -/
def Sys2Proof.Machine.onRegisters (e : Enc) : Prop := regOrNone e.a ∧ regOrNone e.b ∧ regOrNone e.c ∧ regOrNone e.e

/-- `i` completes: its slot goes on to the next instruction, memory is unchanged, and of the slot it leaves, `f` holds. -/
def Sys2Proof.Machine.finishes (i : Instr) (e : Enc) (s : State) (f : Slot → Prop) : Prop :=
  ∃ t, exec i s = .next t ∧ (t.slot s.cur).pc = nextOf e (s.slot s.cur).pc ∧ t.mem = s.mem ∧ f (t.slot s.cur)

/-- Vector instructions on registers (R142 to R160): each of the shape of VectorsComplete completes whatever its registers hold, with the row's value in V(D), and no other vector
register changed. -/
def Sys2Proof.Machine.Claim.VectorRegisterForms : Prop :=
  ∀ r ∈ vectorRows, ∀ (e : Enc) (s : State) (n : Fin 32), ready r.2.1 e s → onRegisters e → e.d = .reg n →
    let x := s.slot s.cur
    finishes (r.1 e) e s (fun y => y.vreg n = (r.2.2 e x (regV x e.a) (regV x e.b) (regV x e.c)).1 ∧ ∀ m, m ≠ n.val → y.vreg m = x.vreg m)

/-- Moves, reductions and draws on registers (R151, R154 to R165): each completes whatever its registers hold, with the stated value in its destination. -/
def Sys2Proof.Machine.Claim.MoveRegisterForms : Prop :=
  ∀ (e : Enc) (s : State) (n : Fin 32), onRegisters e → e.d = .reg n →
    let x := s.slot s.cur
    let k := fun (o : Opnd) => if e.isImm32 then e.imm32 else (regX x o).toNat
    let w := fmtWidth e.t
    let l := lanesOf e.t (regV x e.a)
    (ready 0xA0 e s → (e.ext = .none → finishes (.vmov e) e s (fun y => y.vreg n = regV x e.a)) ∧ (∀ v, e.ext = .imm32 v → finishes (.vmov e) e s (fun y => y.vreg n = v ++ v ++ v ++ v)) ∧
      (∀ v, e.ext = .imm64 v → finishes (.vmov e) e s (fun y => y.vreg n = v ++ v))) ∧
    (ready 0xA1 e s → finishes (.vbcast e) e s (fun y => y.vreg n =
      splat e.t (if e.v = 0 then (regX x e.a).toNat % 2 ^ w else lane e.t (regX x e.b).toNat (regV x e.a)))) ∧
    (ready 0xA3 e s → finishes (.vshuf e) e s (fun y => y.vreg n = shuffle e.t (regV x e.a) (regV x e.b) (k e.c))) ∧
    (ready 0xA4 e s → finishes (.vins e) e s (fun y => y.vreg n = setLane e.t (k e.b) ((regX x e.a).toNat % 2 ^ w) (x.vreg n))) ∧
    (ready 0xA5 e s → n ≠ 0 → finishes (.vext e) e s (fun y => y.x n = laneWord e.t (lane e.t (k e.b) (regV x e.a)))) ∧
    (ready 0xAB e s → finishes (.vmask e) e s (fun y => y.vreg n = maskVec e.t e.v (regX x e.a))) ∧
    (ready 0xAC e s → n ≠ 0 → (e.v = 0 → finishes (.vxfer e) e s (fun y => y.x n = BitVec.ofNat 64 (joinBits 1 (l.map (fun z => z / 2 ^ (w - 1)))))) ∧
      (n.val < 8 → e.v = 1 → finishes (.vxfer e) e s (fun y => (y.p n = true ↔ ∃ z ∈ l, z ≠ 0))) ∧
      (n.val < 8 → e.v = 2 → finishes (.vxfer e) e s (fun y => (y.p n = true ↔ ∀ z ∈ l, z ≠ 0)))) ∧
    (ready 0xAF e s → finishes (.vrot e) e s (fun y => y.vreg n =
      if e.v = 0 then (mapLanes e.t (fun z _ _ => (rotBits e.t (k e.b) z, Fl.none)) (regV x e.a) 0 0).1 else rotLanes e.t (k e.b) (regV x e.a))) ∧
    (∀ (a b : Fin 32), ready 0x92 e s → e.a = .reg a → e.b = .reg b →
      let wide := fun (j : Nat) => (List.range (dotVectors e.t)).map (fun i => x.vreg (j + i))
      finishes (.vdot e) e s (fun y => y.vreg n = BitVec.ofNat 128 ((regV x e.c).toNat / 2 ^ 32 * 2 ^ 32 + (vdotValue e.t (wide a) (wide b) ((regV x e.c).toNat % 2 ^ 32)).1))) ∧
    (ready 0xA7 e s →
      let f := pairOf 0xA7 e
      let src := if e.c = .none then [regV x e.a, regV x e.b] else [regV x e.a, regV x e.b, regV x e.c, regV x e.e]
      finishes (.vpack e) e s (fun y => (isLb f.1 = true → y.vreg n = (vpackLb f.1 x.rm src).1.1 ∧ y.vreg (n + 1) = (vpackLb f.1 x.rm src).1.2) ∧
        (isLb f.1 = false → y.vreg n = (vpackValue f.1 f.2 x.rm (e.v == 1) src).1))) ∧
    (ready 0xAA e s → n ≠ 0 → finishes (.vred e) e s (fun y => y.x n = laneWord e.t (reduceLanes (redComb e.v) e.t x.rm 4 l).1)) ∧
    (ready 0xAE e s →
      let g := gen (regX x e.a).toNat (regX x e.b).toNat (regX x e.c).toNat
      finishes (.vrng e) e s (fun y => y.vreg n = ofLanes 0x6 (if e.v = 1 then g.map uniformF32 else g))) ∧
    (∀ sl u, ready 0xAD e s → n ≠ 0 → readSlice s.cur (regX x e.a).toNat s = .ok (sl, u) → ∃ t, exec (.drawSolo e) s = .next t ∧ (t.slot s.cur).pc = nextOf e x.pc ∧
      (t.slot s.cur).x n = drawResult (regX x e.b).toNat (regX x e.c).toNat (regX x e.e).toNat [(sl.masses, sl.base)]) ∧
    (∀ tok, ready 0xAD e s → n ≠ 0 → tierOf s x ≠ 0 → x.wait = .drawDone tok → finishes (.drawClus e) e s (fun y => y.x n = tok))

/-- Messages and engines in the simplest case (R15, R20, R138, R139, R182, R183, R187, R444): a start message enters its core's inbox and starts an act in a FREE slot; a remote request is answered, or times
out; a copy command is sent, starts, moves its last beat and leaves its queue; a join is placed behind it and leaves. -/
def Sys2Proof.Machine.Claim.MessageForms : Prop :=
  (∀ (retry : Bool) (n : Nat) (i : NetItem) (s : State), arrivesBy retry n i s → launchEnding s i.launch = false → (s.launch i.launch).st.terminal = false → i.dst < farBase →
    i.kind = .start → (s.core i.dst).inbox.length < 32 →
    ∃ t, exec (if retry then .packetRetry n else .packetArrival n) s = .next t ∧ t.net = s.net.eraseIdx n ∧ t.mem = s.mem ∧
      (t.core i.dst).inbox = (s.core i.dst).inbox ++ [{ i with retryAt := none, at_ := s.cycle }]) ∧
  (∀ (p : Nat) (i : NetItem) (s : State), running s → computeSlot p = true → (s.slot p).st = .free → (s.core (coreOf p)).mx.owner = none → (s.core (coreOf p)).inbox = [i] →
    takeable s p i = true → i.kind = .start → i.formula = none → i.regs.length ≤ 7 →
    ∃ t, exec (.inboxTake p) s = .next t ∧ t.mem = s.mem ∧ (t.core (coreOf p)).inbox = [] ∧ (t.slot p).st = .active ∧ (t.slot p).launch = some i.launch ∧ (t.slot p).x 1 = i.regs.getD 0 0) ∧
  (∀ (e : Enc) (s : State) (n m : Fin 32) (v : Word), onRegisters e → e.d = .reg n →
    (ready 0x49 e s → e.c = .reg m → n ≠ 0 → m ≠ 0 → m.val < 8 → (s.slot s.cur).wait = .remoteDone 0 v → finishes (.rget e) e s (fun y => y.x n = v ∧ y.p m = true)) ∧
    (ready 0x4A e s → n ≠ 0 → n.val < 8 → (s.slot s.cur).wait = .remoteDone 0 v → finishes (.rput e) e s (fun y => y.p n = true))) ∧
  (∀ (c : Nat) (r : Remote) (s : State), running s → (s.core c).remote = [r] → r.tact = 0 → r.target ≠ r.from_ → (s.slot r.target).st = .active → (s.slot r.target).boundary = false →
    (s.slot r.target).atBoundary = true → (s.slot r.target).launch = (s.slot r.from_).launch → r.spec < 32 → r.put = false →
    ∃ t, exec (.remoteRequest c) s = .next t ∧ (t.core c).remote = [] ∧ (t.slot r.from_).wait = .remoteDone 0 ((s.slot r.target).x r.spec) ∧ t.mem = s.mem) ∧
  (∀ (p target since : Nat) (r : Remote) (s : State), running s → (s.slot p).wait = .remote target since → (s.core (coreOf target)).remote = [r] → r.from_ = p → r.tact = 0 → r.target = target →
    (s.slot target).st = .halted → (s.slot target).boundary = false → (s.slot target).launch = (s.slot p).launch → since + r.timeout ≤ s.cycle →
    ∃ t, exec (.remoteTimeout p) s = .next t ∧ (t.slot p).wait = .remoteDone 2 0 ∧ (t.core (coreOf target)).remote = [] ∧ t.mem = s.mem) ∧
  (∀ (e : Enc) (s : State), ready 0x6D e s → onRegisters e → (s.slot s.cur).region = none → (s.cluster (clusterOf s.cur)).clperm.getLsbD 1 = true → outbound s s.cur < 4 →
    let x := s.slot s.cur
    ∃ (t : State) (i : NetItem), exec (.copy e) s = .next t ∧ t.net = s.net ++ [i] ∧ (t.slot s.cur).pc = nextOf e x.pc ∧ t.mem = s.mem ∧ i.kind = .command ∧
      fieldAt i.data 16 8 = (regX x e.a).toNat ∧ fieldAt i.data 24 8 = (regX x e.b).toNat ∧ fieldAt i.data 32 8 = (regX x e.c).toNat) ∧
  (∀ (c : Nat) (e : Entry) (s : State), running s → headOf (.copy c) e s → copyTurnOf s c = true →
    (e.started = false → copyOk s (EngQ.who s e.org (.copy c)) e.msg = true → payAt e.msg 16 8 ≠ 0 →
      ∃ t, exec (.copyCommand c) s = .next t ∧ t.mem = s.mem ∧ (t.core c).copyq = { e with started := true, src := payAt e.msg 0 8, dst := payAt e.msg 8 8, len := payAt e.msg 16 8
                                                                                           obj := copyObj e.msg } :: (s.core c).copyq.drop 1) ∧
    (∀ (b : List Byte) (s1 s2 : State), e.started = true → e.len ≤ 64 - e.dst % 64 → e.obj = none → engineRead (EngQ.who s e.org (.copy c)) e.src e.len s = .ok (b, s1) →
      engineWrite (EngQ.who s e.org (.copy c)) e.dst b (some (payAt e.msg 32 1 % 4)) s1 = .ok ((), s2) →
      ∃ t, exec (.copyBeat c) s = .next t ∧ t.mem = s2.mem ∧ (t.core c).copyq = (s2.core c).copyq.drop 1)) ∧
  (∀ (e : Enc) (s : State), ready 0x70 e s → (s.slot s.cur).region = none → (∀ id, (s.slot s.cur).wait ≠ .join id) → e.v = 0 → e.imm32 = 2 →
    (s.core (coreOf s.cur)).copyq.length < 16 → (∀ i ∈ s.net, ¬ (i.src = s.cur ∧ goesTo i (.copy (coreOf s.cur)) = true)) →
    ∃ t x, exec (.qfence e) s = .next t ∧ (t.slot s.cur).pc = nextOf e (s.slot s.cur).pc ∧ t.mem = s.mem ∧
      (t.core (coreOf s.cur)).copyq = (s.core (coreOf s.cur)).copyq ++ [x] ∧ x.join = some s.nextId) ∧
  (∀ (id c : Nat) (e : Entry) (r : List Entry) (s : State), running s → joinQueues s id = [.copy c] → (s.core c).copyq = e :: r → e.join = some id →
    ∃ t, exec (.qfenceJoinComplete id) s = .next t ∧ (t.core c).copyq = r ∧ t.mem = s.mem)

/-- opB of an instruction on registers (R111). -/
def Sys2Proof.Machine.regB (x : Slot) (e : Enc) : Word := match e.ext with | .imm32 v => v.signExtend 64 | _ => regX x e.b

/-- Slot `p` is in no region and waits for nothing, it has no access under way, nobody else holds a line, and no poison and no page of a cell table stands in a scratchpad. -/
def Sys2Proof.Machine.atRest (p : Nat) (s : State) : Prop :=
  (s.slot p).region = none ∧ (s.slot p).formula = none ∧ (s.slot p).wait = .none ∧ (s.slot p).store = [] ∧ (s.slot p).loads = [] ∧ (∀ l, heldByOther s (some p) l = false) ∧
  s.poison = [] ∧ ∀ e ∈ s.tables, ∀ x ∈ e.2.pages, isSpad x.2 = false

/-- Streams, full-empty accesses, atomics and cells of an act at rest on registers (R130, R132, R174 to R177, R188, R215, R224, R240, R241), the bytes at one granule, or four, of a scratchpad: each completes:
`sset` with a good descriptor, `sadv` and `sadv.rst` whatever the stream; `ldfe` of a full granule, `stfe` of an empty one, `setfe` of any granules of a window, with no waiter; `amo`, `cas` and
`chunk` at an aligned address; `cst` to a cell that is no formula and whose pending buffer is free; `cld` of a cell that is not STALE, with no view. -/
def Sys2Proof.Machine.Claim.AccessForms : Prop :=
  ∀ (e : Enc) (s : State) (n : Fin 32) (core loc : Nat), onRegisters e → atRest s.cur s →
    let x := s.slot s.cur
    let a := regX x e.a
    let va := (a + regB x e).toNat
    let mem := Memory.readN s.mem loc
    let d := e.d = .reg n
    let stores := fun (i : Instr) (b : List Byte) (f : State → Prop) => ∃ t, exec i s = .next t ∧ (t.slot s.cur).pc = nextOf e x.pc ∧
      (∀ k, (h : k < b.length) → Memory.read t.mem (loc + k) = b[k]) ∧ sameOutside loc b.length s t ∧ f t
    (∀ q : Fin 4, e.d = .strm q →
      (ready 0x45 e s → a.toNat % 64 = 0 → (∀ k, k < 4 → spadHome s.cur s (a.toNat + 16 * k) 16 core (loc + 16 * k)) → sdescOk (mem 64) = true →
        finishes (.sset e) e s (fun y => y.strm q = { valid := true, desc := mem 64, idx := [0, 0, 0, 0, 0] })) ∧
      (ready 0x46 e s → finishes (.sadv e) e s (fun y => y.strm q = (x.strm q).advance (if e.isImm32 then e.imm32 else a.toNat))) ∧
      (ready 0x46 e s → finishes (.sadvRst e) e s (fun y => y.strm q = { x.strm q with idx := [0, 0, 0, 0, 0] }))) ∧
    (ready 0x63 e s → d → va % 16 = 0 → spadHome s.cur s va 16 core loc → feOf s loc = true → waiters s loc = [] →
      finishes (.ldfe e) e s (fun y => y.vreg n = vecOfBytes (mem 16))) ∧
    (ready 0x64 e s → e.d = .none → va % 16 = 0 → spadHome s.cur s va 16 core loc → feOf s loc = false → waiters s loc = [] →
      stores (.stfe e) (bytesOfVec (regV x e.c)) (fun t => feOf t loc = true)) ∧
    (∀ (full : Bool) (v off : Nat), ready 0x65 e s → a.toNat % 16 = 0 → placeOf s (whoSlot s s.cur) a.toNat (16 * (regX x e.b).toNat) = .spad v core off → (∀ l, waiters s l = []) →
      stores (if full then .setfeFull e else .setfeEmpty e) [] (fun t => ∀ i, i < (regX x e.b).toNat →
        feOf t (if isCtl s.cur then spadLoc core (off + 16 * i) else spadAt s x.ginst v core (off + 16 * i)) = full)) ∧
    (ready 0x66 e s → d → e.t ∈ [0x2, 0x3, 0x6, 0x7, 0xD] → let w := fmtWidth e.t / 8
      a.toNat % w = 0 → spadHome s.cur s a.toNat w core loc →
      stores (.amo e) (leBytes w (atomicNew (e.v % 8) e.t (ofLe (mem w)) (regX x e.b).toNat).1)
        (fun t => n ≠ 0 → (t.slot s.cur).x n = extend (decide (e.t < 4)) (fmtWidth e.t) (ofLe (mem w)))) ∧
    (ready 0x67 e s → d → e.t ∈ [0x2, 0x3, 0x6, 0x7] → let w := fmtWidth e.t / 8
      a.toNat % w = 0 → spadHome s.cur s a.toNat w core loc →
      stores (.cas e) (if ofLe (mem w) = (regX x e.b).toNat % 2 ^ fmtWidth e.t then leBytes w ((regX x e.c).toNat % 2 ^ fmtWidth e.t) else mem w)
        (fun t => n ≠ 0 → (t.slot s.cur).x n = extend (decide (e.t < 4)) (fmtWidth e.t) (ofLe (mem w)))) ∧
    (ready 0x71 e s → d → a.toNat % 16 = 0 → spadHome s.cur s a.toNat 16 core loc →
      let rem := fieldAt (mem 16) 4 4 - fieldAt (mem 16) 0 4
      let p := max (fieldAt (mem 16) 12 2) 1
      let cnt := min rem (max (max (fieldAt (mem 16) 8 4) 1) ((rem + (2 * p - 1)) / (2 * p)))
      stores (.chunk e) (patch (mem 16) 0 (leBytes 4 (fieldAt (mem 16) 0 4 + cnt)))
        (fun t => n ≠ 0 → (t.slot s.cur).x n = BitVec.ofNat 64 (fieldAt (mem 16) 0 4 + cnt * 2 ^ 32))) ∧
    (∀ (tab i k : Nat), ready 0xC6 e s → d → namesCell s a tab i → let c := (s.table tab).cell i
      c.form = false → c.hold = .free → freeStager (s.table tab) = some k → ((s.table tab).waves.filter (fun w => !w.failed)).length < 64 → i < (s.table tab).cells.length →
      let off := (regX x e.c).toNat
      off % 16 = 0 → regX x e.e = 16 → off + 16 ≤ (c.sz + 15) / 16 * 16 → (regX x e.b).toNat % 16 = 0 → spadHome s.cur s (regX x e.b).toNat 16 core loc →
      stores (.cstStage e) [] (fun t => ((t.table tab).cell i).pend = patch c.newest.2 off (mem 16) ∧ (n ≠ 0 → (t.slot s.cur).x n = 0)) ∧
      stores (.cstGo e) [] (fun t => (t.table tab).started = (s.table tab).started + 1 ∧ (n ≠ 0 → (t.slot s.cur).x n = BitVec.ofNat 64 ((s.table tab).started + 1)))) ∧
    (∀ (tab i : Nat), ready 0xC7 e s → d → namesCell s a tab i → x.view = none → let c := (s.table tab).cell i
      c.stale = false → let off := (regX x e.b).toNat
      off % 16 = 0 → off + 16 ≤ (c.sz + 15) / 16 * 16 → let b := (c.newest.2.drop off).take 16
      finishes (.cldV e) e s (fun y => y.vreg n = vecOfBytes b) ∧
      ((regX x e.c).toNat % 16 = 0 → regX x e.e = 16 → spadHome s.cur s (regX x e.c).toNat 16 core loc →
        stores (.cldCp e) b (fun t => n ≠ 0 → (t.slot s.cur).x n = BitVec.ofNat 64 c.newest.1)))

/-- Collectives of one participant (R415, R417, R418), in the simplest case: its elements are read at SRC, the result is written at its DST (that of `bcast` is the elements themselves), and the collective is decided OK, with its reply; and one whose time is over ends
with TIMEOUT, which every participant gets. -/
def Sys2Proof.Machine.Claim.CollectiveForms : Prop :=
  (∀ (d fl : Nat) (ev : Instr) (c : Coll) (a : CollArr) (b : List Byte) (s s1 s2 : State), running s → (s.die d).colls = [c] → c.arrived = [a] → c.late = [] → c.decided = none → a.rank = 0 → collLast a.msg = 0 →
    collRoot a.msg = 0 → a.src = none → collPresent s c = true →
    (msgEop a.msg = 1 ∧ ev = .allreduce d) ∨ (msgEop a.msg = 2 ∧ ev = .reduce d) ∨ (msgEop a.msg = 3 ∧ ev = .bcast d) →
    let w := whoEngine s 3 (dieOf a.core) a.org
    let r := collResult a.msg [b]
    engineRead w (collSrc a.msg) (collCount a.msg * collWidth (collFmt a.msg)) s = .ok (b, s1) → collStore s1 a r.1 s1 = .ok ((), s2) → fl = r.2.toNat →
    happens ev s (setColl d 0 { c with decided := some (.ok fl) } (collReply a 0 fl 0 s2)) ∧ (msgEop a.msg = 3 → r = (b, Fl.none)) ∧
    (msgReply a.msg = true → senderHere a.org s2 → ∃ n : NetItem, (collReply a 0 fl 0 s2).net = s2.net ++ [n] ∧ n.kind = .reply ∧ fieldAt n.data 0 1 = 0 ∧ fieldAt n.data 8 8 = collSeq a.msg % 2 ^ 64)) ∧
  (∀ (d k : Nat) (c : Coll) (s : State), running s → (s.die d).colls[k]? = some c → c.decided = none → c.full = false → c.since + 2 ^ collExp c.first < s.cycle →
    ∃ t x, exec (.collectiveTimeout d k) s = .next t ∧ t.mem = s.mem ∧ (t.die d).colls[k]? = some x ∧ x.decided = some (.timeout (missingRank c)) ∧
      (answerable c s → t.net.length = s.net.length + c.arrived.length))

/-! ### The statements that join claims of one subject -/

/-- What a completed instruction does besides its own effect, and the address of the next instruction: `Claim.CompletionFrame`, `Claim.NextPc` hold. -/
def Obligations.Completion : Prop := Claim.CompletionFrame ∧ Claim.NextPc

/-- Reading scalar sources and writing scalar destinations: registers, x0, channels and immediates: `Claim.ScalarSources`, `Claim.ScalarDestinations` hold. -/
def Obligations.ScalarOperands : Prop := Claim.ScalarSources ∧ Claim.ScalarDestinations

/-- Reading and writing predicates and vectors: `Claim.Predicates`, `Claim.VectorOperands` hold. -/
def Obligations.VectorOperands : Prop := Claim.Predicates ∧ Claim.VectorOperands

/-- Scalar arithmetic, logic, moves, addresses and bit fields complete with the stated results: `Claim.ScalarArithmeticCompletes`, `Claim.ScalarLogicCompletes`, `Claim.ScalarMovesComplete`, `Claim.BitFields` hold. -/
def Obligations.ScalarInstructions : Prop := Claim.ScalarArithmeticCompletes ∧ Claim.ScalarLogicCompletes ∧ Claim.ScalarMovesComplete ∧ Claim.BitFields

/-- Calls push a frame and move the register window; returns pop it: `Claim.CallPushesFrame`, `Claim.RetPopsFrame` hold. -/
def Obligations.CallsAndReturnsOfFrames : Prop := Claim.CallPushesFrame ∧ Claim.RetPopsFrame

/-- Ending an act, yielding, waiting, trapping, and the control registers: `Claim.EndactEndsAct`, `Claim.WaitingInstructions`, `Claim.Traps`, `Claim.ControlRegisters` hold. -/
def Obligations.ActControl : Prop := Claim.EndactEndsAct ∧ Claim.WaitingInstructions ∧ Claim.Traps ∧ Claim.ControlRegisters

/-- Route tags, channel bindings, and the channel instructions: `Claim.RouteTags`, `Claim.ChannelBindings`, `Claim.ChannelInstructions` hold. -/
def Obligations.Channels : Prop := Claim.RouteTags ∧ Claim.ChannelBindings ∧ Claim.ChannelInstructions

/-- Stream registers and stream operands: `Claim.StreamRegisters`, `Claim.StreamOperands` hold. -/
def Obligations.Streams : Prop := Claim.StreamRegisters ∧ Claim.StreamOperands

/-- Sending commands and code to engines and acts: `Claim.SendCommand`, `Claim.SendCode` hold. -/
def Obligations.Sends : Prop := Claim.SendCommand ∧ Claim.SendCode

/-- Remote register access: the request, and the answer at the target: `Claim.RemoteAccess`, `Claim.RemoteAnswers` hold. -/
def Obligations.RemoteRegisters : Prop := Claim.RemoteAccess ∧ Claim.RemoteAnswers

/-- Loads, stores and vector accesses of every form complete, with the store entering the store queue: `Claim.LoadsComplete`, `Claim.StoresComplete` hold. -/
def Obligations.LoadsAndStores : Prop := Claim.LoadsComplete ∧ Claim.StoresComplete

/-- A load from scratchpad or global memory reads the bytes at its address, a store queues them, and each access check raises its cause: `Claim.ScratchpadLoad`, `Claim.GlobalLoad`, `Claim.ScratchpadStore`, `Claim.AccessChecks` hold. -/
def Obligations.ScratchpadAccess : Prop := Claim.ScratchpadLoad ∧ Claim.GlobalLoad ∧ Claim.ScratchpadStore ∧ Claim.AccessChecks

/-- A queued store is performed at its bytes and nowhere else, a sub-byte store on its bits alone: `Claim.StorePerformed`, `Claim.SubBytePerformed` hold. -/
def Obligations.StoresPerformed : Prop := Claim.StorePerformed ∧ Claim.SubBytePerformed

/-- Atomics: the values, the operation at the home, and completion: `Claim.AtomicValues`, `Claim.AtomicAtHome`, `Claim.AtomicsComplete` hold. -/
def Obligations.Atomics : Prop := Claim.AtomicValues ∧ Claim.AtomicAtHome ∧ Claim.AtomicsComplete

/-- Split-phase barriers and byte-counting barriers: `Claim.SplitPhaseBarriers`, `Claim.ByteCountingBarriers`, `Claim.ByteCountingObject` hold. -/
def Obligations.Barriers : Prop := Claim.SplitPhaseBarriers ∧ Claim.ByteCountingBarriers ∧ Claim.ByteCountingObject

/-- Copies, the copy engine, and queue fences: `Claim.CopySends`, `Claim.CopyEngine`, `Claim.QueueFences` hold. -/
def Obligations.CopiesAndQueueFences : Prop := Claim.CopySends ∧ Claim.CopyEngine ∧ Claim.QueueFences

/-- Lanes do not touch each other, and integer lanes compute modulo their width: `Claim.LanesIndependent`, `Claim.IntegerLanes` hold. -/
def Obligations.VectorLanes : Prop := Claim.LanesIndependent ∧ Claim.IntegerLanes

/-- Representable values are exact, and the four rounding modes choose the right neighbour: `Claim.RepresentableValuesExact`, `Claim.RoundingModes` hold. -/
def Obligations.FloatingPoint : Prop := Claim.RepresentableValuesExact ∧ Claim.RoundingModes

/-- Vector moves, reductions and conversions, and the draws, complete: `Claim.MovesComplete`, `Claim.DrawsComplete` hold. -/
def Obligations.MovesAndDraws : Prop := Claim.MovesComplete ∧ Claim.DrawsComplete

/-- Ownership of the matrix unit, the matrix instructions, and the checks of matrix messages: `Claim.MatrixOwnership`, `Claim.MatrixInstructions`, `Claim.MatrixMessages` hold. -/
def Obligations.MatrixQueue : Prop := Claim.MatrixOwnership ∧ Claim.MatrixInstructions ∧ Claim.MatrixMessages

/-- The matrix engine and the stack dot units at work: `Claim.MatrixCompletion`, `Claim.MatrixSteps`, `Claim.MatrixOutputs`, `Claim.StackDot` hold. -/
def Obligations.MatrixEngine : Prop := Claim.MatrixCompletion ∧ Claim.MatrixSteps ∧ Claim.MatrixOutputs ∧ Claim.StackDot

/-- The Juggler: its messages, its instructions and its engine: `Claim.JugglerMessages`, `Claim.JugglerInstructions`, `Claim.JugglerEngine` hold. -/
def Obligations.Juggler : Prop := Claim.JugglerMessages ∧ Claim.JugglerInstructions ∧ Claim.JugglerEngine

/-- Composition of symbol maps, and that the tree of compositions equals the run: `Claim.MapComposition`, `Claim.TreeEqualsRun` hold. -/
def Obligations.MapComposition : Prop := Claim.MapComposition ∧ Claim.TreeEqualsRun

/-- Forwarding regions open, end and are inspected: `Claim.RegionOpens`, `Claim.RegionEnds`, `Claim.RegionInspection` hold. -/
def Obligations.Regions : Prop := Claim.RegionOpens ∧ Claim.RegionEnds ∧ Claim.RegionInspection

/-- Forwarding between regions, and commit in order of keys: `Claim.RegionForwarding`, `Claim.RegionCommits` hold. -/
def Obligations.RegionOrder : Prop := Claim.RegionForwarding ∧ Claim.RegionCommits

/-- Cell stores and cell loads: `Claim.CellStores`, `Claim.CellLoads` hold. -/
def Obligations.CellAccess : Prop := Claim.CellStores ∧ Claim.CellLoads

/-- Closures, views and edits of cell tables: `Claim.ClosureIsClosed`, `Claim.ViewSeesGeneration`, `Claim.CellEdits`, `Claim.CellViews` hold. -/
def Obligations.CellTables : Prop := Claim.ClosureIsClosed ∧ Claim.ViewSeesGeneration ∧ Claim.CellEdits ∧ Claim.CellViews

/-- Recalculation waves: formula acts, publication, failure, edits and the view watchdog: `Claim.WaveEvents` holds. -/
def Obligations.Waves : Prop := Claim.WaveEvents

/-- Traps, calls to a level, returns from a trap, and interrupts on a control core: `Claim.FaultTraps`, `Claim.CallsAndReturns`, `Claim.Interrupts` hold. -/
def Obligations.Traps : Prop := Claim.FaultTraps ∧ Claim.CallsAndReturns ∧ Claim.Interrupts

/-- The table of privileged registers, and the access to them: `Claim.RegisterTable`, `Claim.RegisterAccess` hold. -/
def Obligations.PrivilegedRegisters : Prop := Claim.RegisterTable ∧ Claim.RegisterAccess

/-- Translations, caches, keys, user interrupts, limits and the halt instructions: `Claim.TranslationsAndCaches`, `Claim.Keys`, `Claim.UserInterruptsAndLimits`, `Claim.HaltInstructions` hold. -/
def Obligations.SystemInstructions : Prop := Claim.TranslationsAndCaches ∧ Claim.Keys ∧ Claim.UserInterruptsAndLimits ∧ Claim.HaltInstructions

/-- Parking, saving and restoring the acts of a group instance: `Claim.SaveInstruction`, `Claim.RestoreInstruction`, `Claim.ParkingEvents` hold. -/
def Obligations.SaveAndRestore : Prop := Claim.SaveInstruction ∧ Claim.RestoreInstruction ∧ Claim.ParkingEvents

/-- A message arrives at its core or engine, and a free slot starts the act: `Claim.Arrival`, `Claim.ActStart` hold. -/
def Obligations.MessagesAndActs : Prop := Claim.Arrival ∧ Claim.ActStart

/-- A launch from its queue to its completion record: `Claim.LaunchBegins`, `Claim.LaunchEnds` hold. -/
def Obligations.Launches : Prop := Claim.LaunchBegins ∧ Claim.LaunchEnds

/-- The cross-die directory: reads, writes, write-backs and probes: `Claim.DirectoryReads`, `Claim.DirectoryWrites` hold. -/
def Obligations.Directory : Prop := Claim.DirectoryReads ∧ Claim.DirectoryWrites

/-- Landing and transmission at the Ultra Ethernet ports: `Claim.PortLandings`, `Claim.PortTransmission` hold. -/
def Obligations.Ports : Prop := Claim.PortLandings ∧ Claim.PortTransmission

/-- Device reset, the start of the monitor, recovery, and the answers of the management mailbox: `Claim.MonitorStart`, `Claim.MailboxAnswers` hold. -/
def Obligations.StartAndMailbox : Prop := Claim.MonitorStart ∧ Claim.MailboxAnswers

/-- Telemetry, throttling, fatal errors, links and the scrub: `Claim.TelemetryAndThrottle`, `Claim.FatalErrorsAndLinks` hold. -/
def Obligations.BoardEvents : Prop := Claim.TelemetryAndThrottle ∧ Claim.FatalErrorsAndLinks

/-- Vector instructions, moves, accesses and atomics on registers, and messages, engines and collectives in the simplest case, complete: `Claim.VectorRegisterForms`, `Claim.MoveRegisterForms`, `Claim.MessageForms`, `Claim.AccessForms`, `Claim.CollectiveForms` hold. -/
def Obligations.PlainForms : Prop := Claim.VectorRegisterForms ∧ Claim.MoveRegisterForms ∧ Claim.MessageForms ∧ Claim.AccessForms ∧ Claim.CollectiveForms
end

