-- ==== Sys2Proof/Laws/Sparse.lean ====
section
/-! SUPPORT. Laws of sparse data and of memory: reading after writing, writing elsewhere, and that every memory operation keeps the canonical form. -/

namespace Sys2Proof.Machine

namespace KV

variable {α : Type}

theorem find?_erase_self (m : KV α) (k : Nat) : find? (erase m k) k = none := by
  induction m with
  | nil => rfl
  | cons e r ih =>
    obtain ⟨j, v⟩ := e
    by_cases h : j = k <;> simp [erase, find?, h, ih]

theorem find?_erase_ne (m : KV α) (k j : Nat) (h : j ≠ k) : find? (erase m k) j = find? m j := by
  induction m with
  | nil => rfl
  | cons e r ih =>
    obtain ⟨i, v⟩ := e
    by_cases hi : i = k
    · subst hi; simp [erase, find?, ih, Ne.symm h]
    · simp [erase, find?, hi, ih]

theorem find?_insert_self (m : KV α) (k : Nat) (v : α) (h : find? m k = none) : find? (insert k v m) k = some v := by
  induction m with
  | nil => simp [insert, find?]
  | cons e r ih =>
    obtain ⟨i, w⟩ := e
    by_cases hi : i = k
    · simp [find?, hi] at h
    · simp only [find?, hi, if_false] at h
      by_cases hl : k < i
      · simp [insert, hl, find?]
      · simp [insert, hl, find?, hi, ih h]

theorem find?_insert_ne (m : KV α) (k j : Nat) (v : α) (h : j ≠ k) : find? (insert k v m) j = find? m j := by
  induction m with
  | nil => simp [insert, find?, Ne.symm h]
  | cons e r ih =>
    obtain ⟨i, w⟩ := e
    by_cases hl : k < i
    · simp [insert, hl, find?, Ne.symm h]
    · simp [insert, hl, find?, ih]

@[simp] theorem find?_set_self (m : KV α) (k : Nat) (v : α) : find? (set m k v) k = some v :=
  find?_insert_self _ _ _ (find?_erase_self _ _)

theorem find?_set_ne (m : KV α) (k j : Nat) (v : α) (h : j ≠ k) : find? (set m k v) j = find? m j := by
  rw [set, find?_insert_ne _ _ _ _ h, find?_erase_ne _ _ _ h]

@[simp] theorem get_set_self (d : α) (m : KV α) (k : Nat) (v : α) : get d (set m k v) k = v := by simp [get]

theorem get_set_ne (d : α) (m : KV α) (k j : Nat) (v : α) (h : j ≠ k) : get d (set m k v) j = get d m j := by
  simp [get, find?_set_ne _ _ _ _ h]

theorem get_erase_self (d : α) (m : KV α) (k : Nat) : get d (erase m k) k = d := by simp [get, find?_erase_self]

theorem get_erase_ne (d : α) (m : KV α) (k j : Nat) (h : j ≠ k) : get d (erase m k) j = get d m j := by
  simp [get, find?_erase_ne _ _ _ h]

end KV

namespace Memory

/-- A byte written is the byte read. -/
@[simp] theorem read_write_self (m : Memory) (a : Nat) (b : Byte) : read (write m a b) a = b := by
  unfold read write
  split
  · next h => rw [h]; exact KV.get_erase_self _ _ _
  · exact KV.get_set_self _ _ _ _

/-- A write leaves every other address alone. -/
theorem read_write_ne (m : Memory) (a j : Nat) (b : Byte) (h : j ≠ a) : read (write m a b) j = read m j := by
  unfold read write
  split
  · exact KV.get_erase_ne _ _ _ _ h
  · exact KV.get_set_ne _ _ _ _ _ h

/-- Bytes written leave every address outside them alone. -/
theorem read_writeN_outside (m : Memory) (a j : Nat) (b : List Byte) (h : j < a ∨ a + b.length ≤ j) : read (writeN m a b) j = read m j := by
  induction b generalizing m a with
  | nil => rfl
  | cons x r ih =>
    simp only [List.length_cons] at h
    rw [writeN, ih _ _ (by omega), read_write_ne _ _ _ _ (by omega)]

/-- Bytes written are the bytes read. -/
theorem read_writeN_inside (m : Memory) (a k : Nat) (b : List Byte) (h : k < b.length) : read (writeN m a b) (a + k) = b[k] := by
  induction b generalizing m a k with
  | nil => simp at h
  | cons x r ih =>
    rw [writeN]
    cases k with
    | zero => rw [read_writeN_outside _ _ _ _ (by omega)]; simp
    | succ k =>
      have := ih (write m a x) (a + 1) k (by simpa using h)
      rw [show a + (k + 1) = a + 1 + k by omega, this]; simp

/-- A list of bytes written is read back. -/
theorem readN_writeN (m : Memory) (a : Nat) (b : List Byte) : readN (writeN m a b) a b.length = b := by
  induction b generalizing m a with
  | nil => rfl
  | cons x r ih =>
    rw [List.length_cons, writeN, readN, ih, read_writeN_outside _ _ _ _ (by omega)]
    simp

/-! ### The canonical form -/

theorem wfFrom_mono {lo hi : Nat} {m : Memory} (h : wfFrom hi m = true) (hl : lo ≤ hi) : wfFrom lo m = true := by
  cases m with
  | nil => rfl
  | cons e r =>
    obtain ⟨a, b⟩ := e
    simp only [wfFrom, Bool.and_eq_true, decide_eq_true_eq] at h ⊢
    exact ⟨⟨by omega, h.1.2⟩, h.2⟩

theorem wfFrom_erase {lo : Nat} {m : Memory} (k : Nat) (h : wfFrom lo m = true) : wfFrom lo (KV.erase m k) = true := by
  induction m generalizing lo with
  | nil => rfl
  | cons e r ih =>
    obtain ⟨a, b⟩ := e
    simp only [wfFrom, Bool.and_eq_true, decide_eq_true_eq] at h
    by_cases ha : a = k
    · simp only [KV.erase, ha, if_true]
      exact wfFrom_mono (ih h.2) (by omega)
    · simp only [KV.erase, ha, if_false, wfFrom, Bool.and_eq_true, decide_eq_true_eq]
      exact ⟨h.1, ih h.2⟩

theorem wfFrom_insert {lo k : Nat} {v : Byte} {m : Memory} (h : wfFrom lo m = true) (hk : lo ≤ k) (hv : v ≠ unlisted)
    (hn : KV.find? m k = none) : wfFrom lo (KV.insert k v m) = true := by
  induction m generalizing lo with
  | nil => simp [KV.insert, wfFrom, hk, hv]
  | cons e r ih =>
    obtain ⟨a, b⟩ := e
    simp only [wfFrom, Bool.and_eq_true, decide_eq_true_eq] at h
    by_cases ha : k < a
    · simp only [KV.insert, ha, if_true, wfFrom, Bool.and_eq_true, decide_eq_true_eq]
      exact ⟨⟨hk, hv⟩, ⟨by omega, h.1.2⟩, h.2⟩
    · have hne : a ≠ k := by
        intro he; simp [KV.find?, he] at hn
      simp only [KV.find?, hne, if_false] at hn
      simp only [KV.insert, ha, if_false, wfFrom, Bool.and_eq_true, decide_eq_true_eq]
      exact ⟨h.1, ih h.2 (by omega) hn⟩

theorem wf_write {m : Memory} (a : Nat) (b : Byte) (h : wf m = true) : wf (write m a b) = true := by
  unfold write
  split
  · exact wfFrom_erase a h
  · next hb => exact wfFrom_insert (wfFrom_erase a h) (Nat.zero_le _) hb (KV.find?_erase_self _ _)

theorem wf_writeN {m : Memory} (a : Nat) (b : List Byte) (h : wf m = true) : wf (writeN m a b) = true := by
  induction b generalizing m a with
  | nil => exact h
  | cons x r ih => exact ih _ (wf_write a x h)

theorem wfFrom_filter {lo : Nat} {m : Memory} (p : Host.Cell → Bool) (h : wfFrom lo m = true) : wfFrom lo (m.filter p) = true := by
  induction m generalizing lo with
  | nil => rfl
  | cons e r ih =>
    obtain ⟨a, b⟩ := e
    simp only [wfFrom, Bool.and_eq_true, decide_eq_true_eq] at h
    by_cases hp : p (a, b) = true
    · simp only [List.filter_cons, hp, if_true, wfFrom, Bool.and_eq_true, decide_eq_true_eq]
      exact ⟨h.1, ih h.2⟩
    · simp only [List.filter_cons, hp]
      exact wfFrom_mono (ih h.2) (by omega)

/-- Bytes cleared by number leave the canonical form. -/
theorem wf_filter {m : Memory} (p : Host.Cell → Bool) (h : wf m = true) : wf (m.filter p) = true := wfFrom_filter p h

theorem wf_foldl_write {β : Type} (l : List β) (f : β → Nat) (g : β → Byte) {m : Memory} (h : wf m = true) :
    wf (l.foldl (fun m x => write m (f x) (g x)) m) = true := by
  induction l generalizing m with
  | nil => exact h
  | cons x r ih => exact ih (wf_write _ _ h)

end Memory

end Sys2Proof.Machine
end

