-- ==== Sys2Proof/Laws/State.lean ====
section
/-! SUPPORT. One lemma per field per named update of the state, true by rfl, and the accessors after an update. -/

namespace Sys2Proof.Machine

/-! ### modSlot -/

@[simp] theorem modSlot_agenda (s : State) (n : Nat) (f : Slot → Slot) : (s.modSlot n f).agenda = s.agenda := rfl
@[simp] theorem modSlot_cur (s : State) (n : Nat) (f : Slot → Slot) : (s.modSlot n f).cur = s.cur := rfl
@[simp] theorem modSlot_idle (s : State) (n : Nat) (f : Slot → Slot) : (s.modSlot n f).idle = s.idle := rfl
@[simp] theorem modSlot_choices (s : State) (n : Nat) (f : Slot → Slot) : (s.modSlot n f).choices = s.choices := rfl
@[simp] theorem modSlot_freeCount (s : State) (n : Nat) (f : Slot → Slot) : (s.modSlot n f).freeCount = s.freeCount := rfl
@[simp] theorem modSlot_nextId (s : State) (n : Nat) (f : Slot → Slot) : (s.modSlot n f).nextId = s.nextId := rfl
@[simp] theorem modSlot_cycle (s : State) (n : Nat) (f : Slot → Slot) : (s.modSlot n f).cycle = s.cycle := rfl
@[simp] theorem modSlot_mem (s : State) (n : Nat) (f : Slot → Slot) : (s.modSlot n f).mem = s.mem := rfl
@[simp] theorem modSlot_fe (s : State) (n : Nat) (f : Slot → Slot) : (s.modSlot n f).fe = s.fe := rfl
@[simp] theorem modSlot_written (s : State) (n : Nat) (f : Slot → Slot) : (s.modSlot n f).written = s.written := rfl
@[simp] theorem modSlot_poison (s : State) (n : Nat) (f : Slot → Slot) : (s.modSlot n f).poison = s.poison := rfl
@[simp] theorem modSlot_poisonSeen (s : State) (n : Nat) (f : Slot → Slot) : (s.modSlot n f).poisonSeen = s.poisonSeen := rfl
@[simp] theorem modSlot_cores (s : State) (n : Nat) (f : Slot → Slot) : (s.modSlot n f).cores = s.cores := rfl
@[simp] theorem modSlot_clusters (s : State) (n : Nat) (f : Slot → Slot) : (s.modSlot n f).clusters = s.clusters := rfl
@[simp] theorem modSlot_dies (s : State) (n : Nat) (f : Slot → Slot) : (s.modSlot n f).dies = s.dies := rfl
@[simp] theorem modSlot_net (s : State) (n : Nat) (f : Slot → Slot) : (s.modSlot n f).net = s.net := rfl
@[simp] theorem modSlot_rslots (s : State) (n : Nat) (f : Slot → Slot) : (s.modSlot n f).rslots = s.rslots := rfl
@[simp] theorem modSlot_versions (s : State) (n : Nat) (f : Slot → Slot) : (s.modSlot n f).versions = s.versions := rfl
@[simp] theorem modSlot_readers (s : State) (n : Nat) (f : Slot → Slot) : (s.modSlot n f).readers = s.readers := rfl
@[simp] theorem modSlot_filtered (s : State) (n : Nat) (f : Slot → Slot) : (s.modSlot n f).filtered = s.filtered := rfl
@[simp] theorem modSlot_frontier (s : State) (n : Nat) (f : Slot → Slot) : (s.modSlot n f).frontier = s.frontier := rfl
@[simp] theorem modSlot_objs (s : State) (n : Nat) (f : Slot → Slot) : (s.modSlot n f).objs = s.objs := rfl
@[simp] theorem modSlot_tables (s : State) (n : Nat) (f : Slot → Slot) : (s.modSlot n f).tables = s.tables := rfl
@[simp] theorem modSlot_launches (s : State) (n : Nat) (f : Slot → Slot) : (s.modSlot n f).launches = s.launches := rfl
@[simp] theorem modSlot_queues (s : State) (n : Nat) (f : Slot → Slot) : (s.modSlot n f).queues = s.queues := rfl
@[simp] theorem modSlot_ginsts (s : State) (n : Nat) (f : Slot → Slot) : (s.modSlot n f).ginsts = s.ginsts := rfl
@[simp] theorem modSlot_saved (s : State) (n : Nat) (f : Slot → Slot) : (s.modSlot n f).saved = s.saved := rfl
@[simp] theorem modSlot_parts (s : State) (n : Nat) (f : Slot → Slot) : (s.modSlot n f).parts = s.parts := rfl
@[simp] theorem modSlot_ptsel (s : State) (n : Nat) (f : Slot → Slot) : (s.modSlot n f).ptsel = s.ptsel := rfl
@[simp] theorem modSlot_keys (s : State) (n : Nat) (f : Slot → Slot) : (s.modSlot n f).keys = s.keys := rfl
@[simp] theorem modSlot_tlb (s : State) (n : Nat) (f : Slot → Slot) : (s.modSlot n f).tlb = s.tlb := rfl
@[simp] theorem modSlot_peers (s : State) (n : Nat) (f : Slot → Slot) : (s.modSlot n f).peers = s.peers := rfl
@[simp] theorem modSlot_unanswered (s : State) (n : Nat) (f : Slot → Slot) : (s.modSlot n f).unanswered = s.unanswered := rfl
@[simp] theorem modSlot_board (s : State) (n : Nat) (f : Slot → Slot) : (s.modSlot n f).board = s.board := rfl
@[simp] theorem modSlot_slot_self (s : State) (n : Nat) (f : Slot → Slot) : (s.modSlot n f).slot n = f (s.slot n) := KV.get_set_self _ _ _ _
theorem modSlot_slot_ne (s : State) (n : Nat) (f : Slot → Slot) (k : Nat) (h : k ≠ n) : (s.modSlot n f).slot k = s.slot k := KV.get_set_ne _ _ _ _ _ h
@[simp] theorem modSlot_core (s : State) (n : Nat) (f : Slot → Slot) (k : Nat) : (s.modSlot n f).core k = s.core k := rfl
@[simp] theorem modSlot_cluster (s : State) (n : Nat) (f : Slot → Slot) (k : Nat) : (s.modSlot n f).cluster k = s.cluster k := rfl
@[simp] theorem modSlot_die (s : State) (n : Nat) (f : Slot → Slot) (k : Nat) : (s.modSlot n f).die k = s.die k := rfl
@[simp] theorem modSlot_launch (s : State) (n : Nat) (f : Slot → Slot) (k : Nat) : (s.modSlot n f).launch k = s.launch k := rfl
@[simp] theorem modSlot_ginst (s : State) (n : Nat) (f : Slot → Slot) (k : Nat) : (s.modSlot n f).ginst k = s.ginst k := rfl
@[simp] theorem modSlot_part (s : State) (n : Nat) (f : Slot → Slot) (k : Nat) : (s.modSlot n f).part k = s.part k := rfl
@[simp] theorem modSlot_rslot (s : State) (n : Nat) (f : Slot → Slot) (k : Nat) : (s.modSlot n f).rslot k = s.rslot k := rfl
@[simp] theorem modSlot_table (s : State) (n : Nat) (f : Slot → Slot) (k : Nat) : (s.modSlot n f).table k = s.table k := rfl
@[simp] theorem modSlot_queue (s : State) (n : Nat) (f : Slot → Slot) (k : Nat) : (s.modSlot n f).queue k = s.queue k := rfl

/-! ### setSlot -/

@[simp] theorem setSlot_agenda (s : State) (n : Nat) (x : Slot) : (s.setSlot n x).agenda = s.agenda := rfl
@[simp] theorem setSlot_cur (s : State) (n : Nat) (x : Slot) : (s.setSlot n x).cur = s.cur := rfl
@[simp] theorem setSlot_idle (s : State) (n : Nat) (x : Slot) : (s.setSlot n x).idle = s.idle := rfl
@[simp] theorem setSlot_choices (s : State) (n : Nat) (x : Slot) : (s.setSlot n x).choices = s.choices := rfl
@[simp] theorem setSlot_freeCount (s : State) (n : Nat) (x : Slot) : (s.setSlot n x).freeCount = s.freeCount := rfl
@[simp] theorem setSlot_nextId (s : State) (n : Nat) (x : Slot) : (s.setSlot n x).nextId = s.nextId := rfl
@[simp] theorem setSlot_cycle (s : State) (n : Nat) (x : Slot) : (s.setSlot n x).cycle = s.cycle := rfl
@[simp] theorem setSlot_mem (s : State) (n : Nat) (x : Slot) : (s.setSlot n x).mem = s.mem := rfl
@[simp] theorem setSlot_fe (s : State) (n : Nat) (x : Slot) : (s.setSlot n x).fe = s.fe := rfl
@[simp] theorem setSlot_written (s : State) (n : Nat) (x : Slot) : (s.setSlot n x).written = s.written := rfl
@[simp] theorem setSlot_poison (s : State) (n : Nat) (x : Slot) : (s.setSlot n x).poison = s.poison := rfl
@[simp] theorem setSlot_poisonSeen (s : State) (n : Nat) (x : Slot) : (s.setSlot n x).poisonSeen = s.poisonSeen := rfl
@[simp] theorem setSlot_cores (s : State) (n : Nat) (x : Slot) : (s.setSlot n x).cores = s.cores := rfl
@[simp] theorem setSlot_clusters (s : State) (n : Nat) (x : Slot) : (s.setSlot n x).clusters = s.clusters := rfl
@[simp] theorem setSlot_dies (s : State) (n : Nat) (x : Slot) : (s.setSlot n x).dies = s.dies := rfl
@[simp] theorem setSlot_net (s : State) (n : Nat) (x : Slot) : (s.setSlot n x).net = s.net := rfl
@[simp] theorem setSlot_rslots (s : State) (n : Nat) (x : Slot) : (s.setSlot n x).rslots = s.rslots := rfl
@[simp] theorem setSlot_versions (s : State) (n : Nat) (x : Slot) : (s.setSlot n x).versions = s.versions := rfl
@[simp] theorem setSlot_readers (s : State) (n : Nat) (x : Slot) : (s.setSlot n x).readers = s.readers := rfl
@[simp] theorem setSlot_filtered (s : State) (n : Nat) (x : Slot) : (s.setSlot n x).filtered = s.filtered := rfl
@[simp] theorem setSlot_frontier (s : State) (n : Nat) (x : Slot) : (s.setSlot n x).frontier = s.frontier := rfl
@[simp] theorem setSlot_objs (s : State) (n : Nat) (x : Slot) : (s.setSlot n x).objs = s.objs := rfl
@[simp] theorem setSlot_tables (s : State) (n : Nat) (x : Slot) : (s.setSlot n x).tables = s.tables := rfl
@[simp] theorem setSlot_launches (s : State) (n : Nat) (x : Slot) : (s.setSlot n x).launches = s.launches := rfl
@[simp] theorem setSlot_queues (s : State) (n : Nat) (x : Slot) : (s.setSlot n x).queues = s.queues := rfl
@[simp] theorem setSlot_ginsts (s : State) (n : Nat) (x : Slot) : (s.setSlot n x).ginsts = s.ginsts := rfl
@[simp] theorem setSlot_saved (s : State) (n : Nat) (x : Slot) : (s.setSlot n x).saved = s.saved := rfl
@[simp] theorem setSlot_parts (s : State) (n : Nat) (x : Slot) : (s.setSlot n x).parts = s.parts := rfl
@[simp] theorem setSlot_ptsel (s : State) (n : Nat) (x : Slot) : (s.setSlot n x).ptsel = s.ptsel := rfl
@[simp] theorem setSlot_keys (s : State) (n : Nat) (x : Slot) : (s.setSlot n x).keys = s.keys := rfl
@[simp] theorem setSlot_tlb (s : State) (n : Nat) (x : Slot) : (s.setSlot n x).tlb = s.tlb := rfl
@[simp] theorem setSlot_peers (s : State) (n : Nat) (x : Slot) : (s.setSlot n x).peers = s.peers := rfl
@[simp] theorem setSlot_unanswered (s : State) (n : Nat) (x : Slot) : (s.setSlot n x).unanswered = s.unanswered := rfl
@[simp] theorem setSlot_board (s : State) (n : Nat) (x : Slot) : (s.setSlot n x).board = s.board := rfl
@[simp] theorem setSlot_slot_self (s : State) (n : Nat) (x : Slot) : (s.setSlot n x).slot n = x := KV.get_set_self _ _ _ _
theorem setSlot_slot_ne (s : State) (n k : Nat) (x : Slot) (h : k ≠ n) : (s.setSlot n x).slot k = s.slot k := KV.get_set_ne _ _ _ _ _ h
@[simp] theorem setSlot_core (s : State) (n : Nat) (x : Slot) (k : Nat) : (s.setSlot n x).core k = s.core k := rfl
@[simp] theorem setSlot_cluster (s : State) (n : Nat) (x : Slot) (k : Nat) : (s.setSlot n x).cluster k = s.cluster k := rfl
@[simp] theorem setSlot_die (s : State) (n : Nat) (x : Slot) (k : Nat) : (s.setSlot n x).die k = s.die k := rfl
@[simp] theorem setSlot_launch (s : State) (n : Nat) (x : Slot) (k : Nat) : (s.setSlot n x).launch k = s.launch k := rfl
@[simp] theorem setSlot_ginst (s : State) (n : Nat) (x : Slot) (k : Nat) : (s.setSlot n x).ginst k = s.ginst k := rfl
@[simp] theorem setSlot_part (s : State) (n : Nat) (x : Slot) (k : Nat) : (s.setSlot n x).part k = s.part k := rfl
@[simp] theorem setSlot_rslot (s : State) (n : Nat) (x : Slot) (k : Nat) : (s.setSlot n x).rslot k = s.rslot k := rfl
@[simp] theorem setSlot_table (s : State) (n : Nat) (x : Slot) (k : Nat) : (s.setSlot n x).table k = s.table k := rfl
@[simp] theorem setSlot_queue (s : State) (n : Nat) (x : Slot) (k : Nat) : (s.setSlot n x).queue k = s.queue k := rfl

/-! ### modCore -/

@[simp] theorem modCore_agenda (s : State) (n : Nat) (f : Core → Core) : (s.modCore n f).agenda = s.agenda := rfl
@[simp] theorem modCore_cur (s : State) (n : Nat) (f : Core → Core) : (s.modCore n f).cur = s.cur := rfl
@[simp] theorem modCore_idle (s : State) (n : Nat) (f : Core → Core) : (s.modCore n f).idle = s.idle := rfl
@[simp] theorem modCore_choices (s : State) (n : Nat) (f : Core → Core) : (s.modCore n f).choices = s.choices := rfl
@[simp] theorem modCore_freeCount (s : State) (n : Nat) (f : Core → Core) : (s.modCore n f).freeCount = s.freeCount := rfl
@[simp] theorem modCore_nextId (s : State) (n : Nat) (f : Core → Core) : (s.modCore n f).nextId = s.nextId := rfl
@[simp] theorem modCore_cycle (s : State) (n : Nat) (f : Core → Core) : (s.modCore n f).cycle = s.cycle := rfl
@[simp] theorem modCore_mem (s : State) (n : Nat) (f : Core → Core) : (s.modCore n f).mem = s.mem := rfl
@[simp] theorem modCore_fe (s : State) (n : Nat) (f : Core → Core) : (s.modCore n f).fe = s.fe := rfl
@[simp] theorem modCore_written (s : State) (n : Nat) (f : Core → Core) : (s.modCore n f).written = s.written := rfl
@[simp] theorem modCore_poison (s : State) (n : Nat) (f : Core → Core) : (s.modCore n f).poison = s.poison := rfl
@[simp] theorem modCore_poisonSeen (s : State) (n : Nat) (f : Core → Core) : (s.modCore n f).poisonSeen = s.poisonSeen := rfl
@[simp] theorem modCore_slots (s : State) (n : Nat) (f : Core → Core) : (s.modCore n f).slots = s.slots := rfl
@[simp] theorem modCore_clusters (s : State) (n : Nat) (f : Core → Core) : (s.modCore n f).clusters = s.clusters := rfl
@[simp] theorem modCore_dies (s : State) (n : Nat) (f : Core → Core) : (s.modCore n f).dies = s.dies := rfl
@[simp] theorem modCore_net (s : State) (n : Nat) (f : Core → Core) : (s.modCore n f).net = s.net := rfl
@[simp] theorem modCore_rslots (s : State) (n : Nat) (f : Core → Core) : (s.modCore n f).rslots = s.rslots := rfl
@[simp] theorem modCore_versions (s : State) (n : Nat) (f : Core → Core) : (s.modCore n f).versions = s.versions := rfl
@[simp] theorem modCore_readers (s : State) (n : Nat) (f : Core → Core) : (s.modCore n f).readers = s.readers := rfl
@[simp] theorem modCore_filtered (s : State) (n : Nat) (f : Core → Core) : (s.modCore n f).filtered = s.filtered := rfl
@[simp] theorem modCore_frontier (s : State) (n : Nat) (f : Core → Core) : (s.modCore n f).frontier = s.frontier := rfl
@[simp] theorem modCore_objs (s : State) (n : Nat) (f : Core → Core) : (s.modCore n f).objs = s.objs := rfl
@[simp] theorem modCore_tables (s : State) (n : Nat) (f : Core → Core) : (s.modCore n f).tables = s.tables := rfl
@[simp] theorem modCore_launches (s : State) (n : Nat) (f : Core → Core) : (s.modCore n f).launches = s.launches := rfl
@[simp] theorem modCore_queues (s : State) (n : Nat) (f : Core → Core) : (s.modCore n f).queues = s.queues := rfl
@[simp] theorem modCore_ginsts (s : State) (n : Nat) (f : Core → Core) : (s.modCore n f).ginsts = s.ginsts := rfl
@[simp] theorem modCore_saved (s : State) (n : Nat) (f : Core → Core) : (s.modCore n f).saved = s.saved := rfl
@[simp] theorem modCore_parts (s : State) (n : Nat) (f : Core → Core) : (s.modCore n f).parts = s.parts := rfl
@[simp] theorem modCore_ptsel (s : State) (n : Nat) (f : Core → Core) : (s.modCore n f).ptsel = s.ptsel := rfl
@[simp] theorem modCore_keys (s : State) (n : Nat) (f : Core → Core) : (s.modCore n f).keys = s.keys := rfl
@[simp] theorem modCore_tlb (s : State) (n : Nat) (f : Core → Core) : (s.modCore n f).tlb = s.tlb := rfl
@[simp] theorem modCore_peers (s : State) (n : Nat) (f : Core → Core) : (s.modCore n f).peers = s.peers := rfl
@[simp] theorem modCore_unanswered (s : State) (n : Nat) (f : Core → Core) : (s.modCore n f).unanswered = s.unanswered := rfl
@[simp] theorem modCore_board (s : State) (n : Nat) (f : Core → Core) : (s.modCore n f).board = s.board := rfl
@[simp] theorem modCore_slot (s : State) (n : Nat) (f : Core → Core) (k : Nat) : (s.modCore n f).slot k = s.slot k := rfl
@[simp] theorem modCore_core_self (s : State) (n : Nat) (f : Core → Core) : (s.modCore n f).core n = f (s.core n) := KV.get_set_self _ _ _ _
theorem modCore_core_ne (s : State) (n : Nat) (f : Core → Core) (k : Nat) (h : k ≠ n) : (s.modCore n f).core k = s.core k := KV.get_set_ne _ _ _ _ _ h
@[simp] theorem modCore_cluster (s : State) (n : Nat) (f : Core → Core) (k : Nat) : (s.modCore n f).cluster k = s.cluster k := rfl
@[simp] theorem modCore_die (s : State) (n : Nat) (f : Core → Core) (k : Nat) : (s.modCore n f).die k = s.die k := rfl
@[simp] theorem modCore_launch (s : State) (n : Nat) (f : Core → Core) (k : Nat) : (s.modCore n f).launch k = s.launch k := rfl
@[simp] theorem modCore_ginst (s : State) (n : Nat) (f : Core → Core) (k : Nat) : (s.modCore n f).ginst k = s.ginst k := rfl
@[simp] theorem modCore_part (s : State) (n : Nat) (f : Core → Core) (k : Nat) : (s.modCore n f).part k = s.part k := rfl
@[simp] theorem modCore_rslot (s : State) (n : Nat) (f : Core → Core) (k : Nat) : (s.modCore n f).rslot k = s.rslot k := rfl
@[simp] theorem modCore_table (s : State) (n : Nat) (f : Core → Core) (k : Nat) : (s.modCore n f).table k = s.table k := rfl
@[simp] theorem modCore_queue (s : State) (n : Nat) (f : Core → Core) (k : Nat) : (s.modCore n f).queue k = s.queue k := rfl

/-! ### modCluster -/

@[simp] theorem modCluster_agenda (s : State) (n : Nat) (f : Cluster → Cluster) : (s.modCluster n f).agenda = s.agenda := rfl
@[simp] theorem modCluster_cur (s : State) (n : Nat) (f : Cluster → Cluster) : (s.modCluster n f).cur = s.cur := rfl
@[simp] theorem modCluster_idle (s : State) (n : Nat) (f : Cluster → Cluster) : (s.modCluster n f).idle = s.idle := rfl
@[simp] theorem modCluster_choices (s : State) (n : Nat) (f : Cluster → Cluster) : (s.modCluster n f).choices = s.choices := rfl
@[simp] theorem modCluster_freeCount (s : State) (n : Nat) (f : Cluster → Cluster) : (s.modCluster n f).freeCount = s.freeCount := rfl
@[simp] theorem modCluster_nextId (s : State) (n : Nat) (f : Cluster → Cluster) : (s.modCluster n f).nextId = s.nextId := rfl
@[simp] theorem modCluster_cycle (s : State) (n : Nat) (f : Cluster → Cluster) : (s.modCluster n f).cycle = s.cycle := rfl
@[simp] theorem modCluster_mem (s : State) (n : Nat) (f : Cluster → Cluster) : (s.modCluster n f).mem = s.mem := rfl
@[simp] theorem modCluster_fe (s : State) (n : Nat) (f : Cluster → Cluster) : (s.modCluster n f).fe = s.fe := rfl
@[simp] theorem modCluster_written (s : State) (n : Nat) (f : Cluster → Cluster) : (s.modCluster n f).written = s.written := rfl
@[simp] theorem modCluster_poison (s : State) (n : Nat) (f : Cluster → Cluster) : (s.modCluster n f).poison = s.poison := rfl
@[simp] theorem modCluster_poisonSeen (s : State) (n : Nat) (f : Cluster → Cluster) : (s.modCluster n f).poisonSeen = s.poisonSeen := rfl
@[simp] theorem modCluster_slots (s : State) (n : Nat) (f : Cluster → Cluster) : (s.modCluster n f).slots = s.slots := rfl
@[simp] theorem modCluster_cores (s : State) (n : Nat) (f : Cluster → Cluster) : (s.modCluster n f).cores = s.cores := rfl
@[simp] theorem modCluster_dies (s : State) (n : Nat) (f : Cluster → Cluster) : (s.modCluster n f).dies = s.dies := rfl
@[simp] theorem modCluster_net (s : State) (n : Nat) (f : Cluster → Cluster) : (s.modCluster n f).net = s.net := rfl
@[simp] theorem modCluster_rslots (s : State) (n : Nat) (f : Cluster → Cluster) : (s.modCluster n f).rslots = s.rslots := rfl
@[simp] theorem modCluster_versions (s : State) (n : Nat) (f : Cluster → Cluster) : (s.modCluster n f).versions = s.versions := rfl
@[simp] theorem modCluster_readers (s : State) (n : Nat) (f : Cluster → Cluster) : (s.modCluster n f).readers = s.readers := rfl
@[simp] theorem modCluster_filtered (s : State) (n : Nat) (f : Cluster → Cluster) : (s.modCluster n f).filtered = s.filtered := rfl
@[simp] theorem modCluster_frontier (s : State) (n : Nat) (f : Cluster → Cluster) : (s.modCluster n f).frontier = s.frontier := rfl
@[simp] theorem modCluster_objs (s : State) (n : Nat) (f : Cluster → Cluster) : (s.modCluster n f).objs = s.objs := rfl
@[simp] theorem modCluster_tables (s : State) (n : Nat) (f : Cluster → Cluster) : (s.modCluster n f).tables = s.tables := rfl
@[simp] theorem modCluster_launches (s : State) (n : Nat) (f : Cluster → Cluster) : (s.modCluster n f).launches = s.launches := rfl
@[simp] theorem modCluster_queues (s : State) (n : Nat) (f : Cluster → Cluster) : (s.modCluster n f).queues = s.queues := rfl
@[simp] theorem modCluster_ginsts (s : State) (n : Nat) (f : Cluster → Cluster) : (s.modCluster n f).ginsts = s.ginsts := rfl
@[simp] theorem modCluster_saved (s : State) (n : Nat) (f : Cluster → Cluster) : (s.modCluster n f).saved = s.saved := rfl
@[simp] theorem modCluster_parts (s : State) (n : Nat) (f : Cluster → Cluster) : (s.modCluster n f).parts = s.parts := rfl
@[simp] theorem modCluster_ptsel (s : State) (n : Nat) (f : Cluster → Cluster) : (s.modCluster n f).ptsel = s.ptsel := rfl
@[simp] theorem modCluster_keys (s : State) (n : Nat) (f : Cluster → Cluster) : (s.modCluster n f).keys = s.keys := rfl
@[simp] theorem modCluster_tlb (s : State) (n : Nat) (f : Cluster → Cluster) : (s.modCluster n f).tlb = s.tlb := rfl
@[simp] theorem modCluster_peers (s : State) (n : Nat) (f : Cluster → Cluster) : (s.modCluster n f).peers = s.peers := rfl
@[simp] theorem modCluster_unanswered (s : State) (n : Nat) (f : Cluster → Cluster) : (s.modCluster n f).unanswered = s.unanswered := rfl
@[simp] theorem modCluster_board (s : State) (n : Nat) (f : Cluster → Cluster) : (s.modCluster n f).board = s.board := rfl
@[simp] theorem modCluster_slot (s : State) (n : Nat) (f : Cluster → Cluster) (k : Nat) : (s.modCluster n f).slot k = s.slot k := rfl
@[simp] theorem modCluster_core (s : State) (n : Nat) (f : Cluster → Cluster) (k : Nat) : (s.modCluster n f).core k = s.core k := rfl
@[simp] theorem modCluster_cluster_self (s : State) (n : Nat) (f : Cluster → Cluster) : (s.modCluster n f).cluster n = f (s.cluster n) := KV.get_set_self _ _ _ _
theorem modCluster_cluster_ne (s : State) (n : Nat) (f : Cluster → Cluster) (k : Nat) (h : k ≠ n) : (s.modCluster n f).cluster k = s.cluster k := KV.get_set_ne _ _ _ _ _ h
@[simp] theorem modCluster_die (s : State) (n : Nat) (f : Cluster → Cluster) (k : Nat) : (s.modCluster n f).die k = s.die k := rfl
@[simp] theorem modCluster_launch (s : State) (n : Nat) (f : Cluster → Cluster) (k : Nat) : (s.modCluster n f).launch k = s.launch k := rfl
@[simp] theorem modCluster_ginst (s : State) (n : Nat) (f : Cluster → Cluster) (k : Nat) : (s.modCluster n f).ginst k = s.ginst k := rfl
@[simp] theorem modCluster_part (s : State) (n : Nat) (f : Cluster → Cluster) (k : Nat) : (s.modCluster n f).part k = s.part k := rfl
@[simp] theorem modCluster_rslot (s : State) (n : Nat) (f : Cluster → Cluster) (k : Nat) : (s.modCluster n f).rslot k = s.rslot k := rfl
@[simp] theorem modCluster_table (s : State) (n : Nat) (f : Cluster → Cluster) (k : Nat) : (s.modCluster n f).table k = s.table k := rfl
@[simp] theorem modCluster_queue (s : State) (n : Nat) (f : Cluster → Cluster) (k : Nat) : (s.modCluster n f).queue k = s.queue k := rfl

/-! ### modDie -/

@[simp] theorem modDie_agenda (s : State) (n : Nat) (f : Die → Die) : (s.modDie n f).agenda = s.agenda := rfl
@[simp] theorem modDie_cur (s : State) (n : Nat) (f : Die → Die) : (s.modDie n f).cur = s.cur := rfl
@[simp] theorem modDie_idle (s : State) (n : Nat) (f : Die → Die) : (s.modDie n f).idle = s.idle := rfl
@[simp] theorem modDie_choices (s : State) (n : Nat) (f : Die → Die) : (s.modDie n f).choices = s.choices := rfl
@[simp] theorem modDie_freeCount (s : State) (n : Nat) (f : Die → Die) : (s.modDie n f).freeCount = s.freeCount := rfl
@[simp] theorem modDie_nextId (s : State) (n : Nat) (f : Die → Die) : (s.modDie n f).nextId = s.nextId := rfl
@[simp] theorem modDie_cycle (s : State) (n : Nat) (f : Die → Die) : (s.modDie n f).cycle = s.cycle := rfl
@[simp] theorem modDie_mem (s : State) (n : Nat) (f : Die → Die) : (s.modDie n f).mem = s.mem := rfl
@[simp] theorem modDie_fe (s : State) (n : Nat) (f : Die → Die) : (s.modDie n f).fe = s.fe := rfl
@[simp] theorem modDie_written (s : State) (n : Nat) (f : Die → Die) : (s.modDie n f).written = s.written := rfl
@[simp] theorem modDie_poison (s : State) (n : Nat) (f : Die → Die) : (s.modDie n f).poison = s.poison := rfl
@[simp] theorem modDie_poisonSeen (s : State) (n : Nat) (f : Die → Die) : (s.modDie n f).poisonSeen = s.poisonSeen := rfl
@[simp] theorem modDie_slots (s : State) (n : Nat) (f : Die → Die) : (s.modDie n f).slots = s.slots := rfl
@[simp] theorem modDie_cores (s : State) (n : Nat) (f : Die → Die) : (s.modDie n f).cores = s.cores := rfl
@[simp] theorem modDie_clusters (s : State) (n : Nat) (f : Die → Die) : (s.modDie n f).clusters = s.clusters := rfl
@[simp] theorem modDie_net (s : State) (n : Nat) (f : Die → Die) : (s.modDie n f).net = s.net := rfl
@[simp] theorem modDie_rslots (s : State) (n : Nat) (f : Die → Die) : (s.modDie n f).rslots = s.rslots := rfl
@[simp] theorem modDie_versions (s : State) (n : Nat) (f : Die → Die) : (s.modDie n f).versions = s.versions := rfl
@[simp] theorem modDie_readers (s : State) (n : Nat) (f : Die → Die) : (s.modDie n f).readers = s.readers := rfl
@[simp] theorem modDie_filtered (s : State) (n : Nat) (f : Die → Die) : (s.modDie n f).filtered = s.filtered := rfl
@[simp] theorem modDie_frontier (s : State) (n : Nat) (f : Die → Die) : (s.modDie n f).frontier = s.frontier := rfl
@[simp] theorem modDie_objs (s : State) (n : Nat) (f : Die → Die) : (s.modDie n f).objs = s.objs := rfl
@[simp] theorem modDie_tables (s : State) (n : Nat) (f : Die → Die) : (s.modDie n f).tables = s.tables := rfl
@[simp] theorem modDie_launches (s : State) (n : Nat) (f : Die → Die) : (s.modDie n f).launches = s.launches := rfl
@[simp] theorem modDie_queues (s : State) (n : Nat) (f : Die → Die) : (s.modDie n f).queues = s.queues := rfl
@[simp] theorem modDie_ginsts (s : State) (n : Nat) (f : Die → Die) : (s.modDie n f).ginsts = s.ginsts := rfl
@[simp] theorem modDie_saved (s : State) (n : Nat) (f : Die → Die) : (s.modDie n f).saved = s.saved := rfl
@[simp] theorem modDie_parts (s : State) (n : Nat) (f : Die → Die) : (s.modDie n f).parts = s.parts := rfl
@[simp] theorem modDie_ptsel (s : State) (n : Nat) (f : Die → Die) : (s.modDie n f).ptsel = s.ptsel := rfl
@[simp] theorem modDie_keys (s : State) (n : Nat) (f : Die → Die) : (s.modDie n f).keys = s.keys := rfl
@[simp] theorem modDie_tlb (s : State) (n : Nat) (f : Die → Die) : (s.modDie n f).tlb = s.tlb := rfl
@[simp] theorem modDie_peers (s : State) (n : Nat) (f : Die → Die) : (s.modDie n f).peers = s.peers := rfl
@[simp] theorem modDie_unanswered (s : State) (n : Nat) (f : Die → Die) : (s.modDie n f).unanswered = s.unanswered := rfl
@[simp] theorem modDie_board (s : State) (n : Nat) (f : Die → Die) : (s.modDie n f).board = s.board := rfl
@[simp] theorem modDie_slot (s : State) (n : Nat) (f : Die → Die) (k : Nat) : (s.modDie n f).slot k = s.slot k := rfl
@[simp] theorem modDie_core (s : State) (n : Nat) (f : Die → Die) (k : Nat) : (s.modDie n f).core k = s.core k := rfl
@[simp] theorem modDie_cluster (s : State) (n : Nat) (f : Die → Die) (k : Nat) : (s.modDie n f).cluster k = s.cluster k := rfl
@[simp] theorem modDie_die_self (s : State) (n : Nat) (f : Die → Die) : (s.modDie n f).die n = f (s.die n) := KV.get_set_self _ _ _ _
theorem modDie_die_ne (s : State) (n : Nat) (f : Die → Die) (k : Nat) (h : k ≠ n) : (s.modDie n f).die k = s.die k := KV.get_set_ne _ _ _ _ _ h
@[simp] theorem modDie_launch (s : State) (n : Nat) (f : Die → Die) (k : Nat) : (s.modDie n f).launch k = s.launch k := rfl
@[simp] theorem modDie_ginst (s : State) (n : Nat) (f : Die → Die) (k : Nat) : (s.modDie n f).ginst k = s.ginst k := rfl
@[simp] theorem modDie_part (s : State) (n : Nat) (f : Die → Die) (k : Nat) : (s.modDie n f).part k = s.part k := rfl
@[simp] theorem modDie_rslot (s : State) (n : Nat) (f : Die → Die) (k : Nat) : (s.modDie n f).rslot k = s.rslot k := rfl
@[simp] theorem modDie_table (s : State) (n : Nat) (f : Die → Die) (k : Nat) : (s.modDie n f).table k = s.table k := rfl
@[simp] theorem modDie_queue (s : State) (n : Nat) (f : Die → Die) (k : Nat) : (s.modDie n f).queue k = s.queue k := rfl

/-! ### modLaunch -/

@[simp] theorem modLaunch_agenda (s : State) (n : Nat) (f : Launch → Launch) : (s.modLaunch n f).agenda = s.agenda := rfl
@[simp] theorem modLaunch_cur (s : State) (n : Nat) (f : Launch → Launch) : (s.modLaunch n f).cur = s.cur := rfl
@[simp] theorem modLaunch_idle (s : State) (n : Nat) (f : Launch → Launch) : (s.modLaunch n f).idle = s.idle := rfl
@[simp] theorem modLaunch_choices (s : State) (n : Nat) (f : Launch → Launch) : (s.modLaunch n f).choices = s.choices := rfl
@[simp] theorem modLaunch_freeCount (s : State) (n : Nat) (f : Launch → Launch) : (s.modLaunch n f).freeCount = s.freeCount := rfl
@[simp] theorem modLaunch_nextId (s : State) (n : Nat) (f : Launch → Launch) : (s.modLaunch n f).nextId = s.nextId := rfl
@[simp] theorem modLaunch_cycle (s : State) (n : Nat) (f : Launch → Launch) : (s.modLaunch n f).cycle = s.cycle := rfl
@[simp] theorem modLaunch_mem (s : State) (n : Nat) (f : Launch → Launch) : (s.modLaunch n f).mem = s.mem := rfl
@[simp] theorem modLaunch_fe (s : State) (n : Nat) (f : Launch → Launch) : (s.modLaunch n f).fe = s.fe := rfl
@[simp] theorem modLaunch_written (s : State) (n : Nat) (f : Launch → Launch) : (s.modLaunch n f).written = s.written := rfl
@[simp] theorem modLaunch_poison (s : State) (n : Nat) (f : Launch → Launch) : (s.modLaunch n f).poison = s.poison := rfl
@[simp] theorem modLaunch_poisonSeen (s : State) (n : Nat) (f : Launch → Launch) : (s.modLaunch n f).poisonSeen = s.poisonSeen := rfl
@[simp] theorem modLaunch_slots (s : State) (n : Nat) (f : Launch → Launch) : (s.modLaunch n f).slots = s.slots := rfl
@[simp] theorem modLaunch_cores (s : State) (n : Nat) (f : Launch → Launch) : (s.modLaunch n f).cores = s.cores := rfl
@[simp] theorem modLaunch_clusters (s : State) (n : Nat) (f : Launch → Launch) : (s.modLaunch n f).clusters = s.clusters := rfl
@[simp] theorem modLaunch_dies (s : State) (n : Nat) (f : Launch → Launch) : (s.modLaunch n f).dies = s.dies := rfl
@[simp] theorem modLaunch_net (s : State) (n : Nat) (f : Launch → Launch) : (s.modLaunch n f).net = s.net := rfl
@[simp] theorem modLaunch_rslots (s : State) (n : Nat) (f : Launch → Launch) : (s.modLaunch n f).rslots = s.rslots := rfl
@[simp] theorem modLaunch_versions (s : State) (n : Nat) (f : Launch → Launch) : (s.modLaunch n f).versions = s.versions := rfl
@[simp] theorem modLaunch_readers (s : State) (n : Nat) (f : Launch → Launch) : (s.modLaunch n f).readers = s.readers := rfl
@[simp] theorem modLaunch_filtered (s : State) (n : Nat) (f : Launch → Launch) : (s.modLaunch n f).filtered = s.filtered := rfl
@[simp] theorem modLaunch_frontier (s : State) (n : Nat) (f : Launch → Launch) : (s.modLaunch n f).frontier = s.frontier := rfl
@[simp] theorem modLaunch_objs (s : State) (n : Nat) (f : Launch → Launch) : (s.modLaunch n f).objs = s.objs := rfl
@[simp] theorem modLaunch_tables (s : State) (n : Nat) (f : Launch → Launch) : (s.modLaunch n f).tables = s.tables := rfl
@[simp] theorem modLaunch_queues (s : State) (n : Nat) (f : Launch → Launch) : (s.modLaunch n f).queues = s.queues := rfl
@[simp] theorem modLaunch_ginsts (s : State) (n : Nat) (f : Launch → Launch) : (s.modLaunch n f).ginsts = s.ginsts := rfl
@[simp] theorem modLaunch_saved (s : State) (n : Nat) (f : Launch → Launch) : (s.modLaunch n f).saved = s.saved := rfl
@[simp] theorem modLaunch_parts (s : State) (n : Nat) (f : Launch → Launch) : (s.modLaunch n f).parts = s.parts := rfl
@[simp] theorem modLaunch_ptsel (s : State) (n : Nat) (f : Launch → Launch) : (s.modLaunch n f).ptsel = s.ptsel := rfl
@[simp] theorem modLaunch_keys (s : State) (n : Nat) (f : Launch → Launch) : (s.modLaunch n f).keys = s.keys := rfl
@[simp] theorem modLaunch_tlb (s : State) (n : Nat) (f : Launch → Launch) : (s.modLaunch n f).tlb = s.tlb := rfl
@[simp] theorem modLaunch_peers (s : State) (n : Nat) (f : Launch → Launch) : (s.modLaunch n f).peers = s.peers := rfl
@[simp] theorem modLaunch_unanswered (s : State) (n : Nat) (f : Launch → Launch) : (s.modLaunch n f).unanswered = s.unanswered := rfl
@[simp] theorem modLaunch_board (s : State) (n : Nat) (f : Launch → Launch) : (s.modLaunch n f).board = s.board := rfl
@[simp] theorem modLaunch_slot (s : State) (n : Nat) (f : Launch → Launch) (k : Nat) : (s.modLaunch n f).slot k = s.slot k := rfl
@[simp] theorem modLaunch_core (s : State) (n : Nat) (f : Launch → Launch) (k : Nat) : (s.modLaunch n f).core k = s.core k := rfl
@[simp] theorem modLaunch_cluster (s : State) (n : Nat) (f : Launch → Launch) (k : Nat) : (s.modLaunch n f).cluster k = s.cluster k := rfl
@[simp] theorem modLaunch_die (s : State) (n : Nat) (f : Launch → Launch) (k : Nat) : (s.modLaunch n f).die k = s.die k := rfl
@[simp] theorem modLaunch_launch_self (s : State) (n : Nat) (f : Launch → Launch) : (s.modLaunch n f).launch n = f (s.launch n) := KV.get_set_self _ _ _ _
theorem modLaunch_launch_ne (s : State) (n : Nat) (f : Launch → Launch) (k : Nat) (h : k ≠ n) : (s.modLaunch n f).launch k = s.launch k := KV.get_set_ne _ _ _ _ _ h
@[simp] theorem modLaunch_ginst (s : State) (n : Nat) (f : Launch → Launch) (k : Nat) : (s.modLaunch n f).ginst k = s.ginst k := rfl
@[simp] theorem modLaunch_part (s : State) (n : Nat) (f : Launch → Launch) (k : Nat) : (s.modLaunch n f).part k = s.part k := rfl
@[simp] theorem modLaunch_rslot (s : State) (n : Nat) (f : Launch → Launch) (k : Nat) : (s.modLaunch n f).rslot k = s.rslot k := rfl
@[simp] theorem modLaunch_table (s : State) (n : Nat) (f : Launch → Launch) (k : Nat) : (s.modLaunch n f).table k = s.table k := rfl
@[simp] theorem modLaunch_queue (s : State) (n : Nat) (f : Launch → Launch) (k : Nat) : (s.modLaunch n f).queue k = s.queue k := rfl

/-! ### modGinst -/

@[simp] theorem modGinst_agenda (s : State) (n : Nat) (f : GInst → GInst) : (s.modGinst n f).agenda = s.agenda := rfl
@[simp] theorem modGinst_cur (s : State) (n : Nat) (f : GInst → GInst) : (s.modGinst n f).cur = s.cur := rfl
@[simp] theorem modGinst_idle (s : State) (n : Nat) (f : GInst → GInst) : (s.modGinst n f).idle = s.idle := rfl
@[simp] theorem modGinst_choices (s : State) (n : Nat) (f : GInst → GInst) : (s.modGinst n f).choices = s.choices := rfl
@[simp] theorem modGinst_freeCount (s : State) (n : Nat) (f : GInst → GInst) : (s.modGinst n f).freeCount = s.freeCount := rfl
@[simp] theorem modGinst_nextId (s : State) (n : Nat) (f : GInst → GInst) : (s.modGinst n f).nextId = s.nextId := rfl
@[simp] theorem modGinst_cycle (s : State) (n : Nat) (f : GInst → GInst) : (s.modGinst n f).cycle = s.cycle := rfl
@[simp] theorem modGinst_mem (s : State) (n : Nat) (f : GInst → GInst) : (s.modGinst n f).mem = s.mem := rfl
@[simp] theorem modGinst_fe (s : State) (n : Nat) (f : GInst → GInst) : (s.modGinst n f).fe = s.fe := rfl
@[simp] theorem modGinst_written (s : State) (n : Nat) (f : GInst → GInst) : (s.modGinst n f).written = s.written := rfl
@[simp] theorem modGinst_poison (s : State) (n : Nat) (f : GInst → GInst) : (s.modGinst n f).poison = s.poison := rfl
@[simp] theorem modGinst_poisonSeen (s : State) (n : Nat) (f : GInst → GInst) : (s.modGinst n f).poisonSeen = s.poisonSeen := rfl
@[simp] theorem modGinst_slots (s : State) (n : Nat) (f : GInst → GInst) : (s.modGinst n f).slots = s.slots := rfl
@[simp] theorem modGinst_cores (s : State) (n : Nat) (f : GInst → GInst) : (s.modGinst n f).cores = s.cores := rfl
@[simp] theorem modGinst_clusters (s : State) (n : Nat) (f : GInst → GInst) : (s.modGinst n f).clusters = s.clusters := rfl
@[simp] theorem modGinst_dies (s : State) (n : Nat) (f : GInst → GInst) : (s.modGinst n f).dies = s.dies := rfl
@[simp] theorem modGinst_net (s : State) (n : Nat) (f : GInst → GInst) : (s.modGinst n f).net = s.net := rfl
@[simp] theorem modGinst_rslots (s : State) (n : Nat) (f : GInst → GInst) : (s.modGinst n f).rslots = s.rslots := rfl
@[simp] theorem modGinst_versions (s : State) (n : Nat) (f : GInst → GInst) : (s.modGinst n f).versions = s.versions := rfl
@[simp] theorem modGinst_readers (s : State) (n : Nat) (f : GInst → GInst) : (s.modGinst n f).readers = s.readers := rfl
@[simp] theorem modGinst_filtered (s : State) (n : Nat) (f : GInst → GInst) : (s.modGinst n f).filtered = s.filtered := rfl
@[simp] theorem modGinst_frontier (s : State) (n : Nat) (f : GInst → GInst) : (s.modGinst n f).frontier = s.frontier := rfl
@[simp] theorem modGinst_objs (s : State) (n : Nat) (f : GInst → GInst) : (s.modGinst n f).objs = s.objs := rfl
@[simp] theorem modGinst_tables (s : State) (n : Nat) (f : GInst → GInst) : (s.modGinst n f).tables = s.tables := rfl
@[simp] theorem modGinst_launches (s : State) (n : Nat) (f : GInst → GInst) : (s.modGinst n f).launches = s.launches := rfl
@[simp] theorem modGinst_queues (s : State) (n : Nat) (f : GInst → GInst) : (s.modGinst n f).queues = s.queues := rfl
@[simp] theorem modGinst_saved (s : State) (n : Nat) (f : GInst → GInst) : (s.modGinst n f).saved = s.saved := rfl
@[simp] theorem modGinst_parts (s : State) (n : Nat) (f : GInst → GInst) : (s.modGinst n f).parts = s.parts := rfl
@[simp] theorem modGinst_ptsel (s : State) (n : Nat) (f : GInst → GInst) : (s.modGinst n f).ptsel = s.ptsel := rfl
@[simp] theorem modGinst_keys (s : State) (n : Nat) (f : GInst → GInst) : (s.modGinst n f).keys = s.keys := rfl
@[simp] theorem modGinst_tlb (s : State) (n : Nat) (f : GInst → GInst) : (s.modGinst n f).tlb = s.tlb := rfl
@[simp] theorem modGinst_peers (s : State) (n : Nat) (f : GInst → GInst) : (s.modGinst n f).peers = s.peers := rfl
@[simp] theorem modGinst_unanswered (s : State) (n : Nat) (f : GInst → GInst) : (s.modGinst n f).unanswered = s.unanswered := rfl
@[simp] theorem modGinst_board (s : State) (n : Nat) (f : GInst → GInst) : (s.modGinst n f).board = s.board := rfl
@[simp] theorem modGinst_slot (s : State) (n : Nat) (f : GInst → GInst) (k : Nat) : (s.modGinst n f).slot k = s.slot k := rfl
@[simp] theorem modGinst_core (s : State) (n : Nat) (f : GInst → GInst) (k : Nat) : (s.modGinst n f).core k = s.core k := rfl
@[simp] theorem modGinst_cluster (s : State) (n : Nat) (f : GInst → GInst) (k : Nat) : (s.modGinst n f).cluster k = s.cluster k := rfl
@[simp] theorem modGinst_die (s : State) (n : Nat) (f : GInst → GInst) (k : Nat) : (s.modGinst n f).die k = s.die k := rfl
@[simp] theorem modGinst_launch (s : State) (n : Nat) (f : GInst → GInst) (k : Nat) : (s.modGinst n f).launch k = s.launch k := rfl
@[simp] theorem modGinst_ginst_self (s : State) (n : Nat) (f : GInst → GInst) : (s.modGinst n f).ginst n = f (s.ginst n) := KV.get_set_self _ _ _ _
theorem modGinst_ginst_ne (s : State) (n : Nat) (f : GInst → GInst) (k : Nat) (h : k ≠ n) : (s.modGinst n f).ginst k = s.ginst k := KV.get_set_ne _ _ _ _ _ h
@[simp] theorem modGinst_part (s : State) (n : Nat) (f : GInst → GInst) (k : Nat) : (s.modGinst n f).part k = s.part k := rfl
@[simp] theorem modGinst_rslot (s : State) (n : Nat) (f : GInst → GInst) (k : Nat) : (s.modGinst n f).rslot k = s.rslot k := rfl
@[simp] theorem modGinst_table (s : State) (n : Nat) (f : GInst → GInst) (k : Nat) : (s.modGinst n f).table k = s.table k := rfl
@[simp] theorem modGinst_queue (s : State) (n : Nat) (f : GInst → GInst) (k : Nat) : (s.modGinst n f).queue k = s.queue k := rfl

/-! ### modPart -/

@[simp] theorem modPart_agenda (s : State) (n : Nat) (f : Part → Part) : (s.modPart n f).agenda = s.agenda := rfl
@[simp] theorem modPart_cur (s : State) (n : Nat) (f : Part → Part) : (s.modPart n f).cur = s.cur := rfl
@[simp] theorem modPart_idle (s : State) (n : Nat) (f : Part → Part) : (s.modPart n f).idle = s.idle := rfl
@[simp] theorem modPart_choices (s : State) (n : Nat) (f : Part → Part) : (s.modPart n f).choices = s.choices := rfl
@[simp] theorem modPart_freeCount (s : State) (n : Nat) (f : Part → Part) : (s.modPart n f).freeCount = s.freeCount := rfl
@[simp] theorem modPart_nextId (s : State) (n : Nat) (f : Part → Part) : (s.modPart n f).nextId = s.nextId := rfl
@[simp] theorem modPart_cycle (s : State) (n : Nat) (f : Part → Part) : (s.modPart n f).cycle = s.cycle := rfl
@[simp] theorem modPart_mem (s : State) (n : Nat) (f : Part → Part) : (s.modPart n f).mem = s.mem := rfl
@[simp] theorem modPart_fe (s : State) (n : Nat) (f : Part → Part) : (s.modPart n f).fe = s.fe := rfl
@[simp] theorem modPart_written (s : State) (n : Nat) (f : Part → Part) : (s.modPart n f).written = s.written := rfl
@[simp] theorem modPart_poison (s : State) (n : Nat) (f : Part → Part) : (s.modPart n f).poison = s.poison := rfl
@[simp] theorem modPart_poisonSeen (s : State) (n : Nat) (f : Part → Part) : (s.modPart n f).poisonSeen = s.poisonSeen := rfl
@[simp] theorem modPart_slots (s : State) (n : Nat) (f : Part → Part) : (s.modPart n f).slots = s.slots := rfl
@[simp] theorem modPart_cores (s : State) (n : Nat) (f : Part → Part) : (s.modPart n f).cores = s.cores := rfl
@[simp] theorem modPart_clusters (s : State) (n : Nat) (f : Part → Part) : (s.modPart n f).clusters = s.clusters := rfl
@[simp] theorem modPart_dies (s : State) (n : Nat) (f : Part → Part) : (s.modPart n f).dies = s.dies := rfl
@[simp] theorem modPart_net (s : State) (n : Nat) (f : Part → Part) : (s.modPart n f).net = s.net := rfl
@[simp] theorem modPart_rslots (s : State) (n : Nat) (f : Part → Part) : (s.modPart n f).rslots = s.rslots := rfl
@[simp] theorem modPart_versions (s : State) (n : Nat) (f : Part → Part) : (s.modPart n f).versions = s.versions := rfl
@[simp] theorem modPart_readers (s : State) (n : Nat) (f : Part → Part) : (s.modPart n f).readers = s.readers := rfl
@[simp] theorem modPart_filtered (s : State) (n : Nat) (f : Part → Part) : (s.modPart n f).filtered = s.filtered := rfl
@[simp] theorem modPart_frontier (s : State) (n : Nat) (f : Part → Part) : (s.modPart n f).frontier = s.frontier := rfl
@[simp] theorem modPart_objs (s : State) (n : Nat) (f : Part → Part) : (s.modPart n f).objs = s.objs := rfl
@[simp] theorem modPart_tables (s : State) (n : Nat) (f : Part → Part) : (s.modPart n f).tables = s.tables := rfl
@[simp] theorem modPart_launches (s : State) (n : Nat) (f : Part → Part) : (s.modPart n f).launches = s.launches := rfl
@[simp] theorem modPart_queues (s : State) (n : Nat) (f : Part → Part) : (s.modPart n f).queues = s.queues := rfl
@[simp] theorem modPart_ginsts (s : State) (n : Nat) (f : Part → Part) : (s.modPart n f).ginsts = s.ginsts := rfl
@[simp] theorem modPart_saved (s : State) (n : Nat) (f : Part → Part) : (s.modPart n f).saved = s.saved := rfl
@[simp] theorem modPart_ptsel (s : State) (n : Nat) (f : Part → Part) : (s.modPart n f).ptsel = s.ptsel := rfl
@[simp] theorem modPart_keys (s : State) (n : Nat) (f : Part → Part) : (s.modPart n f).keys = s.keys := rfl
@[simp] theorem modPart_tlb (s : State) (n : Nat) (f : Part → Part) : (s.modPart n f).tlb = s.tlb := rfl
@[simp] theorem modPart_peers (s : State) (n : Nat) (f : Part → Part) : (s.modPart n f).peers = s.peers := rfl
@[simp] theorem modPart_unanswered (s : State) (n : Nat) (f : Part → Part) : (s.modPart n f).unanswered = s.unanswered := rfl
@[simp] theorem modPart_board (s : State) (n : Nat) (f : Part → Part) : (s.modPart n f).board = s.board := rfl
@[simp] theorem modPart_slot (s : State) (n : Nat) (f : Part → Part) (k : Nat) : (s.modPart n f).slot k = s.slot k := rfl
@[simp] theorem modPart_core (s : State) (n : Nat) (f : Part → Part) (k : Nat) : (s.modPart n f).core k = s.core k := rfl
@[simp] theorem modPart_cluster (s : State) (n : Nat) (f : Part → Part) (k : Nat) : (s.modPart n f).cluster k = s.cluster k := rfl
@[simp] theorem modPart_die (s : State) (n : Nat) (f : Part → Part) (k : Nat) : (s.modPart n f).die k = s.die k := rfl
@[simp] theorem modPart_launch (s : State) (n : Nat) (f : Part → Part) (k : Nat) : (s.modPart n f).launch k = s.launch k := rfl
@[simp] theorem modPart_ginst (s : State) (n : Nat) (f : Part → Part) (k : Nat) : (s.modPart n f).ginst k = s.ginst k := rfl
@[simp] theorem modPart_part_self (s : State) (n : Nat) (f : Part → Part) : (s.modPart n f).part n = f (s.part n) := KV.get_set_self _ _ _ _
theorem modPart_part_ne (s : State) (n : Nat) (f : Part → Part) (k : Nat) (h : k ≠ n) : (s.modPart n f).part k = s.part k := KV.get_set_ne _ _ _ _ _ h
@[simp] theorem modPart_rslot (s : State) (n : Nat) (f : Part → Part) (k : Nat) : (s.modPart n f).rslot k = s.rslot k := rfl
@[simp] theorem modPart_table (s : State) (n : Nat) (f : Part → Part) (k : Nat) : (s.modPart n f).table k = s.table k := rfl
@[simp] theorem modPart_queue (s : State) (n : Nat) (f : Part → Part) (k : Nat) : (s.modPart n f).queue k = s.queue k := rfl

/-! ### modRslot -/

@[simp] theorem modRslot_agenda (s : State) (n : Nat) (f : RSlot → RSlot) : (s.modRslot n f).agenda = s.agenda := rfl
@[simp] theorem modRslot_cur (s : State) (n : Nat) (f : RSlot → RSlot) : (s.modRslot n f).cur = s.cur := rfl
@[simp] theorem modRslot_idle (s : State) (n : Nat) (f : RSlot → RSlot) : (s.modRslot n f).idle = s.idle := rfl
@[simp] theorem modRslot_choices (s : State) (n : Nat) (f : RSlot → RSlot) : (s.modRslot n f).choices = s.choices := rfl
@[simp] theorem modRslot_freeCount (s : State) (n : Nat) (f : RSlot → RSlot) : (s.modRslot n f).freeCount = s.freeCount := rfl
@[simp] theorem modRslot_nextId (s : State) (n : Nat) (f : RSlot → RSlot) : (s.modRslot n f).nextId = s.nextId := rfl
@[simp] theorem modRslot_cycle (s : State) (n : Nat) (f : RSlot → RSlot) : (s.modRslot n f).cycle = s.cycle := rfl
@[simp] theorem modRslot_mem (s : State) (n : Nat) (f : RSlot → RSlot) : (s.modRslot n f).mem = s.mem := rfl
@[simp] theorem modRslot_fe (s : State) (n : Nat) (f : RSlot → RSlot) : (s.modRslot n f).fe = s.fe := rfl
@[simp] theorem modRslot_written (s : State) (n : Nat) (f : RSlot → RSlot) : (s.modRslot n f).written = s.written := rfl
@[simp] theorem modRslot_poison (s : State) (n : Nat) (f : RSlot → RSlot) : (s.modRslot n f).poison = s.poison := rfl
@[simp] theorem modRslot_poisonSeen (s : State) (n : Nat) (f : RSlot → RSlot) : (s.modRslot n f).poisonSeen = s.poisonSeen := rfl
@[simp] theorem modRslot_slots (s : State) (n : Nat) (f : RSlot → RSlot) : (s.modRslot n f).slots = s.slots := rfl
@[simp] theorem modRslot_cores (s : State) (n : Nat) (f : RSlot → RSlot) : (s.modRslot n f).cores = s.cores := rfl
@[simp] theorem modRslot_clusters (s : State) (n : Nat) (f : RSlot → RSlot) : (s.modRslot n f).clusters = s.clusters := rfl
@[simp] theorem modRslot_dies (s : State) (n : Nat) (f : RSlot → RSlot) : (s.modRslot n f).dies = s.dies := rfl
@[simp] theorem modRslot_net (s : State) (n : Nat) (f : RSlot → RSlot) : (s.modRslot n f).net = s.net := rfl
@[simp] theorem modRslot_versions (s : State) (n : Nat) (f : RSlot → RSlot) : (s.modRslot n f).versions = s.versions := rfl
@[simp] theorem modRslot_readers (s : State) (n : Nat) (f : RSlot → RSlot) : (s.modRslot n f).readers = s.readers := rfl
@[simp] theorem modRslot_filtered (s : State) (n : Nat) (f : RSlot → RSlot) : (s.modRslot n f).filtered = s.filtered := rfl
@[simp] theorem modRslot_frontier (s : State) (n : Nat) (f : RSlot → RSlot) : (s.modRslot n f).frontier = s.frontier := rfl
@[simp] theorem modRslot_objs (s : State) (n : Nat) (f : RSlot → RSlot) : (s.modRslot n f).objs = s.objs := rfl
@[simp] theorem modRslot_tables (s : State) (n : Nat) (f : RSlot → RSlot) : (s.modRslot n f).tables = s.tables := rfl
@[simp] theorem modRslot_launches (s : State) (n : Nat) (f : RSlot → RSlot) : (s.modRslot n f).launches = s.launches := rfl
@[simp] theorem modRslot_queues (s : State) (n : Nat) (f : RSlot → RSlot) : (s.modRslot n f).queues = s.queues := rfl
@[simp] theorem modRslot_ginsts (s : State) (n : Nat) (f : RSlot → RSlot) : (s.modRslot n f).ginsts = s.ginsts := rfl
@[simp] theorem modRslot_saved (s : State) (n : Nat) (f : RSlot → RSlot) : (s.modRslot n f).saved = s.saved := rfl
@[simp] theorem modRslot_parts (s : State) (n : Nat) (f : RSlot → RSlot) : (s.modRslot n f).parts = s.parts := rfl
@[simp] theorem modRslot_ptsel (s : State) (n : Nat) (f : RSlot → RSlot) : (s.modRslot n f).ptsel = s.ptsel := rfl
@[simp] theorem modRslot_keys (s : State) (n : Nat) (f : RSlot → RSlot) : (s.modRslot n f).keys = s.keys := rfl
@[simp] theorem modRslot_tlb (s : State) (n : Nat) (f : RSlot → RSlot) : (s.modRslot n f).tlb = s.tlb := rfl
@[simp] theorem modRslot_peers (s : State) (n : Nat) (f : RSlot → RSlot) : (s.modRslot n f).peers = s.peers := rfl
@[simp] theorem modRslot_unanswered (s : State) (n : Nat) (f : RSlot → RSlot) : (s.modRslot n f).unanswered = s.unanswered := rfl
@[simp] theorem modRslot_board (s : State) (n : Nat) (f : RSlot → RSlot) : (s.modRslot n f).board = s.board := rfl
@[simp] theorem modRslot_slot (s : State) (n : Nat) (f : RSlot → RSlot) (k : Nat) : (s.modRslot n f).slot k = s.slot k := rfl
@[simp] theorem modRslot_core (s : State) (n : Nat) (f : RSlot → RSlot) (k : Nat) : (s.modRslot n f).core k = s.core k := rfl
@[simp] theorem modRslot_cluster (s : State) (n : Nat) (f : RSlot → RSlot) (k : Nat) : (s.modRslot n f).cluster k = s.cluster k := rfl
@[simp] theorem modRslot_die (s : State) (n : Nat) (f : RSlot → RSlot) (k : Nat) : (s.modRslot n f).die k = s.die k := rfl
@[simp] theorem modRslot_launch (s : State) (n : Nat) (f : RSlot → RSlot) (k : Nat) : (s.modRslot n f).launch k = s.launch k := rfl
@[simp] theorem modRslot_ginst (s : State) (n : Nat) (f : RSlot → RSlot) (k : Nat) : (s.modRslot n f).ginst k = s.ginst k := rfl
@[simp] theorem modRslot_part (s : State) (n : Nat) (f : RSlot → RSlot) (k : Nat) : (s.modRslot n f).part k = s.part k := rfl
@[simp] theorem modRslot_rslot_self (s : State) (n : Nat) (f : RSlot → RSlot) : (s.modRslot n f).rslot n = f (s.rslot n) := KV.get_set_self _ _ _ _
theorem modRslot_rslot_ne (s : State) (n : Nat) (f : RSlot → RSlot) (k : Nat) (h : k ≠ n) : (s.modRslot n f).rslot k = s.rslot k := KV.get_set_ne _ _ _ _ _ h
@[simp] theorem modRslot_table (s : State) (n : Nat) (f : RSlot → RSlot) (k : Nat) : (s.modRslot n f).table k = s.table k := rfl
@[simp] theorem modRslot_queue (s : State) (n : Nat) (f : RSlot → RSlot) (k : Nat) : (s.modRslot n f).queue k = s.queue k := rfl

/-! ### modTable -/

@[simp] theorem modTable_agenda (s : State) (n : Nat) (f : Table → Table) : (s.modTable n f).agenda = s.agenda := rfl
@[simp] theorem modTable_cur (s : State) (n : Nat) (f : Table → Table) : (s.modTable n f).cur = s.cur := rfl
@[simp] theorem modTable_idle (s : State) (n : Nat) (f : Table → Table) : (s.modTable n f).idle = s.idle := rfl
@[simp] theorem modTable_choices (s : State) (n : Nat) (f : Table → Table) : (s.modTable n f).choices = s.choices := rfl
@[simp] theorem modTable_freeCount (s : State) (n : Nat) (f : Table → Table) : (s.modTable n f).freeCount = s.freeCount := rfl
@[simp] theorem modTable_nextId (s : State) (n : Nat) (f : Table → Table) : (s.modTable n f).nextId = s.nextId := rfl
@[simp] theorem modTable_cycle (s : State) (n : Nat) (f : Table → Table) : (s.modTable n f).cycle = s.cycle := rfl
@[simp] theorem modTable_mem (s : State) (n : Nat) (f : Table → Table) : (s.modTable n f).mem = s.mem := rfl
@[simp] theorem modTable_fe (s : State) (n : Nat) (f : Table → Table) : (s.modTable n f).fe = s.fe := rfl
@[simp] theorem modTable_written (s : State) (n : Nat) (f : Table → Table) : (s.modTable n f).written = s.written := rfl
@[simp] theorem modTable_poison (s : State) (n : Nat) (f : Table → Table) : (s.modTable n f).poison = s.poison := rfl
@[simp] theorem modTable_poisonSeen (s : State) (n : Nat) (f : Table → Table) : (s.modTable n f).poisonSeen = s.poisonSeen := rfl
@[simp] theorem modTable_slots (s : State) (n : Nat) (f : Table → Table) : (s.modTable n f).slots = s.slots := rfl
@[simp] theorem modTable_cores (s : State) (n : Nat) (f : Table → Table) : (s.modTable n f).cores = s.cores := rfl
@[simp] theorem modTable_clusters (s : State) (n : Nat) (f : Table → Table) : (s.modTable n f).clusters = s.clusters := rfl
@[simp] theorem modTable_dies (s : State) (n : Nat) (f : Table → Table) : (s.modTable n f).dies = s.dies := rfl
@[simp] theorem modTable_net (s : State) (n : Nat) (f : Table → Table) : (s.modTable n f).net = s.net := rfl
@[simp] theorem modTable_rslots (s : State) (n : Nat) (f : Table → Table) : (s.modTable n f).rslots = s.rslots := rfl
@[simp] theorem modTable_versions (s : State) (n : Nat) (f : Table → Table) : (s.modTable n f).versions = s.versions := rfl
@[simp] theorem modTable_readers (s : State) (n : Nat) (f : Table → Table) : (s.modTable n f).readers = s.readers := rfl
@[simp] theorem modTable_filtered (s : State) (n : Nat) (f : Table → Table) : (s.modTable n f).filtered = s.filtered := rfl
@[simp] theorem modTable_frontier (s : State) (n : Nat) (f : Table → Table) : (s.modTable n f).frontier = s.frontier := rfl
@[simp] theorem modTable_objs (s : State) (n : Nat) (f : Table → Table) : (s.modTable n f).objs = s.objs := rfl
@[simp] theorem modTable_launches (s : State) (n : Nat) (f : Table → Table) : (s.modTable n f).launches = s.launches := rfl
@[simp] theorem modTable_queues (s : State) (n : Nat) (f : Table → Table) : (s.modTable n f).queues = s.queues := rfl
@[simp] theorem modTable_ginsts (s : State) (n : Nat) (f : Table → Table) : (s.modTable n f).ginsts = s.ginsts := rfl
@[simp] theorem modTable_saved (s : State) (n : Nat) (f : Table → Table) : (s.modTable n f).saved = s.saved := rfl
@[simp] theorem modTable_parts (s : State) (n : Nat) (f : Table → Table) : (s.modTable n f).parts = s.parts := rfl
@[simp] theorem modTable_ptsel (s : State) (n : Nat) (f : Table → Table) : (s.modTable n f).ptsel = s.ptsel := rfl
@[simp] theorem modTable_keys (s : State) (n : Nat) (f : Table → Table) : (s.modTable n f).keys = s.keys := rfl
@[simp] theorem modTable_tlb (s : State) (n : Nat) (f : Table → Table) : (s.modTable n f).tlb = s.tlb := rfl
@[simp] theorem modTable_peers (s : State) (n : Nat) (f : Table → Table) : (s.modTable n f).peers = s.peers := rfl
@[simp] theorem modTable_unanswered (s : State) (n : Nat) (f : Table → Table) : (s.modTable n f).unanswered = s.unanswered := rfl
@[simp] theorem modTable_board (s : State) (n : Nat) (f : Table → Table) : (s.modTable n f).board = s.board := rfl
@[simp] theorem modTable_slot (s : State) (n : Nat) (f : Table → Table) (k : Nat) : (s.modTable n f).slot k = s.slot k := rfl
@[simp] theorem modTable_core (s : State) (n : Nat) (f : Table → Table) (k : Nat) : (s.modTable n f).core k = s.core k := rfl
@[simp] theorem modTable_cluster (s : State) (n : Nat) (f : Table → Table) (k : Nat) : (s.modTable n f).cluster k = s.cluster k := rfl
@[simp] theorem modTable_die (s : State) (n : Nat) (f : Table → Table) (k : Nat) : (s.modTable n f).die k = s.die k := rfl
@[simp] theorem modTable_launch (s : State) (n : Nat) (f : Table → Table) (k : Nat) : (s.modTable n f).launch k = s.launch k := rfl
@[simp] theorem modTable_ginst (s : State) (n : Nat) (f : Table → Table) (k : Nat) : (s.modTable n f).ginst k = s.ginst k := rfl
@[simp] theorem modTable_part (s : State) (n : Nat) (f : Table → Table) (k : Nat) : (s.modTable n f).part k = s.part k := rfl
@[simp] theorem modTable_rslot (s : State) (n : Nat) (f : Table → Table) (k : Nat) : (s.modTable n f).rslot k = s.rslot k := rfl
@[simp] theorem modTable_table_self (s : State) (n : Nat) (f : Table → Table) : (s.modTable n f).table n = f (s.table n) := KV.get_set_self _ _ _ _
theorem modTable_table_ne (s : State) (n : Nat) (f : Table → Table) (k : Nat) (h : k ≠ n) : (s.modTable n f).table k = s.table k := KV.get_set_ne _ _ _ _ _ h
@[simp] theorem modTable_queue (s : State) (n : Nat) (f : Table → Table) (k : Nat) : (s.modTable n f).queue k = s.queue k := rfl

/-! ### modQueue -/

@[simp] theorem modQueue_agenda (s : State) (n : Nat) (f : Queue → Queue) : (s.modQueue n f).agenda = s.agenda := rfl
@[simp] theorem modQueue_cur (s : State) (n : Nat) (f : Queue → Queue) : (s.modQueue n f).cur = s.cur := rfl
@[simp] theorem modQueue_idle (s : State) (n : Nat) (f : Queue → Queue) : (s.modQueue n f).idle = s.idle := rfl
@[simp] theorem modQueue_choices (s : State) (n : Nat) (f : Queue → Queue) : (s.modQueue n f).choices = s.choices := rfl
@[simp] theorem modQueue_freeCount (s : State) (n : Nat) (f : Queue → Queue) : (s.modQueue n f).freeCount = s.freeCount := rfl
@[simp] theorem modQueue_nextId (s : State) (n : Nat) (f : Queue → Queue) : (s.modQueue n f).nextId = s.nextId := rfl
@[simp] theorem modQueue_cycle (s : State) (n : Nat) (f : Queue → Queue) : (s.modQueue n f).cycle = s.cycle := rfl
@[simp] theorem modQueue_mem (s : State) (n : Nat) (f : Queue → Queue) : (s.modQueue n f).mem = s.mem := rfl
@[simp] theorem modQueue_fe (s : State) (n : Nat) (f : Queue → Queue) : (s.modQueue n f).fe = s.fe := rfl
@[simp] theorem modQueue_written (s : State) (n : Nat) (f : Queue → Queue) : (s.modQueue n f).written = s.written := rfl
@[simp] theorem modQueue_poison (s : State) (n : Nat) (f : Queue → Queue) : (s.modQueue n f).poison = s.poison := rfl
@[simp] theorem modQueue_poisonSeen (s : State) (n : Nat) (f : Queue → Queue) : (s.modQueue n f).poisonSeen = s.poisonSeen := rfl
@[simp] theorem modQueue_slots (s : State) (n : Nat) (f : Queue → Queue) : (s.modQueue n f).slots = s.slots := rfl
@[simp] theorem modQueue_cores (s : State) (n : Nat) (f : Queue → Queue) : (s.modQueue n f).cores = s.cores := rfl
@[simp] theorem modQueue_clusters (s : State) (n : Nat) (f : Queue → Queue) : (s.modQueue n f).clusters = s.clusters := rfl
@[simp] theorem modQueue_dies (s : State) (n : Nat) (f : Queue → Queue) : (s.modQueue n f).dies = s.dies := rfl
@[simp] theorem modQueue_net (s : State) (n : Nat) (f : Queue → Queue) : (s.modQueue n f).net = s.net := rfl
@[simp] theorem modQueue_rslots (s : State) (n : Nat) (f : Queue → Queue) : (s.modQueue n f).rslots = s.rslots := rfl
@[simp] theorem modQueue_versions (s : State) (n : Nat) (f : Queue → Queue) : (s.modQueue n f).versions = s.versions := rfl
@[simp] theorem modQueue_readers (s : State) (n : Nat) (f : Queue → Queue) : (s.modQueue n f).readers = s.readers := rfl
@[simp] theorem modQueue_filtered (s : State) (n : Nat) (f : Queue → Queue) : (s.modQueue n f).filtered = s.filtered := rfl
@[simp] theorem modQueue_frontier (s : State) (n : Nat) (f : Queue → Queue) : (s.modQueue n f).frontier = s.frontier := rfl
@[simp] theorem modQueue_objs (s : State) (n : Nat) (f : Queue → Queue) : (s.modQueue n f).objs = s.objs := rfl
@[simp] theorem modQueue_tables (s : State) (n : Nat) (f : Queue → Queue) : (s.modQueue n f).tables = s.tables := rfl
@[simp] theorem modQueue_launches (s : State) (n : Nat) (f : Queue → Queue) : (s.modQueue n f).launches = s.launches := rfl
@[simp] theorem modQueue_ginsts (s : State) (n : Nat) (f : Queue → Queue) : (s.modQueue n f).ginsts = s.ginsts := rfl
@[simp] theorem modQueue_saved (s : State) (n : Nat) (f : Queue → Queue) : (s.modQueue n f).saved = s.saved := rfl
@[simp] theorem modQueue_parts (s : State) (n : Nat) (f : Queue → Queue) : (s.modQueue n f).parts = s.parts := rfl
@[simp] theorem modQueue_ptsel (s : State) (n : Nat) (f : Queue → Queue) : (s.modQueue n f).ptsel = s.ptsel := rfl
@[simp] theorem modQueue_keys (s : State) (n : Nat) (f : Queue → Queue) : (s.modQueue n f).keys = s.keys := rfl
@[simp] theorem modQueue_tlb (s : State) (n : Nat) (f : Queue → Queue) : (s.modQueue n f).tlb = s.tlb := rfl
@[simp] theorem modQueue_peers (s : State) (n : Nat) (f : Queue → Queue) : (s.modQueue n f).peers = s.peers := rfl
@[simp] theorem modQueue_unanswered (s : State) (n : Nat) (f : Queue → Queue) : (s.modQueue n f).unanswered = s.unanswered := rfl
@[simp] theorem modQueue_board (s : State) (n : Nat) (f : Queue → Queue) : (s.modQueue n f).board = s.board := rfl
@[simp] theorem modQueue_slot (s : State) (n : Nat) (f : Queue → Queue) (k : Nat) : (s.modQueue n f).slot k = s.slot k := rfl
@[simp] theorem modQueue_core (s : State) (n : Nat) (f : Queue → Queue) (k : Nat) : (s.modQueue n f).core k = s.core k := rfl
@[simp] theorem modQueue_cluster (s : State) (n : Nat) (f : Queue → Queue) (k : Nat) : (s.modQueue n f).cluster k = s.cluster k := rfl
@[simp] theorem modQueue_die (s : State) (n : Nat) (f : Queue → Queue) (k : Nat) : (s.modQueue n f).die k = s.die k := rfl
@[simp] theorem modQueue_launch (s : State) (n : Nat) (f : Queue → Queue) (k : Nat) : (s.modQueue n f).launch k = s.launch k := rfl
@[simp] theorem modQueue_ginst (s : State) (n : Nat) (f : Queue → Queue) (k : Nat) : (s.modQueue n f).ginst k = s.ginst k := rfl
@[simp] theorem modQueue_part (s : State) (n : Nat) (f : Queue → Queue) (k : Nat) : (s.modQueue n f).part k = s.part k := rfl
@[simp] theorem modQueue_rslot (s : State) (n : Nat) (f : Queue → Queue) (k : Nat) : (s.modQueue n f).rslot k = s.rslot k := rfl
@[simp] theorem modQueue_table (s : State) (n : Nat) (f : Queue → Queue) (k : Nat) : (s.modQueue n f).table k = s.table k := rfl
@[simp] theorem modQueue_queue_self (s : State) (n : Nat) (f : Queue → Queue) : (s.modQueue n f).queue n = f (s.queue n) := KV.get_set_self _ _ _ _
theorem modQueue_queue_ne (s : State) (n : Nat) (f : Queue → Queue) (k : Nat) (h : k ≠ n) : (s.modQueue n f).queue k = s.queue k := KV.get_set_ne _ _ _ _ _ h

/-! ### modBoard -/

@[simp] theorem modBoard_agenda (s : State) (f : Board → Board) : (s.modBoard f).agenda = s.agenda := rfl
@[simp] theorem modBoard_cur (s : State) (f : Board → Board) : (s.modBoard f).cur = s.cur := rfl
@[simp] theorem modBoard_idle (s : State) (f : Board → Board) : (s.modBoard f).idle = s.idle := rfl
@[simp] theorem modBoard_choices (s : State) (f : Board → Board) : (s.modBoard f).choices = s.choices := rfl
@[simp] theorem modBoard_freeCount (s : State) (f : Board → Board) : (s.modBoard f).freeCount = s.freeCount := rfl
@[simp] theorem modBoard_nextId (s : State) (f : Board → Board) : (s.modBoard f).nextId = s.nextId := rfl
@[simp] theorem modBoard_cycle (s : State) (f : Board → Board) : (s.modBoard f).cycle = s.cycle := rfl
@[simp] theorem modBoard_mem (s : State) (f : Board → Board) : (s.modBoard f).mem = s.mem := rfl
@[simp] theorem modBoard_fe (s : State) (f : Board → Board) : (s.modBoard f).fe = s.fe := rfl
@[simp] theorem modBoard_written (s : State) (f : Board → Board) : (s.modBoard f).written = s.written := rfl
@[simp] theorem modBoard_poison (s : State) (f : Board → Board) : (s.modBoard f).poison = s.poison := rfl
@[simp] theorem modBoard_poisonSeen (s : State) (f : Board → Board) : (s.modBoard f).poisonSeen = s.poisonSeen := rfl
@[simp] theorem modBoard_slots (s : State) (f : Board → Board) : (s.modBoard f).slots = s.slots := rfl
@[simp] theorem modBoard_cores (s : State) (f : Board → Board) : (s.modBoard f).cores = s.cores := rfl
@[simp] theorem modBoard_clusters (s : State) (f : Board → Board) : (s.modBoard f).clusters = s.clusters := rfl
@[simp] theorem modBoard_dies (s : State) (f : Board → Board) : (s.modBoard f).dies = s.dies := rfl
@[simp] theorem modBoard_net (s : State) (f : Board → Board) : (s.modBoard f).net = s.net := rfl
@[simp] theorem modBoard_rslots (s : State) (f : Board → Board) : (s.modBoard f).rslots = s.rslots := rfl
@[simp] theorem modBoard_versions (s : State) (f : Board → Board) : (s.modBoard f).versions = s.versions := rfl
@[simp] theorem modBoard_readers (s : State) (f : Board → Board) : (s.modBoard f).readers = s.readers := rfl
@[simp] theorem modBoard_filtered (s : State) (f : Board → Board) : (s.modBoard f).filtered = s.filtered := rfl
@[simp] theorem modBoard_frontier (s : State) (f : Board → Board) : (s.modBoard f).frontier = s.frontier := rfl
@[simp] theorem modBoard_objs (s : State) (f : Board → Board) : (s.modBoard f).objs = s.objs := rfl
@[simp] theorem modBoard_tables (s : State) (f : Board → Board) : (s.modBoard f).tables = s.tables := rfl
@[simp] theorem modBoard_launches (s : State) (f : Board → Board) : (s.modBoard f).launches = s.launches := rfl
@[simp] theorem modBoard_queues (s : State) (f : Board → Board) : (s.modBoard f).queues = s.queues := rfl
@[simp] theorem modBoard_ginsts (s : State) (f : Board → Board) : (s.modBoard f).ginsts = s.ginsts := rfl
@[simp] theorem modBoard_saved (s : State) (f : Board → Board) : (s.modBoard f).saved = s.saved := rfl
@[simp] theorem modBoard_parts (s : State) (f : Board → Board) : (s.modBoard f).parts = s.parts := rfl
@[simp] theorem modBoard_ptsel (s : State) (f : Board → Board) : (s.modBoard f).ptsel = s.ptsel := rfl
@[simp] theorem modBoard_keys (s : State) (f : Board → Board) : (s.modBoard f).keys = s.keys := rfl
@[simp] theorem modBoard_tlb (s : State) (f : Board → Board) : (s.modBoard f).tlb = s.tlb := rfl
@[simp] theorem modBoard_peers (s : State) (f : Board → Board) : (s.modBoard f).peers = s.peers := rfl
@[simp] theorem modBoard_unanswered (s : State) (f : Board → Board) : (s.modBoard f).unanswered = s.unanswered := rfl
@[simp] theorem modBoard_slot (s : State) (f : Board → Board) (k : Nat) : (s.modBoard f).slot k = s.slot k := rfl
@[simp] theorem modBoard_core (s : State) (f : Board → Board) (k : Nat) : (s.modBoard f).core k = s.core k := rfl
@[simp] theorem modBoard_cluster (s : State) (f : Board → Board) (k : Nat) : (s.modBoard f).cluster k = s.cluster k := rfl
@[simp] theorem modBoard_die (s : State) (f : Board → Board) (k : Nat) : (s.modBoard f).die k = s.die k := rfl
@[simp] theorem modBoard_launch (s : State) (f : Board → Board) (k : Nat) : (s.modBoard f).launch k = s.launch k := rfl
@[simp] theorem modBoard_ginst (s : State) (f : Board → Board) (k : Nat) : (s.modBoard f).ginst k = s.ginst k := rfl
@[simp] theorem modBoard_part (s : State) (f : Board → Board) (k : Nat) : (s.modBoard f).part k = s.part k := rfl
@[simp] theorem modBoard_rslot (s : State) (f : Board → Board) (k : Nat) : (s.modBoard f).rslot k = s.rslot k := rfl
@[simp] theorem modBoard_table (s : State) (f : Board → Board) (k : Nat) : (s.modBoard f).table k = s.table k := rfl
@[simp] theorem modBoard_queue (s : State) (f : Board → Board) (k : Nat) : (s.modBoard f).queue k = s.queue k := rfl

/-! ### tick -/

@[simp] theorem tick_agenda (s : State) : (tick s).agenda = s.agenda := rfl
@[simp] theorem tick_cur (s : State) : (tick s).cur = s.cur := rfl
@[simp] theorem tick_idle (s : State) : (tick s).idle = s.idle := rfl
@[simp] theorem tick_choices (s : State) : (tick s).choices = s.choices := rfl
@[simp] theorem tick_freeCount (s : State) : (tick s).freeCount = s.freeCount := rfl
@[simp] theorem tick_nextId (s : State) : (tick s).nextId = s.nextId := rfl
@[simp] theorem tick_mem (s : State) : (tick s).mem = s.mem := rfl
@[simp] theorem tick_fe (s : State) : (tick s).fe = s.fe := rfl
@[simp] theorem tick_written (s : State) : (tick s).written = s.written := rfl
@[simp] theorem tick_poison (s : State) : (tick s).poison = s.poison := rfl
@[simp] theorem tick_poisonSeen (s : State) : (tick s).poisonSeen = s.poisonSeen := rfl
@[simp] theorem tick_slots (s : State) : (tick s).slots = s.slots := rfl
@[simp] theorem tick_cores (s : State) : (tick s).cores = s.cores := rfl
@[simp] theorem tick_clusters (s : State) : (tick s).clusters = s.clusters := rfl
@[simp] theorem tick_dies (s : State) : (tick s).dies = s.dies := rfl
@[simp] theorem tick_net (s : State) : (tick s).net = s.net := rfl
@[simp] theorem tick_rslots (s : State) : (tick s).rslots = s.rslots := rfl
@[simp] theorem tick_versions (s : State) : (tick s).versions = s.versions := rfl
@[simp] theorem tick_readers (s : State) : (tick s).readers = s.readers := rfl
@[simp] theorem tick_filtered (s : State) : (tick s).filtered = s.filtered := rfl
@[simp] theorem tick_frontier (s : State) : (tick s).frontier = s.frontier := rfl
@[simp] theorem tick_objs (s : State) : (tick s).objs = s.objs := rfl
@[simp] theorem tick_tables (s : State) : (tick s).tables = s.tables := rfl
@[simp] theorem tick_launches (s : State) : (tick s).launches = s.launches := rfl
@[simp] theorem tick_queues (s : State) : (tick s).queues = s.queues := rfl
@[simp] theorem tick_ginsts (s : State) : (tick s).ginsts = s.ginsts := rfl
@[simp] theorem tick_saved (s : State) : (tick s).saved = s.saved := rfl
@[simp] theorem tick_parts (s : State) : (tick s).parts = s.parts := rfl
@[simp] theorem tick_ptsel (s : State) : (tick s).ptsel = s.ptsel := rfl
@[simp] theorem tick_keys (s : State) : (tick s).keys = s.keys := rfl
@[simp] theorem tick_tlb (s : State) : (tick s).tlb = s.tlb := rfl
@[simp] theorem tick_peers (s : State) : (tick s).peers = s.peers := rfl
@[simp] theorem tick_unanswered (s : State) : (tick s).unanswered = s.unanswered := rfl
@[simp] theorem tick_board (s : State) : (tick s).board = s.board := rfl
@[simp] theorem tick_slot (s : State) (k : Nat) : (tick s).slot k = s.slot k := rfl
@[simp] theorem tick_core (s : State) (k : Nat) : (tick s).core k = s.core k := rfl
@[simp] theorem tick_cluster (s : State) (k : Nat) : (tick s).cluster k = s.cluster k := rfl
@[simp] theorem tick_die (s : State) (k : Nat) : (tick s).die k = s.die k := rfl
@[simp] theorem tick_launch (s : State) (k : Nat) : (tick s).launch k = s.launch k := rfl
@[simp] theorem tick_ginst (s : State) (k : Nat) : (tick s).ginst k = s.ginst k := rfl
@[simp] theorem tick_part (s : State) (k : Nat) : (tick s).part k = s.part k := rfl
@[simp] theorem tick_rslot (s : State) (k : Nat) : (tick s).rslot k = s.rslot k := rfl
@[simp] theorem tick_table (s : State) (k : Nat) : (tick s).table k = s.table k := rfl
@[simp] theorem tick_queue (s : State) (k : Nat) : (tick s).queue k = s.queue k := rfl

/-! ### setFe -/

@[simp] theorem setFe_agenda (s : State) (n : Nat) (b : Bool) : (setFe s n b).agenda = s.agenda := rfl
@[simp] theorem setFe_cur (s : State) (n : Nat) (b : Bool) : (setFe s n b).cur = s.cur := rfl
@[simp] theorem setFe_idle (s : State) (n : Nat) (b : Bool) : (setFe s n b).idle = s.idle := rfl
@[simp] theorem setFe_choices (s : State) (n : Nat) (b : Bool) : (setFe s n b).choices = s.choices := rfl
@[simp] theorem setFe_freeCount (s : State) (n : Nat) (b : Bool) : (setFe s n b).freeCount = s.freeCount := rfl
@[simp] theorem setFe_nextId (s : State) (n : Nat) (b : Bool) : (setFe s n b).nextId = s.nextId := rfl
@[simp] theorem setFe_cycle (s : State) (n : Nat) (b : Bool) : (setFe s n b).cycle = s.cycle := rfl
@[simp] theorem setFe_mem (s : State) (n : Nat) (b : Bool) : (setFe s n b).mem = s.mem := rfl
@[simp] theorem setFe_written (s : State) (n : Nat) (b : Bool) : (setFe s n b).written = s.written := rfl
@[simp] theorem setFe_poison (s : State) (n : Nat) (b : Bool) : (setFe s n b).poison = s.poison := rfl
@[simp] theorem setFe_poisonSeen (s : State) (n : Nat) (b : Bool) : (setFe s n b).poisonSeen = s.poisonSeen := rfl
@[simp] theorem setFe_slots (s : State) (n : Nat) (b : Bool) : (setFe s n b).slots = s.slots := rfl
@[simp] theorem setFe_cores (s : State) (n : Nat) (b : Bool) : (setFe s n b).cores = s.cores := rfl
@[simp] theorem setFe_clusters (s : State) (n : Nat) (b : Bool) : (setFe s n b).clusters = s.clusters := rfl
@[simp] theorem setFe_dies (s : State) (n : Nat) (b : Bool) : (setFe s n b).dies = s.dies := rfl
@[simp] theorem setFe_net (s : State) (n : Nat) (b : Bool) : (setFe s n b).net = s.net := rfl
@[simp] theorem setFe_rslots (s : State) (n : Nat) (b : Bool) : (setFe s n b).rslots = s.rslots := rfl
@[simp] theorem setFe_versions (s : State) (n : Nat) (b : Bool) : (setFe s n b).versions = s.versions := rfl
@[simp] theorem setFe_readers (s : State) (n : Nat) (b : Bool) : (setFe s n b).readers = s.readers := rfl
@[simp] theorem setFe_filtered (s : State) (n : Nat) (b : Bool) : (setFe s n b).filtered = s.filtered := rfl
@[simp] theorem setFe_frontier (s : State) (n : Nat) (b : Bool) : (setFe s n b).frontier = s.frontier := rfl
@[simp] theorem setFe_objs (s : State) (n : Nat) (b : Bool) : (setFe s n b).objs = s.objs := rfl
@[simp] theorem setFe_tables (s : State) (n : Nat) (b : Bool) : (setFe s n b).tables = s.tables := rfl
@[simp] theorem setFe_launches (s : State) (n : Nat) (b : Bool) : (setFe s n b).launches = s.launches := rfl
@[simp] theorem setFe_queues (s : State) (n : Nat) (b : Bool) : (setFe s n b).queues = s.queues := rfl
@[simp] theorem setFe_ginsts (s : State) (n : Nat) (b : Bool) : (setFe s n b).ginsts = s.ginsts := rfl
@[simp] theorem setFe_saved (s : State) (n : Nat) (b : Bool) : (setFe s n b).saved = s.saved := rfl
@[simp] theorem setFe_parts (s : State) (n : Nat) (b : Bool) : (setFe s n b).parts = s.parts := rfl
@[simp] theorem setFe_ptsel (s : State) (n : Nat) (b : Bool) : (setFe s n b).ptsel = s.ptsel := rfl
@[simp] theorem setFe_keys (s : State) (n : Nat) (b : Bool) : (setFe s n b).keys = s.keys := rfl
@[simp] theorem setFe_tlb (s : State) (n : Nat) (b : Bool) : (setFe s n b).tlb = s.tlb := rfl
@[simp] theorem setFe_peers (s : State) (n : Nat) (b : Bool) : (setFe s n b).peers = s.peers := rfl
@[simp] theorem setFe_unanswered (s : State) (n : Nat) (b : Bool) : (setFe s n b).unanswered = s.unanswered := rfl
@[simp] theorem setFe_board (s : State) (n : Nat) (b : Bool) : (setFe s n b).board = s.board := rfl
@[simp] theorem setFe_slot (s : State) (n : Nat) (b : Bool) (k : Nat) : (setFe s n b).slot k = s.slot k := rfl
@[simp] theorem setFe_core (s : State) (n : Nat) (b : Bool) (k : Nat) : (setFe s n b).core k = s.core k := rfl
@[simp] theorem setFe_cluster (s : State) (n : Nat) (b : Bool) (k : Nat) : (setFe s n b).cluster k = s.cluster k := rfl
@[simp] theorem setFe_die (s : State) (n : Nat) (b : Bool) (k : Nat) : (setFe s n b).die k = s.die k := rfl
@[simp] theorem setFe_launch (s : State) (n : Nat) (b : Bool) (k : Nat) : (setFe s n b).launch k = s.launch k := rfl
@[simp] theorem setFe_ginst (s : State) (n : Nat) (b : Bool) (k : Nat) : (setFe s n b).ginst k = s.ginst k := rfl
@[simp] theorem setFe_part (s : State) (n : Nat) (b : Bool) (k : Nat) : (setFe s n b).part k = s.part k := rfl
@[simp] theorem setFe_rslot (s : State) (n : Nat) (b : Bool) (k : Nat) : (setFe s n b).rslot k = s.rslot k := rfl
@[simp] theorem setFe_table (s : State) (n : Nat) (b : Bool) (k : Nat) : (setFe s n b).table k = s.table k := rfl
@[simp] theorem setFe_queue (s : State) (n : Nat) (b : Bool) (k : Nat) : (setFe s n b).queue k = s.queue k := rfl

/-! ### markWritten -/

@[simp] theorem markWritten_agenda (s : State) (n m : Nat) : (markWritten s n m).agenda = s.agenda := rfl
@[simp] theorem markWritten_cur (s : State) (n m : Nat) : (markWritten s n m).cur = s.cur := rfl
@[simp] theorem markWritten_idle (s : State) (n m : Nat) : (markWritten s n m).idle = s.idle := rfl
@[simp] theorem markWritten_choices (s : State) (n m : Nat) : (markWritten s n m).choices = s.choices := rfl
@[simp] theorem markWritten_freeCount (s : State) (n m : Nat) : (markWritten s n m).freeCount = s.freeCount := rfl
@[simp] theorem markWritten_nextId (s : State) (n m : Nat) : (markWritten s n m).nextId = s.nextId := rfl
@[simp] theorem markWritten_cycle (s : State) (n m : Nat) : (markWritten s n m).cycle = s.cycle := rfl
@[simp] theorem markWritten_mem (s : State) (n m : Nat) : (markWritten s n m).mem = s.mem := rfl
@[simp] theorem markWritten_fe (s : State) (n m : Nat) : (markWritten s n m).fe = s.fe := rfl
@[simp] theorem markWritten_poison (s : State) (n m : Nat) : (markWritten s n m).poison = s.poison := rfl
@[simp] theorem markWritten_poisonSeen (s : State) (n m : Nat) : (markWritten s n m).poisonSeen = s.poisonSeen := rfl
@[simp] theorem markWritten_slots (s : State) (n m : Nat) : (markWritten s n m).slots = s.slots := rfl
@[simp] theorem markWritten_cores (s : State) (n m : Nat) : (markWritten s n m).cores = s.cores := rfl
@[simp] theorem markWritten_clusters (s : State) (n m : Nat) : (markWritten s n m).clusters = s.clusters := rfl
@[simp] theorem markWritten_dies (s : State) (n m : Nat) : (markWritten s n m).dies = s.dies := rfl
@[simp] theorem markWritten_net (s : State) (n m : Nat) : (markWritten s n m).net = s.net := rfl
@[simp] theorem markWritten_rslots (s : State) (n m : Nat) : (markWritten s n m).rslots = s.rslots := rfl
@[simp] theorem markWritten_versions (s : State) (n m : Nat) : (markWritten s n m).versions = s.versions := rfl
@[simp] theorem markWritten_readers (s : State) (n m : Nat) : (markWritten s n m).readers = s.readers := rfl
@[simp] theorem markWritten_filtered (s : State) (n m : Nat) : (markWritten s n m).filtered = s.filtered := rfl
@[simp] theorem markWritten_frontier (s : State) (n m : Nat) : (markWritten s n m).frontier = s.frontier := rfl
@[simp] theorem markWritten_objs (s : State) (n m : Nat) : (markWritten s n m).objs = s.objs := rfl
@[simp] theorem markWritten_tables (s : State) (n m : Nat) : (markWritten s n m).tables = s.tables := rfl
@[simp] theorem markWritten_launches (s : State) (n m : Nat) : (markWritten s n m).launches = s.launches := rfl
@[simp] theorem markWritten_queues (s : State) (n m : Nat) : (markWritten s n m).queues = s.queues := rfl
@[simp] theorem markWritten_ginsts (s : State) (n m : Nat) : (markWritten s n m).ginsts = s.ginsts := rfl
@[simp] theorem markWritten_saved (s : State) (n m : Nat) : (markWritten s n m).saved = s.saved := rfl
@[simp] theorem markWritten_parts (s : State) (n m : Nat) : (markWritten s n m).parts = s.parts := rfl
@[simp] theorem markWritten_ptsel (s : State) (n m : Nat) : (markWritten s n m).ptsel = s.ptsel := rfl
@[simp] theorem markWritten_keys (s : State) (n m : Nat) : (markWritten s n m).keys = s.keys := rfl
@[simp] theorem markWritten_tlb (s : State) (n m : Nat) : (markWritten s n m).tlb = s.tlb := rfl
@[simp] theorem markWritten_peers (s : State) (n m : Nat) : (markWritten s n m).peers = s.peers := rfl
@[simp] theorem markWritten_unanswered (s : State) (n m : Nat) : (markWritten s n m).unanswered = s.unanswered := rfl
@[simp] theorem markWritten_board (s : State) (n m : Nat) : (markWritten s n m).board = s.board := rfl
@[simp] theorem markWritten_slot (s : State) (n m : Nat) (k : Nat) : (markWritten s n m).slot k = s.slot k := rfl
@[simp] theorem markWritten_core (s : State) (n m : Nat) (k : Nat) : (markWritten s n m).core k = s.core k := rfl
@[simp] theorem markWritten_cluster (s : State) (n m : Nat) (k : Nat) : (markWritten s n m).cluster k = s.cluster k := rfl
@[simp] theorem markWritten_die (s : State) (n m : Nat) (k : Nat) : (markWritten s n m).die k = s.die k := rfl
@[simp] theorem markWritten_launch (s : State) (n m : Nat) (k : Nat) : (markWritten s n m).launch k = s.launch k := rfl
@[simp] theorem markWritten_ginst (s : State) (n m : Nat) (k : Nat) : (markWritten s n m).ginst k = s.ginst k := rfl
@[simp] theorem markWritten_part (s : State) (n m : Nat) (k : Nat) : (markWritten s n m).part k = s.part k := rfl
@[simp] theorem markWritten_rslot (s : State) (n m : Nat) (k : Nat) : (markWritten s n m).rslot k = s.rslot k := rfl
@[simp] theorem markWritten_table (s : State) (n m : Nat) (k : Nat) : (markWritten s n m).table k = s.table k := rfl
@[simp] theorem markWritten_queue (s : State) (n m : Nat) (k : Nat) : (markWritten s n m).queue k = s.queue k := rfl

/-! ### netPush -/

@[simp] theorem netPush_agenda (s : State) (x : NetItem) : (netPush x s).agenda = s.agenda := rfl
@[simp] theorem netPush_cur (s : State) (x : NetItem) : (netPush x s).cur = s.cur := rfl
@[simp] theorem netPush_idle (s : State) (x : NetItem) : (netPush x s).idle = s.idle := rfl
@[simp] theorem netPush_choices (s : State) (x : NetItem) : (netPush x s).choices = s.choices := rfl
@[simp] theorem netPush_freeCount (s : State) (x : NetItem) : (netPush x s).freeCount = s.freeCount := rfl
@[simp] theorem netPush_nextId (s : State) (x : NetItem) : (netPush x s).nextId = s.nextId := rfl
@[simp] theorem netPush_cycle (s : State) (x : NetItem) : (netPush x s).cycle = s.cycle := rfl
@[simp] theorem netPush_mem (s : State) (x : NetItem) : (netPush x s).mem = s.mem := rfl
@[simp] theorem netPush_fe (s : State) (x : NetItem) : (netPush x s).fe = s.fe := rfl
@[simp] theorem netPush_written (s : State) (x : NetItem) : (netPush x s).written = s.written := rfl
@[simp] theorem netPush_poison (s : State) (x : NetItem) : (netPush x s).poison = s.poison := rfl
@[simp] theorem netPush_poisonSeen (s : State) (x : NetItem) : (netPush x s).poisonSeen = s.poisonSeen := rfl
@[simp] theorem netPush_slots (s : State) (x : NetItem) : (netPush x s).slots = s.slots := rfl
@[simp] theorem netPush_cores (s : State) (x : NetItem) : (netPush x s).cores = s.cores := rfl
@[simp] theorem netPush_clusters (s : State) (x : NetItem) : (netPush x s).clusters = s.clusters := rfl
@[simp] theorem netPush_dies (s : State) (x : NetItem) : (netPush x s).dies = s.dies := rfl
@[simp] theorem netPush_rslots (s : State) (x : NetItem) : (netPush x s).rslots = s.rslots := rfl
@[simp] theorem netPush_versions (s : State) (x : NetItem) : (netPush x s).versions = s.versions := rfl
@[simp] theorem netPush_readers (s : State) (x : NetItem) : (netPush x s).readers = s.readers := rfl
@[simp] theorem netPush_filtered (s : State) (x : NetItem) : (netPush x s).filtered = s.filtered := rfl
@[simp] theorem netPush_frontier (s : State) (x : NetItem) : (netPush x s).frontier = s.frontier := rfl
@[simp] theorem netPush_objs (s : State) (x : NetItem) : (netPush x s).objs = s.objs := rfl
@[simp] theorem netPush_tables (s : State) (x : NetItem) : (netPush x s).tables = s.tables := rfl
@[simp] theorem netPush_launches (s : State) (x : NetItem) : (netPush x s).launches = s.launches := rfl
@[simp] theorem netPush_queues (s : State) (x : NetItem) : (netPush x s).queues = s.queues := rfl
@[simp] theorem netPush_ginsts (s : State) (x : NetItem) : (netPush x s).ginsts = s.ginsts := rfl
@[simp] theorem netPush_saved (s : State) (x : NetItem) : (netPush x s).saved = s.saved := rfl
@[simp] theorem netPush_parts (s : State) (x : NetItem) : (netPush x s).parts = s.parts := rfl
@[simp] theorem netPush_ptsel (s : State) (x : NetItem) : (netPush x s).ptsel = s.ptsel := rfl
@[simp] theorem netPush_keys (s : State) (x : NetItem) : (netPush x s).keys = s.keys := rfl
@[simp] theorem netPush_tlb (s : State) (x : NetItem) : (netPush x s).tlb = s.tlb := rfl
@[simp] theorem netPush_peers (s : State) (x : NetItem) : (netPush x s).peers = s.peers := rfl
@[simp] theorem netPush_unanswered (s : State) (x : NetItem) : (netPush x s).unanswered = s.unanswered := rfl
@[simp] theorem netPush_board (s : State) (x : NetItem) : (netPush x s).board = s.board := rfl
@[simp] theorem netPush_slot (s : State) (x : NetItem) (k : Nat) : (netPush x s).slot k = s.slot k := rfl
@[simp] theorem netPush_core (s : State) (x : NetItem) (k : Nat) : (netPush x s).core k = s.core k := rfl
@[simp] theorem netPush_cluster (s : State) (x : NetItem) (k : Nat) : (netPush x s).cluster k = s.cluster k := rfl
@[simp] theorem netPush_die (s : State) (x : NetItem) (k : Nat) : (netPush x s).die k = s.die k := rfl
@[simp] theorem netPush_launch (s : State) (x : NetItem) (k : Nat) : (netPush x s).launch k = s.launch k := rfl
@[simp] theorem netPush_ginst (s : State) (x : NetItem) (k : Nat) : (netPush x s).ginst k = s.ginst k := rfl
@[simp] theorem netPush_part (s : State) (x : NetItem) (k : Nat) : (netPush x s).part k = s.part k := rfl
@[simp] theorem netPush_rslot (s : State) (x : NetItem) (k : Nat) : (netPush x s).rslot k = s.rslot k := rfl
@[simp] theorem netPush_table (s : State) (x : NetItem) (k : Nat) : (netPush x s).table k = s.table k := rfl
@[simp] theorem netPush_queue (s : State) (x : NetItem) (k : Nat) : (netPush x s).queue k = s.queue k := rfl

@[simp] theorem tick_cycle (s : State) : (tick s).cycle = s.cycle + 1 := rfl

end Sys2Proof.Machine
end

