-- ==== Sys2Proof/Laws/Issue.lean ====
section
/-! SUPPORT. What the issue of an instruction and an event of a unit can do, said once. -/

namespace Sys2Proof.Machine

variable {opc : Nat} {e : Enc} {body : Nat → Act Flow} {s s' : State}

/-- A ready instruction whose effect can be done completes. -/
theorem issue_completes {flow : Flow} (h : ready opc e s) (hb : body s.cur s = .ok (flow, s')) :
    issue opc e body s = .next (completed e s.cur flow s') := by
  obtain ⟨h1, h2, h3, h4, h5, h6⟩ := h
  simp [issue, issueState, h1, h2, h3, h4, h5, h6, hb, conclude]

/-- A ready instruction that must wait leaves the state as `notReady` says. -/
theorem issue_waits (h : ready opc e s) (hb : body s.cur s = .error (.wait none)) :
    issue opc e body s = .next (notReady e s.cur s) := by
  obtain ⟨h1, h2, h3, h4, h5, h6⟩ := h
  simp [issue, issueState, h1, h2, h3, h4, h5, h6, hb, conclude]

/-- A ready instruction that must wait and whose issue left something. -/
theorem issue_posts (h : ready opc e s) (hb : body s.cur s = .error (.wait (some s'))) :
    issue opc e body s = .next { notReady e s.cur s' with idle := false } := by
  obtain ⟨h1, h2, h3, h4, h5, h6⟩ := h
  simp [issue, issueState, h1, h2, h3, h4, h5, h6, hb, conclude]

/-- A ready instruction that faults has no effect of its own, and the fault is taken. -/
theorem issue_faults {c : Nat} {d : Word} {q : Option Nat} (h : ready opc e s) (hb : body s.cur s = .error (.fault c d q)) :
    issue opc e body s = .next (faulted s.cur c d q s) := by
  obtain ⟨h1, h2, h3, h4, h5, h6⟩ := h
  simp [issue, issueState, h1, h2, h3, h4, h5, h6, hb, conclude]

/-- Every issue gives a next state: the only way a step stops is the fetch. -/
theorem issue_next : ∃ t, issue opc e body s = .next t := ⟨_, rfl⟩

/-- An enabled event has its effect. -/
theorem event_enabled {f : State → Option State} (hf : s.board.fatal = false) (h : f s = some s') :
    event f s = .next (tick { s' with idle := false }) := by
  simp [event, boardEvent, hf, h]

/-- An event that is not enabled changes nothing but the clock. -/
theorem event_disabled {f : State → Option State} (h : f s = none) : event f s = .next (tick { s with idle := true }) := by
  cases hf : s.board.fatal <;> simp [event, boardEvent, hf, h]

theorem boardEvent_enabled {f : State → Option State} (h : f s = some s') : boardEvent f s = .next (tick { s' with idle := false }) := by
  simp [boardEvent, h]

/-- Every event gives a next state. -/
theorem event_next {f : State → Option State} : ∃ t, event f s = .next t := by
  unfold event boardEvent
  split <;> exact ⟨_, rfl⟩

/-! ### Actions -/

@[simp] theorem act_pure {α : Type} (a : α) (s : State) : (pure a : Act α) s = .ok (a, s) := rfl

@[simp] theorem act_bind_ok {α β : Type} {m : Act α} {f : α → Act β} {a : α} (h : m s = .ok (a, s')) : (m >>= f) s = f a s' := by
  show (m s >>= fun x => f x.1 x.2) = _
  rw [h]; rfl

theorem act_bind_error {α β : Type} {m : Act α} {f : α → Act β} {x : Stop} (h : m s = .error x) : (m >>= f) s = .error x := by
  show (m s >>= fun x => f x.1 x.2) = _
  rw [h]; rfl

/-- A sequence, unfolded. -/
theorem act_bind {α β : Type} (m : Act α) (f : α → Act β) (s : State) :
    (m >>= f) s = match m s with | .ok x => f x.1 x.2 | .error x => .error x := by
  show (m s >>= fun x => f x.1 x.2) = _
  cases m s <;> rfl

/-- A sequence that succeeds: both parts do. -/
theorem act_bind_inv {α β : Type} {m : Act α} {f : α → Act β} {b : β} (h : (m >>= f) s = .ok (b, s')) :
    ∃ a s1, m s = .ok (a, s1) ∧ f a s1 = .ok (b, s') := by
  change (m s >>= fun x => f x.1 x.2) = _ at h
  cases hm : m s with
  | error x => rw [hm] at h; cases h
  | ok x => rw [hm] at h; exact ⟨x.1, x.2, rfl, h⟩

@[simp] theorem act_look {α : Type} (f : State → α) (s : State) : Act.look f s = .ok (f s, s) := rfl
@[simp] theorem act_upd (f : State → State) (s : State) : Act.upd f s = .ok ((), f s) := rfl
@[simp] theorem act_slot (p : Nat) (s : State) : Act.slot p s = .ok (s.slot p, s) := rfl
@[simp] theorem act_modSlot (p : Nat) (f : Slot → Slot) (s : State) : Act.modSlot p f s = .ok ((), s.modSlot p f) := rfl
@[simp] theorem act_require_true (c : Nat) (s : State) : Act.require true c s = .ok ((), s) := rfl
@[simp] theorem act_require_false (c : Nat) (s : State) : Act.require false c s = .error (.fault c 0 none) := rfl
@[simp] theorem act_ready_true (s : State) : Act.ready true s = .ok ((), s) := rfl
@[simp] theorem act_ready_false (s : State) : Act.ready false s = .error (.wait none) := rfl
@[simp] theorem act_block {α : Type} (s : State) : (Act.block : Act α) s = .error (.wait none) := rfl

/-- The channel check passes exactly when the channels are bound and ready. -/
theorem operandsBound_ok (h : bound e s) : operandsBound s.cur e s = .ok ((), s) := by
  have hc : chanCheck s.cur [e.a, e.b, e.c, e.e] [e.d] s = .ok ((), s) := by
    simp only [chanCheck, act_bind_ok (act_slot _ _), h.1, act_require_true]
  rw [operandsBound, operandsWide, act_bind_ok hc, act_bind_ok (act_look _ _)]
  simp only [id, h.2, act_ready_true]

end Sys2Proof.Machine
end

