-- ==== Sys2Proof/Tests/Slice0.lean ====
section
/-! SUPPORT. Tests: ill-formed instructions are refused, words written out from the manual's encodings decode to what they stand for, instructions give
the manual's results on small states, and the hypotheses of every statement are met somewhere. Names: `test_` for a result, `wit_` for a witness. -/

namespace Sys2Proof.Tests

set_option Elab.async false

open Sys2Proof.Machine

/-! ### Small states -/

/-- No operand, no guard, no wait. -/
def e0 : Enc := { yield := false, wait := 15, hint := 0, typ := 0, var := 0, e := .none, c := .none, b := .none, a := .none, d := .none
                  gb := ⟨false, 0⟩, ga := ⟨false, 0⟩, live := none, ext := .none }
/-- D = x8, A = x9, B = x10. -/
def eR : Enc := { e0 with d := .reg 8, a := .reg 9, b := .reg 10 }
/-- An act in slot 0 of core 0 with every feature. -/
def t0 : Slot := { st := .active, act := 1, launch := some 0, feat := 0xFF, pc := 0x100000000000 }
/-- A device with that act, of launch 0 of partition 0, whose cluster permits everything. -/
def s0 : State := { State.reset with
  cur := 0, slots := [(0, t0)], launches := [(0, { st := .running })], ginsts := [(0, { cores := [(0, 0)], ncores := 1 })]
  clusters := [(0, { clperm := 0xFFFFFFFF })] }
/-- The same with x9 = a, x10 = b, x11 = c. -/
def sx (a b c : Word) : State := s0.setSlot 0 { t0 with win := [(1, a), (2, b), (3, c)] }
/-- The same with a slot of another kind. -/
def sw (f : Slot → Slot) : State := s0.setSlot 0 (f t0)
/-- A control core's slot at M. -/
def sm : State := { State.reset with cur := 0x8000, slots := [(0x8000, { st := .active, act := 1, feat := 7, pc := 0x100000000000 })] }
/-- The state after an instruction or event; reset where it does not complete. -/
def run (i : Instr) (s : State) : State := match exec i s with | .next t => t | _ => State.reset
/-- The act's slot after an instruction. -/
def ran (i : Instr) (s : State) : Slot := (run i s).slot s.cur
/-- The cause the act's launch ended with, after an instruction. -/
def ended (i : Instr) (s : State) : Option Nat := ((run i s).launch 0).fault.map (fun f => f.cause)

/-- Every unprivileged instruction is ready somewhere, and every privileged one. -/
theorem wit_ready : ∀ opc : Fin 0xEA, ready opc e0 s0 := by unfold ready; decide +kernel

/-! ### Ill-formed instructions, one for each check of R81 -/

theorem test_wf_add : (Instr.add eR).wf = true := by decide
/-- Check 5: `mulh` takes no immediate (R113). -/
theorem test_wf_length : (Instr.mulh { eR with b := .none, ext := .imm32 1 }).wf = false := by decide
/-- Check 6: SP on `endact` (R75). -/
theorem test_wf_safe_point : (Instr.endact { e0 with live := some 0 }).wf = false := by decide
/-- Check 6: bits [1:0] of a mask word (R75). -/
theorem test_wf_mask : (Instr.add { eR with live := some 1 }).wf = false := by decide
/-- Check 7: a VAR without a row (R67). -/
theorem test_wf_var : (Instr.add { eR with var := 2 }).wf = false := by decide
/-- Check 7: a TYP that is not accepted (R38, R113). -/
theorem test_wf_typ : (Instr.add { eR with typ := 0xD }).wf = false := by decide
/-- Check 7: HINT on an instruction that takes none (R68). -/
theorem test_wf_hint : (Instr.add { eR with hint := 1 }).wf = false := by decide
/-- Check 7: reserved bits of a structured extension (R73, R123). -/
theorem test_wf_extension : (Instr.crd { e0 with d := .reg 8, ext := .imm32 6 }).wf = false := by decide
/-- Check 8: a channel as a destination where none may stand (R113). -/
theorem test_wf_class : (Instr.add { eR with d := .chan 0 }).wf = false := by decide
/-- Check 8: an unused field that does not hold 63 (R70). -/
theorem test_wf_unused : (Instr.add { eR with c := .reg 0 }).wf = false := by decide
/-- Check 8: the field an immediate replaces (R74). -/
theorem test_wf_replaced : (Instr.add { eR with ext := .imm32 1 }).wf = false := by decide
/-- Check 8: predicates end at p7 (R70). -/
theorem test_wf_predicate : (Instr.cmp { eR with d := .reg 8 }).wf = false := by decide
/-- Check 8: a quadruple of vectors begins at a multiple of 4 (R133). -/
theorem test_wf_quadruple : (Instr.send { e0 with a := .reg 6 }).wf = false := by decide
/-- Check 8: one stream as source and destination (R72). -/
theorem test_wf_stream : (Instr.vadd { e0 with d := .strm 1, a := .strm 1, b := .reg 2 }).wf = false := by decide
/-- An event has no words and is well formed. -/
theorem test_wf_event : (Instr.deviceReset).wf = true := by decide

/-! ### Words of the manual, bit by bit -/

/-- A base word from its fields, as R64 lays them out: SCH, HINT, TYP, VAR, E, C, B, A, D, GB, GA, OPC, SP, LEN. -/
def word (sch hint typ var e c b a d gb ga opc sp len : Nat) : Nat :=
  sch * 2 ^ 59 + hint * 2 ^ 57 + typ * 2 ^ 53 + var * 2 ^ 49 + e * 2 ^ 43 + c * 2 ^ 37 + b * 2 ^ 31 + a * 2 ^ 25 + d * 2 ^ 19 + gb * 2 ^ 15 + ga * 2 ^ 11 + opc * 2 ^ 3 + sp * 2 ^ 2 + len

/-- The words R64, R113, R145 and others print are what the fields give. -/
theorem test_words_of_fields :
    word 15 0 3 0 63 63 10 8 9 0b1101 0b0011 0x02 0 1 = 0x7861FFE5104E9811 ∧ word 15 0 13 0 63 11 10 9 8 0 0 0x84 0 1 = 0x79A1F96512400421 ∧
    word 15 0 0 0 63 63 63 63 63 0 0 0x22 0 3 = 0x7801FFFFFFF80113 ∧ word 15 0 0 1 20 0 12 1 0 0 0 0xC6 0 1 = 0x7802A00602000631 := by decide

/-- `call fn, 8` with `fn` 0x40 bytes on (R121). -/
theorem test_decode_call : decodeTableWord 128 0x0000000200000040_7801FFFFFFF80113 = some (.call { e0 with ext := .imm64 0x0000000200000040 }) := by decide +kernel
/-- `stfe x20, mx, v10` in its 96-bit form (spec/13_program_softmax.md). -/
theorem test_decode_stfe : decodeTableWord 96 0x00000000_7801F95FA9F80322 = some (.stfe { e0 with a := .reg 20, c := .reg 10, ext := .imm32 0 }) := by decide +kernel
/-- `vshuf` in its 96-bit form (spec/14_program_diamond.md). -/
theorem test_decode_vshuf : decodeTableWord 96 0x00000480_7841FFE41050051A = some (.vshuf { e0 with typ := 2, a := .reg 8, b := .reg 8, d := .reg 10, ext := .imm32 0x480 }) := by decide +kernel
/-- `cst.stage x0, x1, x12, x0, x20` (spec/14_program_diamond.md). -/
theorem test_decode_cst_stage : decodeTableWord 64 0x7802A00602000631 =
    some (.cstStage { e0 with var := 1, e := .reg 20, c := .reg 0, b := .reg 12, a := .reg 1, d := .reg 0 }) := by decide +kernel
/-- `draw.solo x15, x5, x13, x14, x3` (spec/15_program_grammar_mask.md). -/
theorem test_decode_draw : decodeTableWord 64 0x780019C68A780569 = some (.drawSolo { e0 with e := .reg 3, c := .reg 14, b := .reg 13, a := .reg 5, d := .reg 15 }) := by decide +kernel
/-- `jcfg.set x8, x12, x13` (R312). -/
theorem test_decode_jcfg : decodeTableWord 64 0x7801FFE698400731 = some (.jcfgSet { e0 with b := .reg 13, a := .reg 12, d := .reg 8 }) := by decide +kernel
/-- `rbeg x8, 0x50001` in its 128-bit form (R287). -/
theorem test_decode_rbeg : decodeTableWord 128 0x0000000000050001_7801FFFFFE400703 = some (.rbeg { e0 with d := .reg 8, ext := .imm64 0x50001 }) := by decide +kernel
/-- `rend` (R287). -/
theorem test_decode_rend : decodeTableWord 64 0x7801FFFFFFF80709 = some (.rend e0) := by decide +kernel
/-- `bit.ext x21, x20, 0x22A` in its 96-bit form (spec/16_program_forwarding.md). -/
theorem test_decode_bit : decodeTableWord 96 0x0000022A_7801FFFFA8A8008A = some (.bit { e0 with d := .reg 21, a := .reg 20, ext := .imm32 0x22A }) := by decide +kernel
/-- `add` with its B field 44, a reserved specifier (R70), and with VAR 0b0010 (R67), is refused. -/
theorem test_decode_refuses : decodeTableWord 64 (word 15 0 3 0 63 63 44 8 9 0 0 0x02 0 1) = none ∧ decodeTableWord 64 (word 15 0 3 2 63 63 10 8 9 0 0 0x02 0 1) = none ∧
    decodeTableWord 64 (word 15 0 0 0 63 63 63 63 63 0 0 0xFF 0 1) = none ∧ decodeTableWord 64 (word 15 0 0 0 63 63 63 63 63 0 0 0x25 0 0) = none := by decide +kernel

/-- An action that can be done now, with that result and state. -/
def gives {α : Type} [DecidableEq α] (r : Except Stop (α × State)) (a : α) (t : State) : Bool := match r with | .ok (x, u) => decide (x = a) && decide (u = t) | .error _ => false
theorem of_gives {α : Type} [DecidableEq α] {r : Except Stop (α × State)} {a : α} {t : State} (h : gives r a t = true) : r = .ok (a, t) := by
  cases r with
  | ok x => simp only [gives, Bool.and_eq_true, decide_eq_true_eq] at h; rw [← h.1, ← h.2]
  | error _ => cases h
theorem of_reads {e : Enc} {s t u : State} {a b : Word} (h : gives (readX s.cur e.a s) a t = true) (k : gives (readB s.cur e t) b u = true) : reads e s a b u :=
  ⟨t, of_gives h, of_gives k⟩

/-- An action that can be done now. -/
def done {α : Type} (r : Except Stop (α × State)) : Bool := match r with | .ok _ => true | .error _ => false
theorem of_done {r : Except Stop (Unit × State)} (h : done r = true) : ∃ t, r = .ok ((), t) := by
  cases r with
  | ok a => exact ⟨a.2, rfl⟩
  | error _ => cases h

/-- An action that answers a value; the state it leaves. -/
def answers {α : Type} [DecidableEq α] (r : Except Stop (α × State)) (a : α) : Bool := match r with | .ok (x, _) => decide (x = a) | .error _ => false
def after {α : Type} (r : Act α) (s : State) : State := match r s with | .ok (_, t) => t | .error _ => s

/-! ### The premises of the statements, met: operands and class 0 -/

/-- A slot whose q0 receives and holds one entry, and whose q1 sends to its own core. -/
def sq : State := sw (fun t => (t.setChan 0 { kind := .input, tag := 3, entries := [5] }).setChan 1 { kind := .output, tag := 3, route := 3 })

/-- CompletionFrame: the two kinds of flow, with and without a safe point. -/
theorem wit_CompletionFrame : (.settled : Flow) ≠ .next ∧ ∃ m, ({ e0 with live := some 0xFC } : Enc).live = some m ∧ e0.live = none := ⟨by decide, _, rfl, rfl⟩
/-- NextPc has no premise; the two cases of its sum. -/
theorem test_next_pc : nextOf e0 16 = 24 ∧ nextOf e0 20 = 32 ∧ nextOf { e0 with ext := .imm64 0, live := some 4 } 0 = 24 ∧ nextOf e0 (2 ^ 64 - 8) = 0 := by decide +kernel
/-- ScalarSources: an entry at the head, an empty channel, an unbound one, and both extensions. -/
theorem wit_ScalarSources : ((sq.slot 0).chan 0).entries = [5] ∧ ((sq.slot 0).chan 0).kind = .input ∧
    ((sw (fun t => t.setChan 0 { kind := .input })).slot 0 |>.chan 0).entries = [] ∧ ((s0.slot 0).chan 0).kind ≠ .input ∧
    ({ e0 with ext := .imm32 7 } : Enc).ext = .imm32 7 ∧ e0.ext = .none := by decide +kernel
/-- ScalarDestinations: x0 and another, and each case of a channel. -/
theorem wit_ScalarDestinations : ((s0.slot 0).chan 2).kind = .unbound ∧ ((sq.slot 0).chan 0).kind = .input ∧ chanCount sq 0 0 < 8 ∧
    ¬ chanCount (sw (fun t => t.setChan 0 { kind := .input, entries := List.replicate 8 0 })) 0 0 < 8 ∧ ((sq.slot 0).chan 1).kind = .output ∧
    permitsCore sq 0 0 = true ∧ permitsCore { sq with clusters := [] } 0 128 = false ∧ outbound sq 0 < 4 ∧
    ¬ outbound { sq with net := List.replicate 4 { kind := .command, isMessage := true, src := 0, launch := 0, ginst := 0, dst := 0, vcore := 0 } } 0 < 4 := by decide +kernel
/-- Predicates and VectorOperands. -/
theorem wit_Predicates : (3 : Fin 32).val < 8 ∧ (3 : Fin 32) ≠ 0 := by decide
theorem wit_VectorOperands : ((sq.slot 0).chan 0).kind = .input ∧ ((sq.slot 0).chan 0).entries = [5] ∧ chanCount sq 0 0 < 8 := by decide +kernel
/-- ScalarArithmeticCompletes, for each stem: a division by zero with `.sat`. -/
theorem wit_ScalarArithmeticCompletes : ∀ k : Arith, ready (arithRow k).2 { eR with var := 1 } (sx 5 0 0) ∧ bound { eR with var := 1 } (sx 5 0 0) ∧
    reads { eR with var := 1 } (sx 5 0 0) 5 0 (sx 5 0 0) ∧ ∃ t, writeX 0 (.reg 8) 5 (raiseFlags 0 Fl.dz (sx 5 0 0)) = .ok ((), t) := by
  intro k; refine ⟨?_, by unfold bound; decide +kernel, of_reads (t := sx 5 0 0) (by decide +kernel) (by decide +kernel), of_done (by decide +kernel)⟩
  cases k <;> (unfold ready; decide +kernel)
theorem wit_ScalarLogicCompletes : ∀ k : Logic, ready (logicRow k).2 eR (sx 5 3 0) ∧ bound eR (sx 5 3 0) ∧ reads eR (sx 5 3 0) 5 3 (sx 5 3 0) ∧
    ∃ t, writeX 0 (.reg 8) 1 (sx 5 3 0) = .ok ((), t) := by
  intro k; refine ⟨?_, by unfold bound; decide +kernel, of_reads (t := sx 5 3 0) (by decide +kernel) (by decide +kernel), of_done (by decide +kernel)⟩
  cases k <;> (unfold ready; decide +kernel)
/-- ScalarMovesComplete: `li`, `cmp`, `sel`, `lea` with no A, `bit`. -/
theorem wit_ScalarMovesComplete : ready 0x01 { e0 with d := .reg 8, ext := .imm32 7 } s0 ∧ done (writeX 0 (.reg 8) 7 s0) ∧
    ready 0x0E { eR with d := .reg 1 } (sx 1 2 0) ∧ done (writeP 0 (.reg 1) true (sx 1 2 0)) ∧
    ready 0x0F { eR with c := .reg 1 } (sx 1 2 0) ∧ gives (readP 0 (.reg 1) (sx 1 2 0)) false (sx 1 2 0) ∧
    ready 0x10 { eR with a := .none } (sx 1 2 0) ∧ gives (readB 0 { eR with a := .none } (sx 1 2 0)) 2 (sx 1 2 0) ∧
    ready 0x11 { eR with c := .reg 11 } (sx 1 2 3) ∧ gives (readX 0 (.reg 11) (sx 1 2 3)) 3 (sx 1 2 3) := by unfold ready; decide +kernel
theorem test_bit_fields : bitOp 0 0xABCD 0x0804 0 = 0xBC ∧ bitOp 1 0xABCD 0x0804 0 = 0xFFFFFFFFFFFFFFBC ∧ bitOp 2 0xF 0x0404 0 = 0xF0 := by decide +kernel

/-! ### Class 1 -/

/-- A jump 64 bytes on, if x9 = 0; a loop over x9. -/
def eBr : Enc := { eR with var := 1, b := .none, d := .none, ext := .imm32 0x40 }
def eLoop : Enc := { e0 with d := .reg 9, ext := .imm32 0x40 }
/-- ControlTransfer: a target that obeys R61 and one that does not; a loop count of 0, 1 and 2. -/
theorem wit_ControlTransfer : ready 0x20 eBr (sx 0 0 0) ∧ gives (readX 0 eBr.a (sx 0 0 0)) 0 (sx 0 0 0) ∧ targetOk (sx 0 0 0) (pcOf (sx 0 0 0) + 0x40) ∧
    ¬ targetOk (sx 0 0 0) (pcOf (sx 0 0 0) + 0x1C) ∧ ready 0x24 eLoop (sx 2 0 0) ∧ ((sx 2 0 0).slot 0).x 9 = 2 ∧ ((sx 1 0 0).slot 0).x 9 = 1 ∧
    ((sx 0 0 0).slot 0).x 9 = 0 ∧ ready 0x21 eR (sx 0x40 0 0) ∧ targetOk (sx 0x40 0 0) 0x40 ∧ ¬ targetOk (sx 0 0 0) 2 := by
  unfold ready targetOk; decide +kernel
/-- `call` with F = 8, 64 bytes on. -/
def eCall : Enc := { e0 with ext := .imm64 0x0000000200000040 }
/-- A slot with n call records. -/
def sf (n : Nat) : State := sw (fun t => { t with frames := List.replicate n { link := 0x100000000040, callee := 8, caller := 0 }, offs := 8 * min n 21, frame := 8 })
theorem wit_CallPushesFrame : ready 0x22 eCall (sf 1) ∧ (BitVec.extractLsb' 32 3 (0x0000000200000040 : Word)).toNat ≤ 6 ∧ targetOk (sf 1) (pcOf (sf 1) + 0x40) ∧
    ((sf 1).slot 0).frames.length ≠ 32 ∧ 24 + ((sf 20).slot 0).offs + 8 ≤ 192 ∧ ((sf 32).slot 0).frames.length = 32 ∧ 192 < 24 + ((sf 21).slot 0).offs + 8 := by
  unfold ready targetOk; decide +kernel
/-- An act in a region of its own, begun at call depth 1. -/
def sr : State := { sf 1 with slots := [(0, { (sf 1).slot 0 with region := some 0 })], rslots := [(0, { st := .open_, act := 1, callDepth := 1 })] }
theorem wit_RetPopsFrame : ready 0x23 e0 (sf 1) ∧ ((sf 0).slot 0).frames = [] ∧ liveRegion (sf 1) ((sf 1).slot 0) = none ∧
    targetOk (sf 1) (BitVec.ofNat 64 0x100000000040) := by unfold ready targetOk; decide +kernel

/-- A run that completes (a trap or a wait is no completion). -/
def completes (i : Instr) (s : State) : Bool := ended i s == none && ((run i s).slot s.cur).pc != (s.slot s.cur).pc && !(run i s).idle
/-- EndactEndsAct: an act with no region, with a view, and one with a region of its own. -/
theorem wit_EndactEndsAct : ready 0x25 e0 s0 ∧ liveRegion s0 (s0.slot 0) = none ∧ ready 0x25 e0 sr ∧ (sr.slot 0).formula = none ∧ liveRegion sr (sr.slot 0) ≠ none ∧
    ((s0.slot 0).launch = none ∨ (s0.ginst (s0.slot 0).ginst).parkReq = false) := by unfold ready; decide +kernel
/-- WaitingInstructions: a wait not begun, one whose cycle has come and one whose has not; replies below and above the bound. -/
theorem wit_WaitingInstructions : ready 0x26 e0 s0 ∧ ready 0x27 eR (sx 7 0 0) ∧ bound eR (sx 7 0 0) ∧ gives (peekX 0 eR.a (sx 7 0 0)) 7 (sx 7 0 0) ∧
    gives (readX 0 eR.a (sx 7 0 0)) 7 (sx 7 0 0) ∧ (∀ c : Fin 2, ((sx 7 0 0).slot 0).wait ≠ .until c) ∧ ((sw (fun t => { t with wait := .until 0 })).slot 0).wait = .until 0 ∧
    ready 0x27 eR (sw (fun t => { t with wait := .until 9 })) ∧ (sw (fun t => { t with wait := .until 9 })).cycle < 9 ∧
    ready 0x27 eR (sw (fun t => { t with replies := 1 })) ∧ (0 : Word).toNat < ((sw (fun t => { t with replies := 1 })).slot 0).replies := by
  unfold ready bound; decide +kernel
theorem wit_Traps : ready 0x28 { e0 with ext := .imm32 9 } s0 := by unfold ready; decide +kernel
theorem wit_ControlRegisters : ready 0x29 { e0 with d := .reg 8, ext := .imm32 5 } s0 ∧ done (writeX 0 (.reg 8) (specCrd s0 5) s0) ∧
    ready 0x2A { eR with b := .none, d := .none, var := 1, ext := .imm32 2 } (sx 0xFFFF 0 0) ∧
    bound { eR with b := .none, d := .none, var := 1, ext := .imm32 2 } (sx 0xFFFF 0 0) ∧ gives (readX 0 (.reg 9) (sx 0xFFFF 0 0)) 0xFFFF (sx 0xFFFF 0 0) := by
  unfold ready bound; decide +kernel

/-! ### Class 2 -/

/-- Core 0 holds tag 0 of the act's launch. -/
def stag : State := (sx 0 0 0).modCore 0 (fun c => { c with tags := [{ ginst := 0, tag := 0, launch := 0 }] })
theorem wit_RouteTags : ready 0x4B eR stag ∧ tagOf stag 0 0 1 = none ∧ (∀ m : Fin 1, tagOf stag 0 0 m ≠ none) ∧ (stag.core 0).tags.length < 1024 ∧
    ownsTag stag 0 0 = true ∧ ownsTag stag 0 1 = false ∧ gives (readX 0 (.reg 9) stag) 0 stag ∧
    1024 ≤ ((s0.modCore 0 (fun c => { c with tags := List.replicate 1024 { ginst := 1, tag := 0, launch := 0 } })).core 0).tags.length := by
  unfold ready; decide +kernel
/-- `qbind.in q0` of the tag its immediate names; `qbind` of the word in x9. -/
def eBind : Enc := { e0 with d := .chan 0, ext := .imm32 0 }
def eBindR : Enc := { e0 with d := .chan 0, a := .reg 9, b := .reg 10 }
theorem wit_bindsWord : bindsWord eBind s0 0 ∧ bindsWord eBindR (sx 0x20000 0 0) 0x20000 := by
  refine ⟨⟨fun _ => by decide +kernel, fun n h => by simp [eBind, e0] at h, .inl (by decide)⟩, ⟨fun h => by simp [eBindR] at h, fun n h => ?_, .inr ⟨9, by decide⟩⟩⟩
  have : n = 9 := by simpa [eBindR] using h.symm
  subst this; decide +kernel
theorem wit_ChannelBindings : ready 0x40 eBind stag ∧ ((stag.slot 0).chan 0).kind = .unbound ∧ ownsTag stag 0 0 = true ∧ boundAt stag 0 0 0 = none ∧
    ownsTag s0 0 0 = false ∧ ((sq.slot 0).chan 0).kind ≠ .unbound ∧ coreOfV s0 0 0 ≠ none ∧ coreOfV s0 0 2 = none ∧ gives (readX 0 (.reg 10) (sx 0 1 0)) 1 (sx 0 1 0) ∧
    isCtl 0 = false ∧ isCtl sm.cur = true ∧ ready 0x40 { eBind with d := .chan 7, var := 3 } sm := by unfold ready; decide +kernel
theorem wit_ChannelInstructions : ready 0x41 { e0 with d := .chan 1, a := .reg 9 } sq ∧ bound { e0 with d := .chan 1, a := .reg 9 } sq ∧
    done (chanPut 0 1 7 sq) ∧ done (chanHead 0 0 true sq) ∧ ready 0x42 { e0 with d := .reg 8, a := .chan 0 } sq ∧ bound { e0 with d := .reg 8, a := .chan 0 } sq ∧
    ready 0x43 { e0 with d := .reg 8, a := .chan 0 } sq ∧ done (writeV 0 (.reg 8) 5 sq) ∧ ready 0x44 { e0 with d := .reg 8, a := .chan 0 } sq := by
  unfold ready bound; decide +kernel
/-- A descriptor of one dimension: four f32 from address 0x100 (R130): FMT 0x0D, NDIM 1, EXTENT 4, STRIDE 4. -/
def descBytes : List Byte := [0, 1, 0, 0, 0, 0, 0, 0, 0x0D, 1] ++ List.replicate 6 0 ++ [4, 0, 0, 0] ++ List.replicate 16 0 ++ [4, 0, 0, 0] ++ List.replicate 16 0 ++ List.replicate 8 0
def sStrm : State := sw (fun t => t.setStrm 1 { valid := true, desc := descBytes, idx := [0, 0, 0, 0, 0] })
def sDesc : State := { sx 0x400 0 0 with mem := Memory.writeN [] (spadLoc 0 0x400) descBytes }
theorem wit_StreamRegisters : ready 0x45 { e0 with d := .strm 1, a := .reg 9 } sDesc ∧ gives (readX 0 (.reg 9) sDesc) 0x400 sDesc ∧ sdescOk descBytes = true ∧
    gives (loadBytes 0 0x400 64 sDesc) descBytes sDesc ∧ sdescOk (List.replicate 64 0) = false ∧ (0x410 : Word).toNat % 64 ≠ 0 ∧
    ready 0x46 { e0 with d := .strm 1, ext := .imm32 2 } sStrm ∧ ready 0x46 { e0 with d := .strm 1, a := .reg 9 } sStrm := by unfold ready; decide +kernel
theorem wit_StreamOperands : ((s0.slot 0).strm 1).valid = false ∧ ((sStrm.slot 0).strm 1).valid = true ∧
    (SDesc.ofBytes descBytes).total ≤ (SDesc.ofBytes descBytes).position [4, 0, 0, 0, 0] ∧ done (readV 0 (.strm 1) sStrm) := by decide +kernel
/-- The vector of four 32-bit lanes, the first lowest. -/
def v4 (a b c d : BitVec 32) : Vec := d ++ c ++ b ++ a
/-- A slot whose v8 to v11 hold a message with that header. -/
def smsg (h : BitVec 64) : State := sw (fun t => { t with v := [(8, (0 : BitVec 64) ++ h)] })
theorem wit_SendCommand : ready 0x47 { e0 with a := .reg 8 } (smsg 2) ∧ headerOk (msgBytes ((smsg 2).slot 0) 8) = true ∧ headerOk (msgBytes ((smsg 6).slot 0) 8) = false ∧
    msgReply (msgBytes ((smsg 0x100000002).slot 0) 8) = true ∧ headerOk (msgBytes ((smsg 0x100000002).slot 0) 8) = true ∧ ownsTag (smsg 2) 0 0 = false ∧
    targetPermitted (smsg 2) 0 (msgBytes ((smsg 2).slot 0) 8) = true ∧ targetPermitted { smsg 2 with clusters := [] } 0 (msgBytes ((smsg 2).slot 0) 8) = false ∧
    msgTgt (msgBytes ((smsg 2).slot 0) 8) = 2 ∧ outbound (smsg 2) 0 < 4 ∧
    ¬ outbound { smsg 2 with net := List.replicate 4 { kind := .command, isMessage := true, src := 0, launch := 0, ginst := 0, dst := 0, vcore := 0 } } 0 < 4 := by
  unfold ready; decide +kernel
theorem wit_SendCode : let b := msgBytes ((smsg 0xFFFF0000).slot 0) 8
    ready 0x48 { e0 with a := .reg 8 } (smsg 0xFFFF0000) ∧ fieldAt b 0 2 = 0 ∧ fieldAt b 2 2 = 0xFFFF ∧ fieldAt b 4 4 = 0 ∧ fieldAt b 8 2 = 0 ∧ fieldAt b 8 8 / 2 ^ 37 = 0 ∧
    coreOfV s0 0 (fieldAt b 8 8 / 2 ^ 16 % 2 ^ 21) ≠ none ∧ permitsCore (smsg 0xFFFF0000) 0 0 = true ∧ outbound (smsg 0xFFFF0000) 0 < 4 := by
  unfold ready; decide +kernel
/-- A request of slot 1 for x9 of slot 0. -/
def rem0 : Remote := { from_ := 1, act := 2, since := 0, put := false, target := 0, spec := 9, value := 0, timeout := 16 }
/-- The answer of a remote access has come, and it has not. -/
def sRem : State := sw (fun t => { t with wait := .remoteDone 0 5 })
theorem wit_RemoteAccess : ready 0x49 eR sRem ∧ gives (readX 0 eR.a sRem) 0 sRem ∧ (sRem.slot 0).wait = .remoteDone 0 5 ∧ done (writeX 0 (.reg 8) 5 sRem) ∧
    done (writeP 0 (.reg 1) true sRem) ∧ ready 0x4A eR sRem ∧ (s0.slot 0).wait = .none ∧ ready 0x49 eR (sx 1 0 0) ∧ coreOfV (sx 1 0 0) 0 0 ≠ none ∧ (1 : Word).toNat % 2 ^ 16 < 4 ∧
    ((sx 1 0 0).core 0).remote.length < 4 ∧ ¬ (4 : Word).toNat % 2 ^ 16 < 4 ∧ destOf (sx 1 0 0) 0 0 = some 0 ∧ 0 < farBase ∧
    4 ≤ (({ sx 1 0 0 with cores := [(0, { remote := List.replicate 4 rem0 })] } : State).core 0).remote.length := by unfold ready; decide +kernel

/-! ### Class 3 -/

/-- Buffered: bytes 1 to 4 stored at scratchpad offset 0x400; x9 holds that address. -/
def sSt : State := sw (fun t => { t with win := [(1, 0x400), (3, 0xA1B2C3D4)], store := [{ loc := spadLoc 0 0x400, op := .bytes [1, 2, 3, 4] }] })
def eM : Enc := { e0 with typ := 6, a := .reg 9, b := .reg 0 }
theorem wit_LoadsComplete : ready 0x60 { eM with d := .reg 8 } sSt ∧ bound { eM with d := .reg 8 } sSt ∧ gives (readX 0 eM.a sSt) 0x400 sSt ∧ gives (readB 0 eM sSt) 0 sSt ∧
    gives (loadPiece 0 .load true 0x400 4 0 sSt) [1, 2, 3, 4] sSt ∧ done (writeX 0 (.reg 8) 0x04030201 sSt) ∧ ready 0x73 { eM with d := .reg 8 } sSt ∧
    done (loadPiece 0 .load true 0x400 16 0 sSt) ∧ done (writeV 0 (.reg 8) 1 sSt) ∧ (specAddr 32 0x401 0).1 % 4 ≠ 0 := by unfold ready bound; decide +kernel
theorem wit_StoresComplete : ready 0x61 { eM with c := .reg 11 } sSt ∧ bound { eM with c := .reg 11 } sSt ∧ gives (readX 0 (.reg 11) sSt) 0xA1B2C3D4 sSt ∧
    done (storePiece 0 0x400 [0xD4, 0xC3, 0xB2, 0xA1] false 0 sSt) ∧ specWidth { eM with typ := 8 } < 8 ∧ done (subByteStore 0 0x400 4 4 5 0 sSt) ∧
    ready 0x62 { eM with c := .reg 11 } sSt ∧ done (readV 0 (.reg 11) sSt) ∧ done (storePiece 0 0x400 (List.replicate 16 1) true 0 sSt) := by unfold ready bound; decide +kernel
theorem wit_spadHome : spadHome 0 sSt 0x400 16 0 (spadLoc 0 0x400) := ⟨0, 0x400, by decide +kernel⟩
theorem wit_ScratchpadLoad : (∀ i : Fin 16, viewByte sSt (spadLoc 0 0x400 + i) = none) ∧ (∀ x ∈ (sSt.slot 0).store, x.op = .bytes [1, 2, 3, 4]) ∧
    poisonIn sSt (spadLoc 0 0x400) 16 = none ∧ heldByOther sSt (some 0) (spadLoc 0 0x400) = false := by decide +kernel
theorem wit_ScratchpadLoad_loads : noLoadOf sSt 0 (spadLoc 0 0x400) 16 := by unfold noLoadOf; decide +kernel
theorem wit_ScratchpadStore : poisonPart sSt (spadLoc 0 0x400) 4 = none ∧ (sSt.slot 0).region = none := by decide +kernel
def sBit : State := sw (fun t => { t with store := [{ loc := spadLoc 0 0x400, op := .bits 4 4 5 }] })
theorem wit_StorePerformed : sSt.board.fatal = false ∧ ∃ x, (sSt.slot 0).store[0]? = some x ∧ x.op = .bytes [1, 2, 3, 4] ∧ x.key = none :=
  ⟨by decide +kernel, { loc := spadLoc 0 0x400, op := .bytes [1, 2, 3, 4] }, by decide +kernel⟩
theorem wit_SubBytePerformed : sBit.board.fatal = false ∧ ∃ x, (sBit.slot 0).store[0]? = some x ∧ x.op = .bits 4 4 5 ∧ x.key = none :=
  ⟨by decide +kernel, { loc := spadLoc 0 0x400, op := .bits 4 4 5 }, by decide +kernel⟩
theorem test_store_performed : Memory.readN (run (.storePerform 0 0) sSt).mem (spadLoc 0 0x400) 4 = [1, 2, 3, 4] ∧ ((run (.storePerform 0 0) sSt).slot 0).store = [] := by
  decide +kernel
theorem test_sub_byte_performed : Memory.readN (run (.storePerform 0 0) sBit).mem (spadLoc 0 0x400) 1 = [0x50] := by decide +kernel
/-- AccessChecks: nowhere; a populated physical address at M; a translation missing. -/
theorem wit_AccessChecks : placeOf s0 (whoSlot s0 0) 0x60000 1 = .nowhere ∧ (whoSlot sm 0x8000).level = some 2 ∧ populated sm 0x1000 = true ∧ populated sm 0x1007 = true ∧
    (whoSlot s0 0).level ≠ some 2 ∧ leafFor s0 (whoSlot s0 0) 0x100000000000 false = none := by decide +kernel

/-- No store buffered; x9 an aligned scratchpad address, x10 and x11 small. -/
def sA (a b c : Word) : State := sx a b c
/-- The same with memory there: an object of R184 whose EXPECT is 1 and ARRIVED 2; a counter of `chunk` of 0 to 100. -/
def sCb : State := { sA 0x400 5 0 with mem := Memory.writeN [] (spadLoc 0 0x400) (leBytes 6 1 ++ leBytes 6 2 ++ [0, 0, 0xFF, 0xFF]) }
theorem wit_FullEmpty : ready 0x63 { eR with b := .reg 0 } (sA 0x400 0 0) ∧ bound { eR with b := .reg 0 } (sA 0x400 0 0) ∧ feOf (setFe (sA 0x400 0 0) (spadLoc 0 0x400) true) (spadLoc 0 0x400) = true ∧
    feOf (setFe (sA 0x400 0 0) (spadLoc 0 0x400) false) (spadLoc 0 0x400) = false ∧ gives (homeLoad (some 0) .load 0x400 { loc := spadLoc 0 0x400 } 16 (sA 0x400 0 0)) (List.replicate 16 0) (sA 0x400 0 0) ∧
    done (writeV 0 (.reg 8) 0 (sA 0x400 0 0)) ∧ ready 0x64 { eR with c := .reg 1 } (sA 0x400 0 0) ∧ done (readV 0 (.reg 1) (sA 0x400 0 0)) ∧ ((sA 0x400 0 0).slot 0).wait = .none ∧
    ready 0x65 eR (sA 0x400 2 0) ∧ placeOf (sA 0x400 2 0) (whoSlot (sA 0x400 2 0) 0) 0x400 32 = .spad 0 0 0x400 ∧
    (sA 0x400 0 0).slots.all (fun x => match x.2.wait with | .none => true | _ => false) := by unfold ready bound; decide +kernel
/-- An `ldfe` listed at granule 0x400 of core 0. -/
def sListed : State := sw (fun t => { t with wait := .listed 3 (spadLoc 0 0x400) 0 (.ldfe true) })
theorem wit_FullEmpty_listed : waiters sListed (spadLoc 0 0x400) = [(3, 0, .ldfe true)] ∧ feOf sListed (spadLoc 0 0x400) = false ∧ poisonIn sListed (spadLoc 0 0x400) 16 = none := by decide +kernel
theorem test_atomic_values : atomicNew 0 2 0xFFFFFFFF 1 = (0, Fl.none) ∧ atomicNew 4 2 0xFFFFFFFF 1 = (0xFFFFFFFF, Fl.none) ∧ atomicNew 4 6 0xFFFFFFFF 1 = (1, Fl.none) := by decide +kernel
theorem wit_AtomicValues : (2 : Nat) < 8 ∧ (4 : Nat) < 7 ∧ 0xFFFFFFFF < 2 ^ fmtWidth 2 := by decide
theorem wit_AtomicAtHome : spadHome 0 (sA 0x400 5 0) 0x400 4 0 (spadLoc 0 0x400) ∧ (∀ i : Fin 4, viewByte (sA 0x400 5 0) (spadLoc 0 0x400 + i) = none) ∧ ((sA 0x400 5 0).slot 0).store = [] ∧
    poisonIn (sA 0x400 5 0) (spadLoc 0 0x400) 4 = none ∧ heldByOther (sA 0x400 5 0) (some 0) (spadLoc 0 0x400) = false :=
  ⟨⟨0, 0x400, by decide +kernel⟩, by decide +kernel⟩
def eAmo : Enc := { eR with typ := 6 }
/-- `amo` answers where it is performed now, posted, and misaligned; `cas`; `chunk` of 0 to 100 by at least 4 for 2 consumers (R188). -/
def sChunk : State := { sA 0x400 0 0 with mem := Memory.writeN [] (spadLoc 0 0x400) (leBytes 4 0 ++ leBytes 4 100 ++ leBytes 4 4 ++ leBytes 4 2) }
def chunkNew (o : List Byte) : List Byte := patch o 0 (leBytes 4 25)
theorem wit_AtomicsComplete : ready 0x66 eAmo (sA 0x400 5 0) ∧ bound eAmo (sA 0x400 5 0) ∧ gives (readX 0 (.reg 10) (sA 0x400 5 0)) 5 (sA 0x400 5 0) ∧ gives (amoPosted 0 0x400 4 eAmo (sA 0x400 5 0)) none (sA 0x400 5 0) ∧
    done (atomicNow 0 0x400 4 (fun o => leBytes 4 (atomicNew 0 6 (ofLe o) 5).1) (sA 0x400 5 0)) ∧ done (writeX 0 (.reg 8) 0 (sA 0x400 5 0)) ∧ (0x401 : Word).toNat % 4 ≠ 0 ∧
    gives (amoPosted 0 0x400 4 { eAmo with d := .none } (sA 0x400 5 0)) (some { loc := spadLoc 0 0x400 }) (sA 0x400 5 0) ∧ poisonIn (sA 0x400 5 0) (spadLoc 0 0x400) 4 = none ∧
    done (bufferStore 0 0x400 { loc := spadLoc 0 0x400 } (.atomic 0 6 5) false 0 (sA 0x400 5 0)) ∧ ready 0x67 { eAmo with c := .reg 11 } (sA 0x400 5 0) ∧ ready 0x71 eR sChunk ∧
    done (atomicNow 0 0x400 16 chunkNew sChunk) := by unfold ready bound; decide +kernel
theorem test_chunk : (ran (.chunk { e0 with d := .reg 8, a := .reg 9 }) sChunk).x 8 = 0x0000001900000000 ∧ Memory.readN (run (.chunk { e0 with d := .reg 8, a := .reg 9 }) sChunk).mem (spadLoc 0 0x400) 4 = [25, 0, 0, 0] := by
  decide +kernel
/-- A control core at M with x9 the address of a physical line, and the hold of that line. -/
def smx (a b : Word) : State := sm.modSlot 0x8000 (fun t => { t with win := [(1, a), (2, b)] })
def smHold : State := smx 0x100000001000 8 |>.modSlot 0x8000 (fun t => { t with hold := some (64, 100) })
theorem wit_HoldsAndFences : ready 0x68 eR (sA 0x400 8 0) ∧ gives (readX 0 (.reg 9) (sA 0x400 8 0)) 0x400 (sA 0x400 8 0) ∧ gives (readB 0 eR (sA 0x400 8 0)) 8 (sA 0x400 8 0) ∧
    placeOf (sA 0x400 8 0) (whoSlot (sA 0x400 8 0) 0) 0x400 1 = .spad 0 0 0x400 ∧ (sr.slot 0).region ≠ none ∧ ready 0x68 eR (smx 0x100000001000 8) ∧
    gives (resolve (whoSlot (smx 0x100000001000 8) 0x8000) .atomic Need.both 0x100000001000 1 false (smx 0x100000001000 8)) { loc := 0x1000 } (smx 0x100000001000 8) ∧
    holdsNow (smx 0x100000001000 8) 0x8000 = false ∧ holdsNow smHold 0x8000 = true ∧ heldByOther (smx 0x100000001000 8) (some 0x8000) 0x1000 = false ∧
    (∀ m : Fin 2, earlierHold (smx 0x100000001000 8) 0x8000 64 m = false) ∧ ready 0x69 eR smHold ∧ (smHold.slot 0x8000).store = [] ∧ ready 0x6A e0 s0 ∧ ready 0x6A e0 sSt ∧ (sSt.slot 0).store ≠ [] ∧
    ready 0x6A e0 sr ∧ ready 0x72 eR s0 := by unfold ready; decide +kernel
/-- A group copy at tier 1 whose barrier 2 of unit 0 has one arrival of two. -/
def sBar (n count : Nat) (a : Word) : State := { sA a 0 0 with ginsts := [(0, { cores := [(0, 0)], ncores := 1, tier := 1, barriers := [(barrierKey 0 0 2, { phase := 7, n := n, count := count })] })] }
theorem wit_SplitPhaseBarriers : ready 0x6B eR (sBar 2 1 0x20002) ∧ gives (readX 0 (.reg 9) (sBar 2 1 0x20002)) 0x20002 (sBar 2 1 0x20002) ∧ tierOf (sBar 2 1 0x20002) ((sBar 2 1 0x20002).slot 0) = 1 ∧
    KV.get {} ((sBar 2 1 0).ginst 0).barriers (barrierKey 0 0 2) = { phase := 7, n := 2, count := 1 } ∧ ((sBar 2 1 0).slot 0).store = [] ∧ tierOf s0 (s0.slot 0) < 1 ∧
    ready 0x6C eR (sBar 0 0 0x600000002) ∧ (0x600000002 : Word).toNat / 2 ^ 7 % 2 ^ 25 = 0 ∧ (0x600000002 : Word).toNat / 2 ^ 32 = 6 := by unfold ready; decide +kernel
theorem test_bara : (ran (.bara eR) (sBar 2 1 0x20002)).x 8 = 0x0000000700000002 ∧ KV.get {} ((run (.bara eR) (sBar 2 1 0x20002)).ginst 0).barriers (barrierKey 0 0 2) = { phase := 8, n := 0, count := 0 } := by decide +kernel
theorem test_barw : completes (.barw { e0 with a := .reg 9 }) (sBar 0 0 0x600000002) ∧ ¬ completes (.barw { e0 with a := .reg 9 }) (sBar 0 0 0x700000002) := by decide +kernel
theorem wit_ByteCountingBarriers : ready 0x6E { eR with c := .none } (sA 0x400 16 0) ∧ bound { eR with c := .none } (sA 0x400 16 0) ∧ spadHome 0 (sA 0x400 16 0) 0x400 16 0 (spadLoc 0 0x400) ∧
    done (homeLoad (some 0) .store 0x400 { loc := spadLoc 0 0x400 } 16 (sA 0x400 16 0)) ∧ done (bufferStore 0 0x400 { loc := spadLoc 0 0x400 } (.cbarm true 16 0xFFFF (vcoreCorev 0)) false 0 (sA 0x400 16 0)) ∧
    expectAfter [] (spadLoc 0 0x400) 0 + (16 : Word).toNat < 2 ^ 48 ∧ ready 0x6F { e0 with d := .reg 1, a := .reg 9 } sCb ∧ fieldAt (Memory.readN sCb.mem (spadLoc 0 0x400) 16) 0 6 ≤ fieldAt (Memory.readN sCb.mem (spadLoc 0 0x400) 16) 6 6 ∧
    fieldAt (List.replicate 16 0) 0 6 = 0 ∧ done (writeP 0 (.reg 1) true sCb) := by
  unfold ready bound; exact ⟨by decide +kernel, by decide +kernel, ⟨0, 0x400, by decide +kernel⟩, by decide +kernel⟩
theorem test_cbwait : completes (.cbwait { e0 with d := .reg 1, a := .reg 9 }) sCb ∧ ¬ completes (.cbwait { e0 with d := .reg 1, a := .reg 9 }) (sA 0x400 0 0) := by decide +kernel
theorem wit_CopySends : ready 0x6D { eR with c := .reg 11 } (sA 0 0x400 64) ∧ ((sA 0 0x400 64).cluster (clusterOf 0)).clperm.getLsbD 1 = true ∧ outbound (sA 0 0x400 64) 0 < 4 ∧
    (({ sA 0 0x400 64 with clusters := [] } : State).cluster (clusterOf 0)).clperm.getLsbD 1 = false ∧ ready 0x6D eR sr := by unfold ready; decide +kernel
theorem wit_QueueFences : ready 0x70 { e0 with ext := .imm32 2 } s0 ∧ (s0.slot 0).region = none ∧ joinQueues s0 5 = [] ∧ ((sw (fun t => { t with wait := .join 5 })).slot 0).wait = .join 5 ∧ (s0.slot 0).wait = .none ∧
    (∀ j ∈ joinSet 0 2, placeReady s0 0 j = true) ∧ (2 : Nat).testBit 0 = false ∧ (2 : Nat).testBit 2 = false := by unfold ready; decide +kernel

/-! ### Classes 4 to 6 -/

theorem wit_VectorsComplete : ∀ r ∈ vectorRows, ready r.2.1 { eR with typ := 6, c := .reg 11 } s0 ∧ bound { eR with typ := 6, c := .reg 11 } s0 := by unfold ready bound; decide +kernel
theorem wit_VectorsComplete_operands : done (readV 0 (.reg 9) s0) ∧ done (readV 0 .none s0) ∧ done (writeV 0 (.reg 8) 1 s0) := by decide +kernel
theorem wit_LanesIndependent : ∀ t ∈ [0x0, 0x2, 0x3, 0x8, 0xD], fmtWidth t ∈ [4, 8, 16, 32, 64] := by decide
theorem wit_IntegerLanes : (7 : Nat) < 8 := by decide
theorem wit_RepresentableValuesExact : (0xD : Nat) ∈ [0x9, 0xA, 0xB, 0xC, 0xD] ∧ 1 < 2 ^ fmtWidth 0xD ∧ (decodeFlt 0xD 1).isNan = false := by decide +kernel
theorem wit_MovesComplete : (∀ o ∈ [0xA0, 0xA1, 0xA3, 0xA4, 0xA5, 0xAB, 0xAC, 0xAF, 0x92, 0xA7, 0xAA, 0xAE], ready o { eR with typ := 6, c := .reg 11, e := .reg 12 } s0 ∧ bound { eR with typ := 6, c := .reg 11, e := .reg 12 } s0) ∧
    done (readIdx 0 eR eR.b s0) ∧ done (readWide 0 (dotVectors 6) (.reg 8) s0) ∧ isLb (pairOf 0xA7 { e0 with typ := 6 }).1 = false := by unfold ready bound; decide +kernel
/-- A slice of one candidate of mass 1 at 0x400 (R164). -/
def sDraw : State := { sx 0x400 1 2 with mem := Memory.writeN [] (spadLoc 0 0x400) ([0, 0x5, 0, 0, 0, 0, 0, 0] ++ [1, 0, 0, 0, 0, 0, 0, 0]), slots := [(0, { t0 with win := [(1, 0x400)] })] }
theorem wit_DrawsComplete : ready 0xAD { eR with c := .reg 11, e := .reg 12 } s0 ∧ bound { eR with c := .reg 11, e := .reg 12 } s0 ∧ tierOf s0 (s0.slot 0) = 0 ∧ tierOf (sBar 0 0 0) ((sBar 0 0 0).slot 0) ≠ 0 ∧
    ready 0xAD eR { sBar 0 0 0 with slots := [(0, { t0 with wait := .drawDone 3 })] } ∧ sumMass [(0, 1)] = 1 ∧ sumMass [] = 0 := by unfold ready bound; decide +kernel
/-- The act's launch owns the matrix unit. -/
def sMx (a b c : Word) : State := (sx a b c).modCore 0 (fun x => { x with mx := { x.mx with owner := some 0 } })
theorem wit_MatrixOwnership : (s0.slot 0).origin ≠ 3 ∧ ((sw (fun t => { t with origin := 3 })).slot 0).origin = 3 ∧ (s0.core (coreOf 0)).mx.owner = none ∧ ((sMx 0 0 0).core (coreOf 0)).mx.owner = some 0 ∧
    (((s0.modCore 0 (fun x => { x with mx := { x.mx with owner := some 1 } })).core (coreOf 0)).mx.owner = some 1) := by decide +kernel
theorem wit_MatrixInstructions : ready 0xC0 eR (sMx 5 0 0) ∧ bound eR (sMx 5 0 0) ∧ ownsUnit (sMx 5 0 0) ∧ ((sMx 5 0 0).core (coreOf 0)).mx.tcfgPending = none ∧ mxOpen (sMx 5 0 0) (coreOf 0) = [] ∧
    ready 0xC2 eR (sMx 5 0 0) ∧ ((sMx 5 0 0).slot 0).mxLast = none ∧ 5 ∉ mxOpen (sMx 5 0 0) (coreOf 0) ∧ ready 0xC3 eR (sMx 5 0 0) ∧ done (writeX 0 (.reg 8) 1 (sMx 5 0 0)) := by
  unfold ready bound ownsUnit; decide +kernel
def sMxMsg : State := (smsg 1).modCore 0 (fun x => { x with mx := { x.mx with owner := some 0 } })
theorem wit_MatrixMessages : ownsUnit sMxMsg ∧ headerOk (msgBytes (sMxMsg.slot 0) 8) = true ∧ msgTgt (msgBytes (sMxMsg.slot 0) 8) = 1 ∧ msgReply (msgBytes (sMxMsg.slot 0) 8) = false ∧ targetPermitted sMxMsg 0 (msgBytes (sMxMsg.slot 0) 8) = true ∧
    (sMxMsg.core (coreOf 0)).mx.tcfgPending = none ∧ outbound sMxMsg 0 < 4 ∧ ready 0xC1 { e0 with d := .reg 8, a := .reg 8 } sMxMsg ∧ done (sendMessage 0 (1 :: (msgBytes (sMxMsg.slot 0) 8).tail) sMxMsg) ∧
    ready 0xC5 { e0 with a := .reg 8 } sMxMsg ∧ done (sendMessage 0 (4 :: (msgBytes (sMxMsg.slot 0) 8).tail) sMxMsg) ∧ ready 0xC4 eR (sMx 5 0 0) ∧ placeReady (sMx 5 0 0) 0 (.matrix (coreOf 0)) = true := by
  unfold ready ownsUnit; decide +kernel

/-! ### Juggler and regions -/

theorem wit_JugglerMessages : msgTgt (msgBytes ((smsg 3).slot 0) 8) = 3 ∧ headerOk (msgBytes ((smsg 3).slot 0) 8) = true ∧ targetPermitted (smsg 3) 0 (msgBytes ((smsg 3).slot 0) 8) = true ∧ outbound (smsg 3) 0 < 4 ∧
    ((jugRelease (coreOf 0) (smsg 3)).core (coreOf 0)).jug.counts.length < 8 := by decide +kernel
theorem wit_JugglerInstructions : (∀ o ∈ [0xE6, 0xE7, 0xE8, 0xE9], ready o eR (sx 0 3 0)) ∧ bound eR (sx 0 3 0) ∧ done (sendMessage 0 (leBytes 4 0xFFFF0203 ++ leBytes 12 0 ++ leBytes 8 0 ++ leBytes 40 3) (sx 0 3 0)) ∧
    done (sendMessage 0 (3 :: (msgBytes ((smsg 0).slot 0) 8).tail) (smsg 0)) ∧ 0 ∉ jugOpen s0 (coreOf 0) 0 ∧ jugKept s0 0 0 = none ∧ done (writeX 0 (.reg 8) (jstatWord s0 0) s0) := by unfold ready bound; decide +kernel
theorem wit_MapComposition : [0, 2, 1].length = [0, 0, 2].length ∧ (∀ x ∈ [0, 2, 1], x < 3) ∧ (∀ x ∈ [0, 0, 2], x < 3) := by decide
/-- Regions of R288: one open, one to be opened again, none. -/
def sReg (st : RState) : State := { s0 with slots := [(0, { t0 with region := some 0 })], rslots := [(0, { st := st, act := 1 })] }
/-- A quota, so that a region slot is free. -/
def sQ : State := { s0 with parts := [(0, { en := true, rquota := 4 })] }
theorem wit_RegionOpens : ready 0xE0 { e0 with d := .reg 8, ext := .imm64 1 } sQ ∧ liveRegion sQ (sQ.slot 0) = none ∧ freeRegions sQ 0 (partOf sQ 0) ≠ [] ∧ gives (rbegKey 0 { e0 with d := .reg 8, ext := .imm64 1 } sQ) 1 sQ ∧
    placeLt (frontierOf sQ 0) (1, 0) = true ∧ placeLt (frontierOf { sQ with frontier := [(0, (5, 0))] } 0) (1, 0) = false ∧ freeRegions s0 0 (partOf s0 0) = [] ∧ ready 0xE0 eR (sReg .open_) ∧ liveRegion (sReg .open_) ((sReg .open_).slot 0) = some 0 ∧
    ((sReg .open_).rslot 0).st ≠ .restart ∧ ((sReg .restart).rslot 0).st = .restart ∧ liveRegion (sReg .restart) ((sReg .restart).slot 0) = some 0 ∧ done (writeX 0 (.reg 8) 0 (sReg .restart)) := by unfold ready; decide +kernel
theorem wit_RegionEnds : ready 0xE1 e0 (sReg .open_) ∧ (s0.slot 0).region = none ∧ ((sReg .open_).slot 0).frames.length = ((sReg .open_).rslot 0).callDepth ∧ (sr.slot 0).frames.length = (sr.rslot 0).callDepth ∧
    ((sf 1).slot 0).frames.length ≠ ((sReg .open_).rslot 0).callDepth ∧ liveRegion (sReg .free) ((sReg .free).slot 0) = none ∧ ((sReg .free).slot 0).region = some 0 ∧ ready 0xE2 e0 (sReg .open_) := by unfold ready; decide +kernel
theorem wit_RegionInspection : ready 0xE3 { eR with a := .none } (sReg .open_) ∧ ready 0xE4 eR s0 ∧ handleRsw s0 (partOf s0 0) 0 = 0 ∧ ready 0xE4 eR (sw (fun t => { t with wait := .regionDone 1 })) ∧ ready 0xE5 eR s0 ∧ done (writeX 0 (.reg 8) 0 s0) ∧
    gives (readX 0 (.reg 9) s0) 0 s0 := by unfold ready; decide +kernel
/-- Two open regions of one domain, the first with a version of granule 9. -/
def sFwd : State := { s0 with rslots := [(0, { st := .open_, act := 1, key := 1 }), (1, { st := .open_, act := 2, key := 2, tie := 1 })], versions := [{ rslot := 0, gran := 9, bytes := List.replicate 16 7 }] }
theorem wit_RegionForwarding : ownVersion sFwd 1 9 = none ∧ forwardFrom sFwd 1 9 = some { rslot := 0, gran := 9, bytes := List.replicate 16 7 } ∧ (sFwd.rslot 0).depth < 8 ∧ ownVersion sFwd 0 9 ≠ none ∧ forwardFrom sFwd 1 8 = none := by decide +kernel

/-! ### Cells -/

/-- A table of two cells at 0x1000000, the second dependent on the first; the act's handle in x9 names cell 0. -/
def tab0 : Table := { part := 0, base := 0x1000000, cells := [{ dep := [1] }, { form := true, prec := [0], rank := 1 }] }
def sCell (a b c : Word) : State := { sx a b c with tables := [(0, tab0)] }
def h0 : Word := 0x1000080
def eCst : Enc := { eR with c := .reg 11, e := .reg 0 }
theorem wit_CellStores : ready 0xC6 eCst (sCell h0 0x400 0) ∧ bound eCst (sCell h0 0x400 0) ∧ namesCell (sCell h0 0x400 0) h0 0 0 ∧ namesCell (sCell h0 0 0) (h0 + 128) 0 1 ∧
    cellOf (sCell 0 0 0) (partOf (sCell 0 0 0) 0) 0 = none ∧ ((sCell 0 0 0).table 0).cells.map (fun c => c.form) = [false, true] ∧ ((sCell 0 0 0).slot 0).region = none ∧ ((sCell 0 0 0).slot 0).formula = none ∧
    done (loadBytes 0 0x400 16 (sCell h0 0x400 0)) ∧ (((sCell 0 0 0).table 0).cell 0).hold = .free ∧ freeStager ((sCell 0 0 0).table 0) = some 0 ∧ ((sCell 0 0 0).table 0).waves.length < 64 ∧ ¬ (8 : Word).toNat % 16 = 0 := by
  unfold ready bound namesCell; decide +kernel
theorem wit_ClosureIsClosed : 0 < tab0.cells.length ∧ (∀ c ∈ tab0.cells, ∀ k ∈ c.dep, k < tab0.cells.length) := by decide
theorem test_closure : closureOf tab0.cells 0 = [0, 1] ∧ closureOf tab0.cells 1 = [1] := by decide +kernel
theorem wit_ViewSeesGeneration : ({} : CellD).wa ≤ 0 ∧ ∃ b, ({ wa := 9, wb := some 3 } : CellD).wb = some b ∧ b ≤ 5 := ⟨by decide, 3, by decide⟩
/-- A view of the table held by the act. -/
def sView : State := { sCell h0 0 0 with slots := [(0, { t0 with win := [(1, h0)], view := some (0, 0, h0) })] }
theorem wit_CellLoads : ready 0xC7 eCst (sCell h0 0 0) ∧ bound eCst (sCell h0 0 0) ∧ namesCell (sCell h0 0 0) h0 0 0 ∧ done (cldVersion 0 0 0 (sCell h0 0 0)) ∧ done (writeV 0 (.reg 8) 0 (sCell h0 0 0)) ∧
    done (storeNow 0 0x400 (List.replicate 16 0) (sCell h0 0 0)) ∧ (sView.slot 0).view = some (0, 0, h0) ∧ ((sCell 0 0 0).slot 0).view = none ∧ (((sCell 0 0 0).table 0).cell 0).stale = false ∧
    (({ stale := true } : CellD)).stale = true := by unfold ready bound namesCell; decide +kernel
theorem wit_CellEdits : ready 0xC8 eR (sCell h0 0x400 0) ∧ bound eR (sCell h0 0x400 0) ∧ done (loadBytes 0 0x400 32 (sCell h0 0x400 0)) ∧ ready 0xC9 eR (sCell (h0 + 128) 0 0) ∧ namesCell (sCell (h0 + 128) 0 0) (h0 + 128) 0 1 ∧
    done (submitEdit 0 0 1 none (sCell (h0 + 128) 0 0)) ∧ ((sCell 0 0 0).table 0).edits = [] ∧ ((sCell 0 0 0).table 0).inWave 1 = false := by unfold ready bound namesCell; decide +kernel
theorem wit_CellViews : (∀ o ∈ [0xCA, 0xCC, 0xCD], ready o eR (sCell h0 0 0)) ∧ bound eR (sCell h0 0 0) ∧ namesCell (sCell h0 0 0) h0 0 0 ∧ ready 0xCB e0 sView ∧ ((sCell 0 0 0).table 0).views.length < 1024 ∧
    (((sCell 0 0 0).table 0).cell 0).lastw ≤ ((sCell 0 0 0).table 0).committed ∧ ((sCell 0 0 0).slot 0).wait = .none ∧ ready 0xCC eR { sCell h0 0 0 with slots := [(0, { t0 with win := [(1, h0)], wait := .waveDone true })] } := by
  unfold ready bound namesCell; decide +kernel

/-! ### Privileged architecture -/

/-- A control core's slot in S, with partition 0 enabled, its MASKs full, and keys 0 to 7 its own. -/
def p0 : Part := { en := true, ccmask := 0xFFFF, keycount := 8, clmask := [(0, 0xFFFFFFFFFFFFFFFF)], prange := [(0, 0x1000), (1, 0x1000000000 - 0x1000)] }
def ss (a b : Word) : State := { smx a b with parts := [(0, p0)] } |>.modSlot 0x8000 (fun t => { t with ctl := { t.ctl with level := 1 } })
/-- The same in M. -/
def sM (a b : Word) : State := { smx a b with parts := [(0, p0)] }
theorem wit_running : running s0 ∧ running (sM 0 0) := by unfold running; decide +kernel
theorem wit_FaultTraps : isCtl 0x8000 = true ∧ Cause.space < 256 ∧ Cause.space ≠ Cause.scall ∧ Cause.space ≠ Cause.mcall ∧ ((ss 0 0).slot 0x8000).ctl.level ≤ 2 := by decide +kernel
def eI (n : BitVec 32) : Enc := { e0 with ext := .imm32 n }
theorem wit_CallsAndReturns : ready 0xED (eI 9) (ss 0 0) ∧ ready 0xEE (eI 9) (ss 0 0) ∧ ready 0xEC e0 (ss 0 0) ∧ ready 0xEC e0 (sM 0 0) ∧ ((sM 0 0).slot 0x8000).ctl.mepc.toNat % 4 = 0 ∧
    ¬ (28 : Nat) % 32 ≠ 28 := by unfold ready; decide +kernel
/-- A QUEUE interrupt pends for the partition, and S has enabled it. -/
def sInt : State := { ss 0 0 with parts := [(0, { p0 with pendQueue := true })] } |>.modSlot 0x8000 (fun t => { t with ctl := { t.ctl with sie := true } })
theorem wit_Interrupts : running sInt ∧ isCtl 0x8000 = true ∧ (sInt.slot 0x8000).st = .active ∧ takes sInt 0x8000 4 ∧ ready 0xFA e0 sInt ∧ pending sInt 0 4 ∧
    causeListed Cause.space = true ∧ causeListed Cause.scall = true ∧ causeListed Cause.mcall = true ∧ (sInt.slot 0x8000).ctl.level ≠ 2 ∧ (sInt.slot 0x8000).ctl.level ≠ 0 := by
  simp only [running, takes, ready, pending]; decide +kernel
theorem wit_Interrupts_lowest : ∀ j, j < 4 → ¬ takes sInt 0x8000 j := by
  intro j h
  rcases (by omega : j = 0 ∨ j = 1 ∨ j = 2 ∨ j = 3) with rfl | rfl | rfl | rfl <;> (simp only [takes, pending]; decide +kernel)
theorem wit_Interrupts_none : ∀ k, ¬ pending (ss 0 0) ((ss 0 0).slot (ss 0 0).cur).ctl.pid k := by
  intro k
  match k with
  | 0 | 1 | 2 | 3 | 4 => simp only [pending]; decide +kernel
  | _ + 5 => exact id
theorem wit_RegisterTable : pregListed 0x101 = true ∧ ((sM 0 0).slot 0x8000).ctl.level = 2 ∧ ((ss 0 0).slot 0x8000).ctl.level = 1 ∧ plainMask 0x101 = some (BitVec.allOnes 64) ∧ plainMask 0x201 = some 0x0000FFFFFFFFF00F := by
  decide +kernel
def eW (n : BitVec 32) : Enc := { e0 with a := .reg 9, ext := .imm32 n }
def eD (n : BitVec 32) : Enc := { e0 with d := .reg 8, ext := .imm32 n }
theorem wit_RegisterAccess : ready 0xEA (eD 0x101) (sM 5 0) ∧ pregListed 6 = false ∧ pregPermits (ss 5 0) 0x8000 false 0x110 = false ∧ pregPermits (sM 5 0) 0x8000 false 0x101 = true ∧ done (writeX 0x8000 (.reg 8) 0 (sM 5 0)) ∧
    ready 0xEB (eW 0x101) (sM 5 0) ∧ pregPermits (sM 5 0) 0x8000 true 0x101 = true ∧ pregPermits (ss 5 0) 0x8000 true 0x110 = false ∧ ((sM 5 0).part (sM 5 0).ptsel).en = true ∧ pregListed 0x302 = true ∧
    pregPermits (sM 5 0) 0x8000 true 0x302 = true := by unfold ready; decide +kernel
theorem wit_Partitions : (s0.part 3).en = false ∧ ((sM 0 0).part 0).en = true ∧ List.find? (fun (e : Nat × Part) => e.2.en && e.2.vf == 0) (sM 0 0).parts = some (0, p0) ∧ ready 0xEB (eW 0x310) (sM 5 0) ∧ ready 0xEB (eW 0x301) (sM 5 0) ∧
    ((sM 0 0).slot 0x8000).ctl.level = 2 ∧ ((s0.launch 0).st.terminal = false) ∧ (s0.launch 0).fault = none := by unfold ready; decide +kernel
theorem wit_Partitions_masks : ∀ c, c < 256 → maskHas (s0.part 3) c = false := by decide +kernel
theorem wit_TranslationsAndCaches : ready 0xEF { e0 with a := .reg 9, b := .reg 10 } (sM 0 0) ∧ (∀ x ∈ (sM 0 0).slots, x.2.store = []) ∧ ((ss 0 9).slot 0x8000).ctl.level ≠ 2 ∧ ready 0xF8 { e0 with a := .reg 9 } (sM 0x100000001000 0) ∧
    gives ((resolve (whoSlot (sM 0x100000001000 0) 0x8000) .load {} 0x100000001000 1) (sM 0x100000001000 0)) { loc := 0x1000 } (sM 0x100000001000 0) ∧ ((sM 0 0).slot 0x8000).store = [] ∧ ready 0xF8 { e0 with b := .reg 10 } (sM 0 0) := by
  unfold ready; decide +kernel
theorem wit_allPerformed : allPerformed (sM 0 0) := by
  refine ⟨fun p => ?_, by decide +kernel, rfl⟩
  by_cases h : p = 0x8000
  · subst h; rfl
  · have e : (sM 0 0).slots = [(0x8000, (sM 0 0).slot 0x8000)] := by decide +kernel
    have n : ¬ (0x8000 = p) := fun x => h x.symm
    unfold State.slot; rw [e]; simp [KV.get, KV.find?, n]
theorem wit_fences : fences 0x8000 (sM 0 0) (acquired 0x8000 3 (sM 0 0)) := ⟨by decide +kernel, rfl⟩
/-- A record of a memory key for partition 0, at a physical line. -/
def keyRec : List Byte := List.replicate 64 7 ++ [1, 0] ++ List.replicate 30 0
def sKey : State := { sM 0x100000001000 0 with mem := Memory.writeN [] 0x1000 keyRec }
theorem wit_Keys : ready 0xF4 { eW 3 with d := .reg 8 } sKey ∧ answers (loadBytes 0x8000 0x100000001000 96 sKey) keyRec = true ∧ zeroAt keyRec 66 30 = true ∧ fieldAt keyRec 64 1 = 1 ∧ fieldAt keyRec 65 1 = 0 ∧ (sKey.part 0).keybase ≤ 3 ∧
    3 < (sKey.part 0).keybase + (sKey.part 0).keycount ∧ ((ss 0 0).slot 0x8000).ctl.level ≠ 2 ∧ ¬ 9 < ((ss 0 0).part 0).keybase + ((ss 0 0).part 0).keycount ∧ ready 0xF5 (eD 3) (ss 0 0) ∧ done (writeX 0x8000 (.reg 8) 0 sKey) := by
  unfold ready; decide +kernel
theorem wit_Keys_unused : keyUnused sKey 3 := ⟨by decide +kernel, by decide +kernel⟩
/-- x9 names slot 0 of core 0, which runs an act whose q7 receives. -/
def sPost (st : SlotState) (a : Word) : State := { ss a 5 with slots := (0, { ({ t0 with st := st } : Slot).setChan 7 { kind := .input } with launch := some 0 }) :: (ss a 5).slots, launches := [(0, { st := .running })] }
theorem wit_UserInterrupts : ready 0xF6 eR (sPost .active 0) ∧ pslotOk 0x4 = false ∧ namesSlot (sPost .active 0) 0 ∧ ((sPost .active 0).slot 0).uints = [] ∧ (((sPost .active 0).slot 0).chan 7).kind = .input ∧ isCtl 0 = false ∧
    ((sPost .parked 0).slot 0).st = .parked ∧ ((sPost .halted 0).slot 0).st = .halted ∧ ((sPost .free 0).slot 0).savedFrom = none ∧ ready 0xF7 (eI 10) (ss 0 0) ∧ ready 0xF7 { e0 with a := .reg 9 } (ss 30 0) := by
  unfold ready namesSlot; decide +kernel
theorem wit_HaltInstructions : ready 0xF9 eR (sPost .active 0) ∧ namesSlot (sPost .active 0) 0 ∧ ¬ namesSlot { sPost .active 0 with parts := [] } 0 ∧ ready 0xF9 eR (sM 0x8001 0x100000001000) ∧ isCtl 0x8001 = true ∧
    ((sM 0 0).slot 0x8001).st = .free ∧ done (loadBytes 0x8000 0x100000001000 32 (sM 0 0)) ∧ namesSlot (sM 0 0) 0x8001 := by unfold ready namesSlot; decide +kernel

/-! ### Parking, queues and the network -/

theorem wit_SaveInstruction : ready 0xF0 eR (sPost .parked 0) ∧ namesSlot (sPost .parked 0) 0 ∧ ((sPost .parked 0).slot 0).boundary = false ∧ ((sPost .parked 0).ginst 0).quiesced = false ∧ ((sPost .parked 0).slot 0).replies = 0 ∧
    ((sPost .parked 0).ginst 0).back.contains 0 = false ∧ ownWork (((sPost .parked 0).slot 0).launch.getD 0) ((sPost .parked 0).core (coreOf 0)).jug.queue = false ∧ marksOf (sPost .parked 0) 0 1 = [] ∧
    ((sPost .active 0).slot 0).parkReq = false ∧ isCtl 0 = false ∧ isCtl 0x8000 = true := by unfold ready namesSlot; decide +kernel
theorem wit_SaveInstruction_others : ∃ k, k < 4 ∧ coreOf 0 + k ≠ 0 ∧ (({ s0 with slots := [(0, t0), (1, t0)] } : State).slot (coreOf 0 + k)).st ≠ .free := ⟨1, by decide +kernel⟩
theorem wit_SaveAreaRoundTrip : t0.boundary = false ∧ t0.pc < 2 ^ 64 ∧ t0.offs ≤ 168 ∧ ((sf 1).slot 0).frames.length ≤ 32 ∧ (∀ f ∈ ((sf 1).slot 0).frames, f.link < 2 ^ 64 ∧ f.callee < 256 ∧ f.caller < 256) := by decide +kernel
theorem wit_RestoreInstruction : ready 0xF1 eR (sM 0x100000001000 0) ∧ namesSlot (sM 0x100000001000 0) 0 ∧ ((sM 0 0).slot 0).st = .free ∧ done (loadBytes 0x8000 0x100000001000 64 (sM 0 0)) ∧ maskHas ((sM 0 0).part 0) (clusterOf 0) = true ∧
    areaHeaderOk (List.replicate 64 0) = false ∧ ((sPost .active 0).slot 0).st ≠ .free := by unfold ready namesSlot; decide +kernel
/-- An act asked to park at a safe point; a group copy resting; one restored; a user interrupt held. -/
def sPark : State := sw (fun t => { t with parkReq := true, safe := true })
def gRest : GInst := { cores := [(0, 0)], ncores := 1, parkReq := true }
theorem wit_ParkingEvents : (sPark.slot 0).st = .active ∧ (sPark.slot 0).parkReq = true ∧ (sPark.slot 0).safe = true ∧ (sPark.slot 0).wait = .none ∧ watchdogDue sPark 0 = false ∧ (sPark.slot 0).store = [] ∧ (sPark.slot 0).loads = [] ∧ sPark.net = [] ∧
    canQuiesce { s0 with slots := [(0, { t0 with st := .parked })], ginsts := [(0, gRest)] } 0 = true ∧ (({ gRest with quiesced := true, back := [0] } : GInst).back.length = 1) ∧
    ((sw (fun t => { t.setChan 7 { kind := .input } with uints := [3] })).slot 0).uints = [3] := by decide +kernel
def sQueue : State := { sM 0x100000001000 0 with queues := [(0, { stopped := true })] }
theorem wit_QueueImages : ready 0xF2 eR sQueue ∧ KV.find? sQueue.queues 0 = some { stopped := true } ∧ KV.find? (sM 0 0).queues 0 = none ∧ ready 0xF3 eR sQueue ∧ done (loadBytes 0x8000 0x100000001000 128 sQueue) ∧
    imageOk sQueue 0 (List.replicate 128 0) = false ∧ done (storeDirect 0x8000 0x100000001000 (List.replicate 128 0) sQueue) := by unfold ready; decide +kernel
theorem test_queue_image : (fullImage s0 {}).take 4 = [0x51, 0x49, 0x4D, 0x47] := by decide +kernel
/-- A packet for tag 0 of core 0, and a message for the core. -/
def pkt : NetItem := { kind := .packet, src := 16, launch := 0, ginst := 0, dst := 0, vcore := 0, tag := 0, data := List.replicate 16 1 }
def sNet : State := { stag with net := [pkt, { pkt with kind := .start, retryAt := some 0, isMessage := true }] }
theorem wit_Arrival : running sNet ∧ sNet.net[0]? = some pkt ∧ mayArrive sNet 0 pkt = true ∧ launchEnding sNet 0 = false ∧ (sNet.launch 0).st.terminal = false ∧ (tagOf sNet 0 0 0).isSome = true ∧ (tagOf s0 0 0 0) = none ∧
    (sNet.core 0).parking = [] ∧ boundAt sNet 0 0 0 = none ∧ (sNet.core 0).inbox.length < 32 ∧ pkt.dst < farBase ∧ boundAt (stag.modSlot 0 (fun t => t.setChan 2 { kind := .input, tag := 0 })) 0 0 0 = some (0, 2) := by unfold running; decide +kernel
def sBox : State := { s0 with slots := [] , cores := [(0, { inbox := [{ pkt with kind := .start }, { pkt with kind := .start, prio := 1 }] })] }
theorem wit_ActStart : computeSlot 0 = true ∧ (sBox.slot 0).st = .free ∧ (sBox.core 0).mx.owner = none ∧ takeable sBox 0 { pkt with kind := .start, prio := 1 } = true ∧ inboxRank { pkt with kind := .start } < inboxRank { pkt with kind := .start, prio := 1 } := by
  decide +kernel
theorem wit_CoreEvents : boundAt (stag.modSlot 0 (fun t => t.setChan 2 { kind := .input, tag := 0 })) 0 0 0 = some (0, 2) ∧ coreFree { s0 with slots := (List.range 4).map (fun k => (k, t0)) } 0 = false ∧
    ((clusterCores (clusterOf 0)).find? (fun k => k != 0 && coreFree { s0 with slots := (List.range 4).map (fun k => (k, t0)) } k)).isSome = true ∧ 16 ≤ ((sw (fun t => { t with readyFor := 16 })).slot 0).readyFor ∧
    (2 : Int) ^ ((s0.part 0).lim.toNat % 64) ≤ (({ s0 with cycle := 2 ^ 24 } : State).cycle : Int) - (s0.slot 0).wdBase ∧ (s0.slot 0).launch = some 0 ∧ ((sw (fun t => { t with hold := some (3, 0) })).slot 0).hold = some (3, 0) := by decide +kernel
/-- Slot 1 asks slot 0. -/
def sReq : State := { (sx 7 0 0).modCore 0 (fun c => { c with remote := [rem0] }) with slots := (1, { t0 with act := 2, wait := .remote 0 0 }) :: (sx 7 0 0).slots }
theorem wit_RemoteAnswers : (sReq.core 0).remote = [rem0] ∧ rem0.tact = 0 ∧ rem0.target ≠ rem0.from_ ∧ (sReq.slot 0).st = .active ∧ (sReq.slot 0).loads = [] ∧ (sReq.slot 0).boundary = false ∧ (sReq.slot 0).launch = (sReq.slot 1).launch ∧ (sReq.slot 1).wait = .remote 0 0 ∧
    remoteAnswer { sReq with slots := [(0, { t0 with st := .halted }), (1, { t0 with wait := .remote 0 0 })] } rem0 = none := by decide +kernel
theorem test_remote_answer : ((run (.remoteRequest 0) sReq).slot 1).wait = .remoteDone 0 7 := by decide +kernel

/-! ### Engines -/

def org0 : Origin := { launch := 0, ginst := 0, vcore := 0, pslot := 0, act := 1 }
/-- A copy of n bytes from scratchpad 0x400 to 0x800, with no object (R444). -/
def copyMsg (n : Nat) : List Byte := [2, 1, 0xFF, 0xFF] ++ List.replicate 12 0 ++ leBytes 8 0x400 ++ leBytes 8 0x800 ++ leBytes 8 n ++ List.replicate 8 0xFF ++ List.replicate 16 0
def sCopy (e : Entry) : State := { s0.modCore 0 (fun c => { c with copyq := [e] }) with mem := Memory.writeN [] (spadLoc 0 0x400) (List.replicate 64 9) }
def eCopy : Entry := { org := org0, msg := copyMsg 64 }
def eCopying : Entry := { eCopy with started := true, src := 0x400, dst := 0x800, len := 64 }
theorem wit_CopyEngine : running (sCopy eCopy) ∧ headOf (.copy 0) eCopy (sCopy eCopy) ∧ copyTurnOf (sCopy eCopy) 0 = true ∧ copyOk (sCopy eCopy) (EngQ.who (sCopy eCopy) org0 (.copy 0)) eCopy.msg = true ∧ copyOk s0 (EngQ.who s0 org0 (.copy 0)) (List.replicate 64 1) = false ∧ payAt (copyMsg 0) 16 8 = 0 ∧
    payAt (copyMsg 0) 24 8 = 2 ^ 64 - 1 ∧ payAt eCopy.msg 16 8 ≠ 0 ∧ (coreOfV s0 org0.ginst org0.vcore).isSome = true ∧ (s0.launch 0).fault = none ∧ (s0.launch 0).st.terminal = false ∧ headOf (.copy 0) eCopying (sCopy eCopying) ∧ min eCopying.len (64 - eCopying.dst % 64) = 64 ∧
    copyTurnOf (sCopy eCopying) 0 = true ∧ done (engineRead (EngQ.who s0 org0 (.copy 0)) 0x400 64 (sCopy eCopying)) ∧ done (engineWrite (EngQ.who s0 org0 (.copy 0)) 0x800 (List.replicate 64 9) (some (payAt eCopying.msg 32 1 % 4)) (sCopy eCopying)) ∧ done (creditObj (EngQ.who s0 org0 (.copy 0)) 0 none 64 (sCopy eCopying)) ∧
    joinQueues (sCopy { org := org0, join := some 5 }) 5 = [.copy 0] := by unfold running headOf; decide +kernel
theorem test_copy_beat : Memory.readN (run (.copyBeat 0) (sCopy eCopying)).mem (spadLoc 0 0x800) 64 = List.replicate 64 9 ∧ ((run (.copyBeat 0) (sCopy eCopying)).core 0).copyq = [] := by decide +kernel
theorem test_copy_bad : ended (.copyCommand 0) (sCopy { eCopy with msg := List.replicate 64 1 }) = some Cause.copy := by decide +kernel
def sMxE (e : Entry) : State := (sMx 0 0 0).modCore 0 (fun c => { c with mx := { c.mx with queue := [e] } })
/-- Messages of the matrix unit: EOP, TILE and the rest zero. -/
def mxMsg (eop : Nat) : Entry := { org := org0, msg := [1, BitVec.ofNat 8 eop, 0xFF, 0xFF] ++ List.replicate 60 0 }
def mxDone (eop : Nat) : Entry := { mxMsg eop with started := true }
theorem wit_MatrixCompletion : done (mxFinish 0 (mxMsg 5) 0 false (sMxE (mxMsg 5))) := by decide +kernel
theorem wit_MatrixSteps : running (sMxE (mxMsg 1)) ∧ headOf (.matrix 0) (mxMsg 1) (sMxE (mxMsg 1)) ∧ msgEop (mxMsg 1).msg = 1 ∧ mxCheck ((sMxE (mxMsg 1)).core 0).mx.tcfg (mxMsg 1).msg ≠ 0 ∧ done (mxFinish 0 (mxMsg 1) 2 false (sMxE (mxMsg 1))) ∧
    headOf (.matrix 0) (mxDone 2) (sMxE (mxDone 2)) ∧ (mxDone 2).dispatched = false ∧ (mxDone 2).started = true := by unfold running headOf; decide +kernel
/-- An MMA of one K step of i8 rows at scratchpad 0x400 and 0x800 into tile 0. -/
def mmaMsg : List Byte := [1, 1, 0xFF, 0xFF] ++ List.replicate 12 0 ++ leBytes 8 0x400 ++ leBytes 8 0x800 ++ List.replicate 32 0
theorem wit_MatrixSteps_kStep : ([] : List (List (FVal × FVal))).length ≤ 16 ∧ groupResidue [(3, 0), (5, 0)] = 8 ∧ poisonIn (sMxE (mxMsg 1)) (tileLoc 0 0) 4 = none := by decide +kernel
theorem wit_MatrixOutputs : headOf (.matrix 0) (mxMsg 5) (sMxE (mxMsg 5)) ∧ msgEop (mxMsg 5).msg = 5 ∧ mxCheck ((sMxE (mxMsg 5)).core 0).mx.tcfg (mxMsg 5).msg = 0 ∧ (mxMsg 5).started = false ∧ headOf (.matrix 0) (mxMsg 4) (sMxE (mxMsg 4)) ∧
    mxCheck ((sMxE (mxMsg 4)).core 0).mx.tcfg (mxMsg 4).msg = 0 ∧ tcRhnd (({} : Matrix).tcfg) = 0xFFFF ∧ headOf (.matrix 0) { mxDone 4 with dispatched := true } (sMxE { mxDone 4 with dispatched := true }) ∧
    (({ mxDone 4 with dispatched := true } : Entry)).rows = [] ∧ ((sMx 0 0 0).core 0).mx.owner = some 0 ∧ (({ s0 with launches := [(0, { st := .ending })] } : State).launch 0).st = .ending := by unfold headOf; decide +kernel
theorem test_zero_completes : ((run (.zero 0) ((sMxE (mxMsg 5)).modCore 0 (fun c => { c with mx := { c.mx with tiles := [(3, 7)] } }))).core 0).mx.status = [(0, 0)] := by decide +kernel
def sDot (e : Entry) : State := { s0 with clusters := [(0, { sdq := [e], clperm := 0xFFFFFFFF })] }
theorem wit_StackDot : headOf (.dot 0) (mxMsg 1) (sDot (mxMsg 1)) ∧ dotTurnOf (sDot (mxMsg 1)) 0 (mxMsg 1) = true ∧ dotTurnOf (sDot { mxDone 1 with beats := [[(0x400, [1])]] }) 0 { mxDone 1 with beats := [[(0x400, [1])]] } = true ∧ (mxMsg 1).started = false ∧ sdCheck (mxMsg 1).msg ≠ 0 ∧ msgReply (mxMsg 1).msg = false ∧ msgReply (patch (mxMsg 1).msg 4 [1]) = true ∧ sdCheck (patch (mxMsg 1).msg 4 [1]) ≠ 0 ∧
    headOf (.dot 0) { mxDone 1 with beats := [[(0x400, [1])]] } (sDot { mxDone 1 with beats := [[(0x400, [1])]] }) ∧ done (writeBeat (.dot 0) (mxDone 1) [(0x400, [1])] (sDot { mxDone 1 with beats := [[(0x400, [1])]] })) := by
  unfold headOf; decide +kernel
theorem test_dot_bad : ended (.mv 0 []) (sDot (mxMsg 1)) = some Cause.engineCmd := by decide +kernel
def sJug (e : Entry) : State := s0.modCore 0 (fun c => { c with jug := { c.jug with queue := [e] } })
def jMsg (eop : Nat) : Entry := { org := org0, msg := [3, BitVec.ofNat 8 eop, 0xFF, 0xFF] ++ List.replicate 60 0 }
theorem wit_JugglerEngine : headOf (.jug 0) (jMsg 3) (sJug (jMsg 3)) ∧ jugTurnOf (sJug (jMsg 3)) 0 = true ∧ msgEop (jMsg 3).msg = 3 ∧ payAt (jMsg 3).msg 8 1 < 4 ∧ zeroAt (jMsg 3).msg 25 39 = true ∧ payAt (jMsg 3).msg 0 8 = 0 ∧
    done (jugFinish 0 (jMsg 3) 0 0 false 0 (sJug (jMsg 3))) ∧ headOf (.jug 0) (jMsg 2) (sJug (jMsg 2)) ∧ done (engineRead (EngQ.who s0 org0 (.jug 0)) 0 64 (sJug (jMsg 2))) ∧ tdOk (List.replicate 64 0) = false ∧ headOf (.jug 0) (jMsg 1) (sJug (jMsg 1)) ∧
    runFieldsOk (jMsg 1).msg = true ∧ KV.find? ((sJug (jMsg 1)).core 0).jug.ctx (jRunCtx (jMsg 1).msg) = none := by unfold headOf; decide +kernel
theorem test_juggler_no_context : ((KV.get {} ((run (.run 0) (sJug (jMsg 1))).core 0).jug.counts 0).kept.map (fun x => x.2.1 % 256)) = [BitVec.ofNat 64 jNoCtx] := by decide +kernel

/-! ### Launches, waves, collectives -/

/-- Partition 0, with a cached writable page of physical address 0x10000 at the base of the window. -/
def sPart : State := { s0 with parts := [(0, p0)], tlb := [{ unit := engineUnit 4 0, part := 0, page := 0x10000000, leaf := 0x100C7, level := 0 }], launches := [(0, { st := .running })] }
def q0 : Queue := { qcb := globalBase, ring := globalBase + 0x1000, cring := globalBase + 0x2000 }
/-- QTAIL 1 in the control block. -/
def sLq : State := { sPart with queues := [(0, q0)], mem := Memory.writeN [] 0x10000 [1, 0, 0, 0] }
theorem wit_LaunchBegins : running sLq ∧ KV.find? sLq.queues (queueKey 0 0) = some q0 ∧ (sLq.part 0).en = true ∧ answers (readQcb q0 sLq) ([1, 0, 0, 0] ++ List.replicate 28 0) = true ∧ indicesOk q0 ([1, 0, 0, 0] ++ List.replicate 28 0) = true ∧
    indicesOk q0 ([0, 1] ++ List.replicate 30 0) = false ∧ qcbTail ([1, 0, 0, 0] ++ List.replicate 28 0) ≠ q0.head ∧ answers (partRead 0 q0.ring 128 (after (readQcb q0) sLq)) (List.replicate 128 0) = true ∧
    (let u := after (partRead 0 q0.ring 128) (after (readQcb q0) sLq); KV.find? u.launches (launchKey 0 0) ≠ none ∧ KV.find? u.launches (launchKey 0 1) = none) ∧
    ({} : Launch).st = .queued ∧ commandCheck sLq {} ≠ 0 ∧ ({} : Launch).after = 0 := by unfold running; decide +kernel
theorem wit_noLine : noLine (after (readQcb q0) sLq) ∧ noLine (after (partRead 0 q0.ring 128) (after (readQcb q0) sLq)) ∧ noLine sPart ∧ noLine s0 := by unfold noLine; decide +kernel
theorem test_launch_take : KV.find? (run (.launchTake 0 0) sLq).launches (launchKey 0 1) = some { lid := 1, cmd := List.replicate 128 0 } ∧ ((run (.launchTake 0 0) sLq).queue 0).head = 1 := by decide +kernel
theorem test_launch_refused : ((run (.launchWaiting 1) { sLq with launches := [(1, {})] }).launch 1).st = .refused := by decide +kernel
theorem wit_LaunchEnds : launchLive { s0 with slots := [] } 0 = false ∧ engineWork s0 0 = false ∧ messagesOut s0 0 = false ∧ storesOut s0 0 = false ∧ recordedWork s0 0 = false ∧ (s0.launch 0).st = .running ∧ LState.terminal .done = true ∧
    diff32 q0.ctail (qcbChead (List.replicate 32 0)) ≠ 2 ^ q0.clog ∧ diff32 16 (qcbChead (List.replicate 32 0)) = 2 ^ q0.clog := by decide +kernel
theorem wit_QueuesAndObjects : qcbStop (List.replicate 12 0 ++ [0x10] ++ List.replicate 19 0) = true ∧ q0.stopping = false ∧ q0.stopSeen = false ∧ objectBusy sPart 0 0 = true ∧ objectBusy { sPart with launches := [] } 0 1 = false ∧ q0.launches = [] ∧ (loadCheck sPart 0 globalBase []).2 = none ∧ KV.find? sPart.objs (objKey 0 1) = none ∧
    KV.find? ({ sPart with objs := [(objKey 0 1, { part := 0, id := 1 })] } : State).objs (objKey 0 1) ≠ none ∧ (∀ x ∈ sPart.launches, x.2.objKey ≠ objKey 0 1) ∧ (∃ x ∈ sPart.launches, x.2.objKey = objKey 0 0) := by decide +kernel
/-- A wave of both cells, at its end. -/
def wv0 : Wave := { num := 1, launch := 0, org := org0, src := 0, closure := [0, 1] }
def tabW : Table := { tab0 with cells := [{ dep := [1], hold := .wave 1, vb := 0x100000000100, vp := 0x100000000200, va := 0x100000000300 }, {}], started := 1, waves := [{ wv0 with closure := [0] }] }
def sWave : State := { sPart with tables := [(0, tabW)] }
theorem wit_WaveEvents : (sWave.table 0).waves = [{ wv0 with closure := [0] }] ∧ launchEnding sWave 0 = false ∧ pins (sWave.table 0) { wv0 with closure := [0] } = [] ∧ ({ wv0 with closure := [0] } : Wave).unmarked = 0 ∧ (sWave.table 0).unpublished < 64 ∧ launchEnding { sWave with launches := [(0, { st := .ending })] } 0 = true ∧
    pins { tab0 with cells := [{ wa := 1, wb := some 2 }], views := [{ act := 1, gen := 1, handle := 0 }] } { wv0 with closure := [0] } ≠ [] ∧ ({ cell := 1, launch := 0, org := org0, record := none } : Edit).record = none ∧ tab0.inWave 1 = false ∧
    done (resolve (whoPart sWave 0) .engine Need.write ((sWave.table 0).cell 0).target 16 true sWave) := by decide +kernel
theorem test_wave_publish : ((run (.wavePublish 0) sWave).table 0).committed = 1 ∧ ((run (.wavePublish 0) sWave).table 0).waves = [] ∧ (((run (.wavePublish 0) sWave).table 0).cell 0).newest.1 = 1 := by decide +kernel
/-- A region at its end with a version of one scratchpad granule; and one of the same domain that is earlier. -/
def sEnd : State := { sReg .ending with versions := [{ rslot := 0, gran := spadLoc 0 0x400 / 16, bytes := List.replicate 16 7 }] }
def sLater : State := { sEnd with rslots := (1, { st := .open_, act := 2, key := 0 }) :: (0, { (sEnd.rslot 0) with key := 4 }) :: [] }
theorem wit_RegionCommits : commitReady { sReg .ending with versions := [] } 0 = true ∧ commitReady sEnd 0 = true ∧ (∀ v ∈ sEnd.versions, v.key = none ∧ v.bytes.length = 16) ∧ ((sEnd.versions.filter (fun v => v.rslot == 0)).map (fun v => v.gran)).Nodup ∧
    sEnd.poison = [] ∧ (sLater.rslot 1).live = true ∧ (sLater.rslot 1).domain = (sLater.rslot 0).domain ∧ placeLt (sLater.rslot 1).place (sLater.rslot 0).place = true := by decide +kernel
theorem test_region_commit : Memory.readN (run (.regionCommit 0) sEnd).mem (spadLoc 0 0x400) 16 = List.replicate 16 7 ∧ (run (.regionCommit 0) sEnd).versions = [] := by decide +kernel
/-- A command of R414: sum of f32, COUNT 1, alone in the collective, with a reply; TOEXP 16. -/
def collMsg : NetItem := { kind := .command, src := 0, launch := 0, ginst := 0, dst := 0, vcore := 0, data := [5, 1, 0, 0, 1] ++ List.replicate 59 0 }
theorem wit_Collectives : (∀ x ∈ s0.dies, x.2.colls = []) ∧ msgEop collMsg.data = 1 ∧ msgReply collMsg.data = true ∧ collCheck 0 collMsg.data ≠ 0 ∧ (s0.die 0).colls = [] := by decide +kernel
def coll0 : Coll := { launch := 0, ginst := 0, unit := 0, seq := 0, arrived := [{ rank := 0, org := org0, core := 0, msg := collMsg.data }], since := 0 }
theorem wit_Collectives_late : coll0.full = true ∧ coll0.late? (2 ^ 40) = true ∧ collPresent s0 coll0 = true ∧ (∀ a ∈ coll0.arrived, msgReply a.msg = true) ∧ collLast (patch collMsg.data (16 + 29) [1]) ≤ 2 ^ 32 := by decide +kernel

/-! ### Directory, ports, board -/

def sDir (d : DirEntry) (l2 : KV (Nat × Moesi)) : State := setDir 0x1000 d { s0 with dies := [(1, { l2 := l2 })] }
theorem wit_Directory : populated s0 0x1000 = true ∧ homeDie 0x1000 = 0 ∧ probeAnswer s0 1 0x1000 = none ∧ (dirEntry s0 0x1000).st = .uncached ∧ (dirEntry (sDir { st := .shared, present := [2] } []) 0x1000).st = .shared ∧
    (dirEntry (sDir { st := .owned 2, present := [2] } []) 0x1000).st = .owned 2 ∧ probeAnswer (sDir { st := .owned 1, present := [1] } [(0x40, (lineTag s0 0x1000, .m))]) 1 0x1000 = some .m := by decide +kernel
theorem wit_lineFree : lineFree 1 0x1000 s0 ∧ lineFree 1 0x1000 (sDir { st := .shared, present := [2] } []) := by unfold lineFree; decide +kernel
theorem wit_thirdDie : thirdDie 1 0x1000 2 ∧ thirdDie 1 0x1000 3 := by unfold thirdDie; decide +kernel
theorem test_dir_read : dirEntry (run (.dirRead 1 0x1000) s0) 0x1000 = { present := [1], st := .owned 1 } ∧ probeAnswer (run (.dirRead 1 0x1000) s0) 1 0x1000 = some .e := by decide +kernel
def sFab : State := sw (fun t => { t with wait := .fabric 1 0 0x100000000000 0 })
theorem wit_FabricAccesses : (sFab.slot 0).wait = .fabric 1 0 0x100000000000 0 ∧ ({ sFab with cycle := 2 ^ 22 } : State).cycle = 0 + 2 ^ 22 ∧ (s0.part 0).en = false ∧ heldByOther s0 none 0x1000 = false ∧
    exportsTo { sPart with mem := Memory.writeN [] 8 (leBytes 8 (1 + 2 ^ 57 + 3 * 2 ^ 42)) } 0 3 0 = true ∧ rangeHas (sPart.part 0) 0x2000 = true ∧ poisonIn sPart 0x2000 8 = none := by decide +kernel
/-- A flow: key 0 of type 2, and the port pointer at entry 0 of the root. -/
def sFlow : State := { sPart with parts := [(0, { p0 with image := 2 })], keys := [(0, { typ := 2, part := 0, mat := [] })], mem := Memory.writeN [] 0 (leBytes 8 0x3001), board := { s0.board with stage := .s2 } }
theorem wit_PortLandings : flowAt s0 0 = none ∧ s0.board.stage = .s0 ∧ flowAt sFlow 0 = some (0, 0, 0x3000) ∧ sFlow.board.stage = .s2 ∧ flowBad sFlow 0 0 (flowOf sFlow 0x3000) = true ∧ flowPoison sFlow 0x3000 = none ∧
    heldByOther sFlow none 0x3000 = false ∧ heldByOther sFlow none 0x3040 = false := by decide +kernel
theorem wit_PortTransmission : flowAt sFlow ((sFlow.part 0).keybase + 0) = some (0, 0, 0x3000) ∧ sFlow.board.txWrites = [] ∧ ({ sFlow with clusters := [] } : State).cluster 0 = {} ∧ flowPoison sFlow 0x3000 = none ∧ (txOf sFlow 0 0).out = [] ∧ ({ out := [none] } : TxFlow).out = [none] := by decide +kernel
/-- The flow with a scratchpad ring of 16 slots of 256 bytes at 0x1000 of core 0, DROP-OLD (R422); RXHEAD 0 and a given RXTAIL. -/
def sRing (flags tail : Nat) : State :=
  { sFlow with mem := Memory.writeN (Memory.writeN sFlow.mem 0x3000 ([BitVec.ofNat 8 flags, 1, 8, 4] ++ List.replicate 12 0 ++ leBytes 8 0x1000)) 0x3020 (leBytes 8 tail) }
theorem wit_PortLandings_ring : flowBad (sRing 0x29 16) 0 0 (flowOf (sRing 0x29 16) 0x3000) = false ∧ (flowOf (sRing 0x29 16) 0x3000).policy = 1 ∧ flowAt (sRing 0x29 16) 0 = some (0, 0, 0x3000) ∧ 2 ^ 4 ≤ flowField (sRing 0x29 16) 0x3000 32 8 ∧
    (flowOf (sRing 0x29 16) 0x3000).hnd = false ∧ (flowOf (sRing 0x61 0) 0x3000).hnd = true ∧ flowBad (sRing 0x61 0) 0 0 (flowOf (sRing 0x61 0) 0x3000) = false ∧ KV.find? (sRing 0x61 0).launches (launchKey 0 0) = some { st := .running } ∧
    ((sRing 0x61 0).obj 0).handlers.length ≤ (flowOf (sRing 0x61 0) 0x3000).hidx := by decide +kernel
/-- DROP-OLD: RXHEAD 1, RXTAIL 17, one record lost; a handler that is not there: CFGERR 1. -/
theorem test_port_drop_old : let t := run (.portLanding 0 0 0 true [9]) (sRing 0x29 16)
    flowField t 0x3000 24 8 = 1 ∧ flowField t 0x3000 32 8 = 17 ∧ flowField t 0x3000 40 8 = 1 ∧ Memory.readN t.mem (spadLoc 0 0x1010) 1 = [9] := by decide +kernel
theorem test_port_no_handler : flowField (run (.portLanding 0 0 0 true [9]) (sRing 0x61 0)) 0x3000 124 4 = 1 := by decide +kernel
/-- A reported write of TXTAIL by cluster 0, which may not transmit: DENY 1. -/
def sTail : State := { sRing 0x81 0 with board := { sFlow.board with txWrites := [{ entry := 0x3000, writer := 0, value := 5 }] }, clusters := [] }
theorem wit_PortTransmission_write : sTail.board.txWrites = [] ++ { entry := 0x3000, writer := 0, value := 5 } :: [] ∧ (flowOf sTail 0x3000).txen = true ∧ (sTail.cluster 0).clperm.getLsbD 7 = false ∧ heldByOther sTail none 0x3040 = false := by decide +kernel
theorem test_port_deny : flowField (run (.portTransmit 0 0 0) sTail) 0x3000 120 4 = 1 ∧ (run (.portTransmit 0 0 0) sTail).board.txWrites = [] := by decide +kernel
theorem test_port_uncounted : (run (.portLanding 3 0 0 true []) s0).board.counts = [(70, 1)] := by decide +kernel
theorem wit_MonitorStart : ({ s0 with board := { s0.board with stage := .s1 } } : State).board.stage = .s1 ∧ s0.board.recovery = 0 ∧ (List.replicate 3 (0 : Byte)).length ≤ 2 ^ 24 ∧ blobOk [] = false := by decide +kernel
theorem wit_MailboxAnswers : s0.board.stage = .s0 ∧ sFlow.board.stage = .s2 ∧ running sFlow ∧ (List.replicate 64 (0 : Byte)).length = 64 ∧ sFlow.board.identity = false := by unfold running; decide +kernel
theorem test_telem_early : (run .telem s0).board.answer = [1] := by decide +kernel
theorem wit_TelemetryAndThrottle : ({ s0.board with stage := .s1 } : Board).telemNext ≤ 0 ∧ (0 : Nat) < 2 ^ 21 ∧ (∃ x ∈ [0, 16 * 105], 16 * 105 ≤ x) ∧ (∀ x ∈ s0.board.temps, x < 16 * 95) := by decide +kernel
theorem wit_FatalErrorsAndLinks : linkExists 5 = true ∧ 5 ∉ s0.board.linksDown ∧ sFlow.board.stage ≠ .s0 ∧ populated sFlow 0x2000 = true ∧ (poisonIn { sFlow with poison := [(0x200, true)] } (0x2000 / 64 * 64) 64).isSome = true ∧ 0x2000 / 64 ∉ sFlow.poisonSeen := by decide +kernel
theorem wit_FatalErrorsAndLinks_counts : sFlow.board.stage = .s2 ∧ KV.get 0 sFlow.board.crossed 18 < (KV.get 0 (KV.modify 0 [(18, 1023)] 18 (· + 1)) 18) / 1024 ∧
    (KV.get 0 (KV.modify 0 sFlow.board.counts 18 (· + 1)) 18) / 1024 ≤ KV.get 0 sFlow.board.crossed 18 := by decide +kernel
theorem wit_FatalErrorsAndLinks_memory : vitalLine 0x1280040000 = true ∧ vitalLine 0x1280043FFF = true ∧ vitalLine 0x1280044000 = false ∧ vitalLine 0x128003FFFF = false := by decide +kernel

/-! ### The machine as a whole -/

/-- A control core at M whose program counter stands at a `nop` in physical memory, asked to issue. -/
def nopBytes : List Byte := (encode (.nop e0)).getD []
def sIssue : State := { sm with agenda := [.issue 0x8000], slots := [(0x8000, { st := .active, act := 1, pc := globalBase + 0x1000 })], mem := Memory.writeN [] 0x1000 nopBytes }
theorem wit_StepRunsDecoded : sIssue.agenda = [.issue 0x8000] ∧ running sIssue ∧ (sIssue.slot 0x8000).st = .active ∧ (sIssue.slot 0x8000).parkable = false ∧ inRestart sIssue (sIssue.slot 0x8000) = false ∧ (sIssue.slot 0x8000).pc % 32 ≠ 28 ∧
    (sIssue.slot 0x8000).payload = none ∧ (sIssue.slot 0x8000).readyAt ≤ sIssue.cycle ∧ outranked { sIssue with agenda := [] } 0x8000 = false ∧ unitBusy sIssue (coreOf 0x8000) (.nop e0) = false ∧
    done (fetchBytes 0x8000 (globalBase + 0x1000) sIssue) ∧ poisonIn sIssue 0x1000 8 = none := by unfold running; decide +kernel
theorem test_step_nop : (match step sIssue with | .next t => (t.slot 0x8000).pc | _ => 0) = globalBase + 0x1008 := by decide +kernel
theorem wit_StepRunsDecoded_decode : (match decode 0 nopBytes with | .ok (i, n) => i == .nop e0 && n == 8 | _ => false) = true := by decide +kernel
theorem wit_IssueChecks : opcodeOf (.add eR) = some (0x02, eR) ∧ (s0.slot 0).st = .active ∧ permitsOpc none 0xEC 0 = false ∧ admitted 0x02 eR 0 (s0.slot 0) = none ∧ replyWait { eR with wait := 0 } { t0 with replies := 1 } = true ∧
    replyWait eR t0 = false ∧ loadsClear 0x02 eR t0 = true ∧
    loadsClear 0x02 eR { t0 with loads := [{ vec := false, reg := 9, va := 0, loc := 0, bytes := 4 }] } = false ∧ t0.p 0 = true ∧ featureOf 0xC1 ≠ none ∧ (({ t0 with feat := 1 } : Slot).feat.testBit 5) = false := by decide +kernel
theorem wit_RegisterOnlyFrame : opcodeOf (.add eR) = some (0x02, eR) ∧ ready 0x02 eR s0 ∧ encOk 0x02 eR = true ∧ ready 0x80 { eR with typ := 6 } s0 ∧ encOk 0x80 { eR with typ := 6 } = true := by unfold ready; decide +kernel
theorem wit_regOrNone : regOrNone (.reg 9) ∧ regOrNone .none := by constructor <;> intro n m <;> exact ⟨by simp, by simp⟩
theorem wit_EncodeDecode : (Instr.add eR).wf = true ∧ (encode (.add eR)).isSome = true ∧ 24 % 32 + ((encode (.add eR)).getD []).length ≤ 32 := by decide +kernel
theorem wit_StepKeepsCanonical : canonical sIssue := by unfold canonical; decide +kernel
theorem wit_Select : ready 0x0F { eR with a := .chan 0, c := .reg 1 } sq ∧ bound { eR with a := .chan 0, c := .reg 1 } sq ∧ ((sq.slot 0).chan 0).entries = [5] := by unfold ready bound; decide +kernel
theorem wit_BitwiseLanes : ready 0x91 { eR with c := .reg 11, typ := 6 } s0 ∧ bound { eR with c := .reg 11, typ := 6 } s0 ∧ fmtWidth 6 ∈ [8, 16, 32, 64] ∧ ready 0x8A eR s0 ∧ done (readV 0 (.reg 9) s0) ∧ done (writeV 0 (.reg 8) 0 s0) := by unfold ready bound; decide +kernel
theorem wit_WatchdogLimits : isCtl 0 = false ∧ (s0.slot 0).launch = some 0 ∧ (s0.slot 0).boundary = false ∧ (s0.launch 0).st.terminal = false ∧ (s0.launch 0).fault = none ∧ (s0.cycle : Int) - (s0.slot 0).wdBase < 2 ^ 24 := by decide +kernel

/-! ### Results: the manual's worked examples, and hand calculation from its rules -/

/-- The act's x8 after an instruction with D = x8, A = x9 = a, B = x10 = b. -/
def x8 (f : Enc → Instr) (typ : BitVec 4) (var : BitVec 4) (a b : Word) : Word := (ran (f { eR with typ := typ, var := var }) (sx a b 0)).x 8
/-- v8 to v10 hold a, b and c. -/
def sv (a b c : Vec) : State := sw (fun t => { t with v := [(9, a), (10, b), (11, c)] })
/-- v8 after a vector instruction of v9 = a, v10 = b and v11 = c. -/
def v8 (f : Enc → Instr) (typ : BitVec 4) (var : BitVec 4) (a b c : Vec) : Vec := (ran (f { eR with c := .reg 11, typ := typ, var := var }) (sv a b c)).vreg 8

/-- R113, R44: 127 + 1 in s8 wraps, or is clamped with SA. -/
theorem test_add : x8 .add 0 0 0x7F 1 = 0xFFFFFFFFFFFFFF80 ∧ x8 .add 0 1 0x7F 1 = 0x7F ∧ (ran (.add { eR with typ := 0, var := 1 }) (sx 0x7F 1 0)).fcs = 0x200 := by decide +kernel
theorem test_sub : x8 .sub 4 0 0 1 = 0xFF ∧ x8 .sub 4 1 0 1 = 0 := by decide +kernel
theorem test_mul : x8 .mul 5 0 0xFFFF 2 = 0xFFFE ∧ x8 .mulh 3 0 (-1) 1 = -1 ∧ x8 .mulh 7 0 (-1) 2 = 1 := by decide +kernel
theorem test_div : x8 .div 0 0 0xF9 2 = -3 ∧ x8 .rem 0 0 0xF9 2 = -1 ∧ x8 .div 4 0 7 0 = 0xFF ∧ x8 .rem 4 0 7 0 = 7 ∧ x8 .div 0 0 0x80 0xFF = 0xFFFFFFFFFFFFFF80 := by decide +kernel
theorem test_div_flag : (ran (.div { eR with typ := 4 }) (sx 7 0 0)).fcs = 0x80 := by decide +kernel
theorem test_logic : x8 .and 0 0 12 10 = 8 ∧ x8 .and 0 1 12 10 = 4 ∧ x8 .or 0 0 12 10 = 14 ∧ x8 .xor 0 0 12 10 = 6 := by decide +kernel
theorem test_shift : x8 .shl 0 0 1 65 = 2 ∧ x8 .shr 0 0 (-1) 63 = 1 ∧ x8 .sra 0 0 (-8) 2 = -2 := by decide +kernel
theorem test_cmp : (ran (.cmp { eR with d := .reg 1, var := 2, typ := 0 }) (sx 0xFF 1 0)).p 1 = true ∧ (ran (.cmp { eR with d := .reg 1, var := 2, typ := 4 }) (sx 0xFF 1 0)).p 1 = false := by decide +kernel
theorem test_sel : (ran (.sel { eR with c := .reg 0 }) (sx 7 9 0)).x 8 = 7 ∧ (ran (.sel { eR with c := .reg 1 }) (sx 7 9 0)).x 8 = 9 := by decide +kernel
theorem test_lea : x8 .lea 0 4 0x100 3 = 0x130 := by decide +kernel
theorem test_bit_counts : (ran (.bit { eR with var := 3, b := .none }) (sx 0xF0 0 0)).x 8 = 4 ∧ (ran (.bit { eR with var := 4, b := .none }) (sx 0xF0 0 0)).x 8 = 56 ∧ (ran (.bit { eR with var := 5, b := .none }) (sx 0xF0 0 0)).x 8 = 4 := by decide +kernel
theorem test_x0 : (ran (.add { eR with typ := 7, d := .reg 0 }) (sx 1 2 0)).x 0 = 0 := by decide +kernel
/-- R119, R121: a call of F = 8, and the caller's x16 as the callee's x8. -/
theorem test_call : (ran (.call eCall) (sw (fun t => { t with win := [(8, 5)] }))).pc = 0x100000000040 ∧ (ran (.call eCall) (sw (fun t => { t with win := [(8, 5)] }))).x 8 = 5 ∧ (ran (.call eCall) s0).frames.length = 1 := by decide +kernel
theorem test_ret : (ran (.ret e0) (sf 1)).pc = 0x100000000040 ∧ ended (.ret e0) s0 = some Cause.stack := by decide +kernel
theorem test_branch : (ran (.br eBr) (sx 0 0 0)).pc = 0x100000000040 ∧ (ran (.br eBr) (sx 1 0 0)).pc = 0x10000000000C ∧ (ran (.loop eLoop) (sx 2 0 0)).x 9 = 1 ∧ (ran (.loop eLoop) (sx 1 0 0)).pc = 0x10000000000C := by decide +kernel
theorem test_jump_unaligned : ended (.jmp { e0 with a := .reg 9 }) (sx 2 0 0) = some Cause.pcAlign := by decide +kernel
theorem test_endact : (ran (.endact e0) s0).st = .free ∧ (run (.endact e0) s0).launches = [(0, { st := .draining })] := by decide +kernel
theorem test_trap : ended (.trap (eI 9)) s0 = some Cause.trap ∧ (ran (.trapBrk (eI 9)) s0).st = .halted := by decide +kernel
theorem test_cwr : (ran (.cwr { e0 with a := .reg 9, ext := .imm32 2 }) (sx 0xFFFF 0 0)).fcs = 0x3F3 ∧ (ran (.cwr { e0 with a := .reg 9, ext := .imm32 5 }) (sx 3 0 0)).rto = 16 := by decide +kernel
/-- R34, R65: an instruction whose guard is false does nothing but complete. -/
theorem test_guard : (ran (.add { eR with typ := 7, ga := ⟨false, 1⟩ }) (sx 1 2 0)).x 8 = 0 ∧ (ran (.add { eR with typ := 7, ga := ⟨true, 1⟩ }) (sx 1 2 0)).x 8 = 3 := by decide +kernel
/-- R128: an entry put is got again, first in first out. -/
theorem test_channels : ((ran (.qput { e0 with d := .chan 0, a := .reg 9 }) sq).chan 0).entries = [5, 0] ∧ (ran (.qget { e0 with d := .reg 8, a := .chan 0 }) sq).x 8 = 5 ∧ ((ran (.qget { e0 with d := .reg 8, a := .chan 0 }) sq).chan 0).entries = [] := by decide +kernel
theorem test_tagal : (ran (.tagal { e0 with d := .reg 8 }) stag).x 8 = 1 ∧ (ran (.qstat { e0 with d := .reg 8, a := .chan 0 }) sq).x 8 = 0x30011 := by decide +kernel
/-- R171: a load sees the slot's own store, little-endian, and extends by its type. -/
theorem test_load : (ran (.ld { eM with d := .reg 8 }) sSt).x 8 = 0x04030201 ∧ (ran (.ld { eM with typ := 0, d := .reg 8 }) (sw (fun t => { t with win := [(1, 0x400)], store := [{ loc := spadLoc 0 0x400, op := .bytes [0x80] }] }))).x 8 = 0xFFFFFFFFFFFFFF80 := by decide +kernel
theorem test_store : (ran (.st { eM with c := .reg 11 }) (sx 0x400 0 0xA1B2C3D4)).store.map (fun x => x.op) = [.bytes [0xD4, 0xC3, 0xB2, 0xA1]] ∧ ended (.st { eM with c := .reg 11 }) (sx 0x402 0 0) = some (Cause.misalign + 2) := by decide +kernel
theorem test_full_empty : completes (.ldfe { eR with b := .reg 0 }) (setFe (sx 0x400 0 0) (spadLoc 0 0x400) true) ∧ ¬ completes (.ldfe { eR with b := .reg 0 }) (setFe (sx 0x400 0 0) (spadLoc 0 0x400) false) := by decide +kernel
theorem test_cas : Memory.readN (run (.cas { eAmo with c := .reg 11 }) (sx 0x400 0 7)).mem (spadLoc 0 0x400) 4 = [7, 0, 0, 0] ∧ Memory.readN (run (.cas { eAmo with c := .reg 11 }) (sx 0x400 1 7)).mem (spadLoc 0 0x400) 4 = [0, 0, 0, 0] := by decide +kernel
theorem test_hold : (ran (.hold eR) (smx 0x100000001000 8)).hold = some (0x40, 8) ∧ ended (.hold eR) (sx 0x400 8 0) = some (Cause.space + 3) := by decide +kernel

/-- The vector example of spec/06_vector_instructions.md: `vscan.iadd.s32` and `vscan.eadd.s32`. -/
theorem test_vscan : v8 .vscan 2 0 (v4 3 1 4 1) (v4 0 0 0xFFFFFFFF 0) 0 = v4 3 4 4 5 ∧ v8 .vscan 2 4 (v4 3 1 4 1) (v4 0 0 0xFFFFFFFF 0) 0 = v4 0 3 0 4 := by decide +kernel
theorem test_vadd_f32 : v8 .vadd 13 0 (v4 0x3F800000 0x40000000 0x7F800000 0) (v4 0x40000000 0xC0000000 0xFF800000 0x80000000) 0 = v4 0x40400000 0 0x7FC00000 0 := by decide +kernel
theorem test_vadd_sat : v8 .vadd 0 1 0x7F 1 0 = 0x7F ∧ v8 .vsub 4 0 0 1 0 = 0xFF := by decide +kernel
theorem test_vmul : v8 .vmul 13 0 (v4 0x40000000 0 0 0) (v4 0x40400000 0 0 0) 0 = v4 0x40C00000 0 0 0 ∧ v8 .vmulh 4 0 0xFF 0xFF 0 = 0xFE := by decide +kernel
theorem test_vfma : v8 .vfma 13 0 (v4 0x40000000 0 0 0) (v4 0x40400000 0 0 0) (v4 0x3F800000 0 0 0) = v4 0x40E00000 0 0 0 := by decide +kernel
theorem test_vmin : v8 .vmin 13 0 (v4 0x80000000 0 0 0) 0 0 = v4 0x80000000 0 0 0 ∧ v8 .vmax 0 0 0xFF 0 0 = 0 := by decide +kernel
theorem test_vshift : v8 .vsra 0 0 0x80 7 0 = 0xFF ∧ v8 .vshl 4 0 0x81 1 0 = 2 := by decide +kernel
theorem test_vcmp : v8 .vcmp 2 2 (v4 0xFFFFFFFF 1 0 0) (v4 0 0 0 0) 0 = v4 0xFFFFFFFF 0 0 0 := by decide +kernel
theorem test_vclz : v8 .vclz 4 0 1 0 0 = 0x08080808080808080808080808080807 ∧ v8 .vpopc 4 0 0xF1 0 0 = 5 ∧ v8 .vavg 4 0 3 4 0 = 4 ∧ v8 .vavg 4 1 3 4 0 = 3 := by decide +kernel
theorem test_vspecial : v8 .vrcp 13 0 (v4 0x40000000 0x40000000 0x40000000 0x40000000) 0 0 = v4 0x3F000000 0x3F000000 0x3F000000 0x3F000000 ∧ (rsqF32 0x40800000).1 = 0x3F000000 ∧ (exp2F32 0x40400000).1 = 0x41000000 ∧ (log2F32 0x41000000).1 = 0x40400000 ∧
    (rcpF32 0).1 = 0x7F800000 := by decide +kernel
/-- R154: byte k of the control takes byte k of A then B; a set top bit gives zero. -/
theorem test_vperm : permute 0x0F0E0D0C0B0A09080706050403020100 0 0x808080808080808080808080801F0203 = 0x000203 := by decide +kernel
theorem test_vshuf : shuffle 2 (v4 10 11 12 13) (v4 20 21 22 23) 0xFC0 = v4 10 10 23 23 := by decide +kernel
theorem test_vext : (ran (.vext { eR with typ := 2, b := .none, ext := .imm32 1 }) (sv (v4 0 0xFFFFFFFF 0 0) 0 0)).x 8 = 0xFFFFFFFFFFFFFFFF := by decide +kernel
theorem test_vmask : maskVec 2 0 0b0101 = v4 0xFFFFFFFF 0 0xFFFFFFFF 0 ∧ maskVec 2 1 3 = v4 0xFFFFFFFF 0xFFFFFFFF 0xFFFFFFFF 0 := by decide +kernel
/-- The LB4 example of spec/02_number_formats.md: 1.5, -0.25, 0.375 and 0.1 in RNE; NX is raised. -/
theorem test_lb4 : lbEncode 0x11 .rne ([0x3FC00000, 0xBE800000, 0x3EC00000, 0x3DCCCCCD] ++ List.replicate 12 0) = ((0x7D, 0xFE, 0x1396), Fl.nx) := by decide +kernel
/-- The dot product example of spec/02_number_formats.md: 32 products in two groups give 5.0. -/
def bf (x : Nat) : FVal × FVal := (decodeFlt 0x0C x, .fin false 1 0)
theorem test_dot_groups : (dotScaled 0 2 ([bf 0x4580, bf 0x3F80, bf 0x3F80] ++ List.replicate 13 (bf 0) ++ [bf 0xC580, bf 0x4040] ++ List.replicate 14 (bf 0))
    ([bf 0x4580, bf 0x3F80, bf 0x3F80] ++ List.replicate 13 (bf 0) ++ [bf 0x4580, bf 0x3F80] ++ List.replicate 14 (bf 0)) 0).1 = 0x40A00000 := by decide +kernel
/-- R38: bf16 halves of f32; e4m3 has no infinity. -/
theorem test_formats : encodeFlt 0x0C .rne false (decodeFlt 0x0D 0x3F808000) = (0x3F80, Fl.nx) ∧ encodeFlt 0x0C .rup false (decodeFlt 0x0D 0x3F808000) = (0x3F81, Fl.nx) ∧ decodeFlt 0x9 0x7E = .fin false 14 5 := by decide +kernel

/-! ### Privileged results -/

theorem test_mcall : ((run (.mcall (eI 0x40)) (ss 0 0)).slot 0x8000).ctl.mcause = 0xF1 ∧ ((run (.mcall (eI 0x40)) (ss 0 0)).slot 0x8000).ctl.mepc = 0x10000000000C ∧ ((run (.mcall (eI 0x40)) (ss 0 0)).slot 0x8000).ctl.mval = 0x40 ∧
    ((run (.mcall (eI 0x40)) (ss 0 0)).slot 0x8000).ctl.level = 2 := by decide +kernel
theorem test_eret : ((run (.eret e0) ((sM 0 0).modSlot 0x8000 (fun t => { t with ctl := { t.ctl with mepc := 0x80, mpl := 1 } }))).slot 0x8000).pc = 0x80 ∧
    ((run (.eret e0) ((sM 0 0).modSlot 0x8000 (fun t => { t with ctl := { t.ctl with mepc := 0x80, mpl := 1 } }))).slot 0x8000).ctl.level = 1 := by decide +kernel
theorem test_privilege : ended (.mcall (eI 0)) s0 = some Cause.privilege := by decide +kernel
theorem test_pcwr : pregRead (run (.pcwr (eW 0x101)) (sM 0x60 0)) 0x8000 0x101 = 0x60 := by decide +kernel
theorem test_interrupt : ((run (.interruptTaken 0x8000) sInt).slot 0x8000).ctl.scause = 0x8000000000000004 ∧ ((run (.interruptTaken 0x8000) sInt).part 0).pendQueue = false := by decide +kernel
theorem test_keyld : KV.find? (run (.keyld { eW 3 with d := .reg 8 }) sKey).keys 3 = some { typ := 1, part := 0, mat := List.replicate 64 7 } := by decide +kernel
theorem test_uipost : (((run (.uipost { eR with d := .reg 11 }) (sPost .active 0)).slot 0).chan 7).entries = [5] ∧ ((run (.uipost { eR with d := .reg 11 }) (sPost .parked 0)).slot 0).uints = [5] ∧ (ran (.uipost { eR with d := .reg 11 }) (sPost .parked 0)).x 11 = 7 := by decide +kernel
theorem test_halt : ((run (.haltStop { e0 with d := .reg 11, a := .reg 9 }) (sPost .active 0)).slot 0).st = .halted ∧ (ran (.haltPark { e0 with d := .reg 11, a := .reg 9 }) (sPost .active 0)).x 11 = 8 := by decide +kernel
/-- R24, R288: a region opens with the next generation, and RSW shows it. -/
theorem test_rbeg : ((run (.rbeg { e0 with d := .reg 8, ext := .imm64 1 }) sQ).slot 0).region = some 0 ∧ ((run (.rbeg { e0 with d := .reg 8, ext := .imm64 1 }) sQ).rslot 0).key = 1 := by decide +kernel
/-- R224: a store into cell 0 starts wave 1 over both cells. -/
theorem test_cst_go : ((run (.cstGo { eCst with c := .reg 0, e := .reg 12 }) ({ sCell h0 0x400 0 with parts := [(0, p0)] })).table 0).started = 1 ∧
    (((run (.cstGo { eCst with c := .reg 0, e := .reg 12 }) ({ sCell h0 0x400 0 with parts := [(0, p0)] })).table 0).waves.map (fun w => w.closure)) = [[0, 1]] := by decide +kernel
theorem test_device_reset : (run .deviceReset sFlow).board.stage = .s1 ∧ (run .deviceReset sFlow).mem = [] := by decide +kernel
theorem test_reset_canonical : canonical State.reset := by unfold canonical; decide +kernel
/-- An act in a region in RESTART, far behind its `rbeg`. -/
def sAgain : State :=
  let s := sQ.withFetchWord 128 0x0000000000050001_7801FFFFFE400703
  { s.modSlot 0 (fun t => { t with pc := 0x100000000400, region := some 0, snap := { t.snapshot with pc := 0x100000000000 } }) with
    rslots := [(0, { st := .restart, act := (s.slot 0).act, launch := 0, gen := 3 })] }
/-- R289: at the next instruction boundary the act of a region in RESTART goes back to its `rbeg`, which opens the region again. -/
theorem test_restart : (match step sAgain with | .next t => (t.rslot 0).st == .open_ && (t.slot 0).pc == 0x100000000010 && !t.idle | _ => false) = true := by decide +kernel

/-! ### Forms on registers, and messages in the simplest case -/

theorem wit_VectorRegisterForms : (∀ r ∈ vectorRows, ready r.2.1 { eR with typ := 6, c := .reg 11 } s0) ∧ onRegisters { eR with c := .reg 11 } ∧ eR.d = .reg (8 : Fin 32) := by
  refine ⟨fun r h => (wit_VectorsComplete r h).1, ?_, rfl⟩
  unfold onRegisters regOrNone; decide
theorem wit_MoveRegisterForms : (∀ o ∈ [0xA0, 0xA1, 0xA3, 0xA4, 0xA5, 0xAB, 0xAC, 0xAF, 0x92, 0xA7, 0xAA, 0xAE], ready o { eR with typ := 6, c := .reg 11, e := .reg 12 } s0) ∧
    onRegisters { eR with c := .reg 11, e := .reg 12 } ∧ (8 : Fin 32) ≠ 0 ∧ ready 0xAD { eR with c := .reg 11, e := .reg 12 } sDraw ∧ done (readSlice 0 (((sDraw.slot 0).x 9).toNat) sDraw) ∧
    tierOf (sBar 0 0 0) ((sBar 0 0 0).slot 0) ≠ 0 := by
  refine ⟨fun o h => (wit_MovesComplete.1 o h).1, ?_, by decide, ?_, by decide +kernel, by decide +kernel⟩
  · unfold onRegisters regOrNone; decide
  · unfold ready; decide +kernel
/-- A start message for core 0, with x1 = 5, in the network and in the inbox of core 0, whose slots are free. -/
def start0 : NetItem := { kind := .start, src := 16, launch := 0, ginst := 0, dst := 0, vcore := 0, isMessage := true, regs := [5] }
def sStart : State := { s0 with slots := [], net := [start0], cores := [(0, { inbox := [start0] })] }
theorem wit_MessageForms : arrivesBy false 0 start0 sStart ∧ launchEnding sStart 0 = false ∧ (sStart.launch 0).st.terminal = false ∧ start0.dst < farBase ∧ (sStart.core 0).inbox.length < 32 ∧ running sStart ∧ computeSlot 0 = true ∧
    (sStart.slot 0).st = .free ∧ (sStart.core 0).mx.owner = none ∧ (sStart.core 0).inbox = [start0] ∧ takeable sStart 0 start0 = true ∧ start0.formula = none ∧ start0.regs.length ≤ 7 := by
  unfold arrivesBy running; decide +kernel
theorem wit_MessageForms_retry : arrivesBy true 0 { start0 with retryAt := some 0 } { sStart with net := [{ start0 with retryAt := some 0 }] } :=
  ⟨by unfold running; decide +kernel, by decide +kernel, by decide +kernel, 0, rfl, by decide +kernel⟩
theorem wit_MessageForms_remote : ready 0x49 { eR with c := .reg 1 } sRem ∧ ready 0x4A { eR with d := .reg 1 } sRem ∧ (sRem.slot 0).wait = .remoteDone 0 5 ∧ running sReq ∧ (sReq.core 0).remote = [rem0] ∧ rem0.spec < 32 ∧ rem0.put = false ∧
    (sReq.slot rem0.target).st = .active ∧ 0 + rem0.timeout ≤ ({ sReq with cycle := 16 } : State).cycle ∧ rem0.tact = 0 := by unfold ready running; decide +kernel
theorem wit_MessageForms_copy : ready 0x6D { eR with c := .reg 11 } (sA 0x400 0x800 64) ∧ outbound (sA 0x400 0x800 64) 0 < 4 ∧ copyTurnOf (sCopy eCopy) 0 = true ∧ eCopying.len ≤ 64 - eCopying.dst % 64 ∧ eCopying.obj = none ∧
    ready 0x70 { e0 with ext := .imm32 2 } s0 ∧ (s0.core 0).copyq.length < 16 ∧ s0.net = [] ∧ (s0.slot 0).region = none ∧ joinQueues (sCopy { org := org0, join := some 5 }) 5 = [.copy 0] := by unfold ready; decide +kernel
theorem test_start : ((run (.inboxTake 0) sStart).slot 0).x 1 = 5 ∧ ((run (.inboxTake 0) sStart).slot 0).st = .active ∧ (run (.packetArrival 0) sStart).net = [] := by decide +kernel
theorem test_remote_timeout : ((run (.remoteTimeout 1) { sReq with cycle := 16, slots := [(1, { t0 with act := 2, wait := .remote 0 0 }), (0, { t0 with st := .halted })] }).slot 1).wait = .remoteDone 2 0 := by decide +kernel
theorem test_copy_sends : ((run (.copy { eR with c := .reg 11 }) (sA 0x400 0x800 64)).net.map (fun i => fieldAt i.data 32 8)) = [64] := by decide +kernel
theorem test_qfence : ((run (.qfence { e0 with ext := .imm32 2 }) s0).core 0).copyq.length = 1 ∧ ((run (.qfenceJoinComplete 5) (sCopy { org := org0, join := some 5 })).core 0).copyq = [] := by decide +kernel

/-! ### Further clauses -/

theorem wit_SplitPhaseBarriers_region : ¬ notInRegion sr ∧ notInRegion s0 ∧ ready 0x6B eR sr := by unfold notInRegion ready; decide +kernel
theorem wit_FullEmpty_setfe : ∀ loc, waiters (sA 0x400 2 0) loc = [] := fun _ => rfl
theorem wit_FullEmpty_takes : poisonIn (sA 0x400 0 0) (spadLoc 0 0x400) 16 = none ∧ done (takeV 0 (.reg 1) (serve (spadLoc 0 0x400) (setFe (sA 0x400 0 0) (spadLoc 0 0x400) true))) ∧
    poisonIn sCb (spadLoc 0 0x400) 16 = none ∧ (sCb.slot 0).wait = .none := by decide +kernel
theorem wit_Arrival_far : farBase ≤ farBase + 2 ^ 21 ∧ (KV.get ({} : Peer) [(16, ({ answers := true, takes := false } : Peer))] ((farBase + 2 ^ 21 - farBase) / 2 ^ 21 * 16 + 0)).takes = false := by decide +kernel
theorem wit_StackDot_stacks : dotStack (sDot (mxMsg 1)) (EngQ.who (sDot (mxMsg 1)) org0 (.dot 0)) (mxMsg 1).msg = none ∧ secondMismatch [] = none := by decide +kernel
theorem test_ldfe_served : (run (.setfeFull { eR with b := .reg 10 }) (sListed.modSlot 0 (fun t => { t with wait := .none, win := [(1, 0x400), (2, 1)] }))).fe ≠ [] := by decide +kernel
/-- R176: an `ldfe` that waits is performed when a store fills its granule. -/
theorem test_waiter_served : ((changeFe sListed (spadLoc 0 0x400) true).slot 0).wait = .served (spadLoc 0 0x400) 0 false := by decide +kernel

/-! ### The clauses of the other engines, waves and collectives -/

theorem wit_ScratchpadLoad_home : spadHome 0 sSt 0x400 4 0 (spadLoc 0 0x400) ∧ spadLoc 0 0x400 % 16 + 4 ≤ 16 ∧ quietAt sSt (spadLoc 0 0x400) ∧
    (poisonPart ({ sSt with poison := [(spadLoc 0 0x400 / 16, true)] } : State) (spadLoc 0 0x400) 4).isSome = true :=
  ⟨⟨0, 0x400, by decide +kernel⟩, by decide +kernel, .inl (by decide +kernel), by decide +kernel⟩
theorem wit_HoldsAndFences_region : ready 0x69 eR sr ∧ gives (readX sr.cur eR.a sr) 0 sr ∧ (sr.slot sr.cur).region ≠ none := by unfold ready; decide +kernel
def sKept : State := (sMx 5 0 0).modCore 0 (fun x => { x with mx := { x.mx with next := 6, status := [(5, 9)] } })
theorem wit_MatrixInstructions_kept : (sKept.core (coreOf 0)).mx.next = 6 ∧ (6 + 2 ^ 32 - 5 % 2 ^ 32) % 2 ^ 32 = 1 ∧ (sKept.core (coreOf 0)).mx.status.find? (fun x => x.1 == 5) = some (5, 9) := by decide +kernel
/-- `rwait` for a region of another act that is live; a formula act. -/
def sWaits : State := { sw (fun t => { t with act := 7, win := [(1, 3 * 2 ^ 10)] }) with rslots := [(0, { st := .open_, act := 1, launch := 0, gen := 3 })] }
theorem wit_RegionInspection_live : ready 0xE4 eR sWaits ∧ bound eR sWaits ∧ liveRegion sWaits (sWaits.slot 0) = none ∧ gives (readX 0 eR.a sWaits) (3 * 2 ^ 10) sWaits ∧ (sWaits.rslot 0).live = true ∧
    (sWaits.rslot 0).gen = 3 ∧ handleRsw sWaits (partOf sWaits 0) (3 * 2 ^ 10) ≠ 0 := by unfold ready bound; decide +kernel
def fm0 : Formula := { table := 0, cell := 1, wave := 1, round := 1 }
def sFormula : State := sw (fun t => { t with formula := some fm0 })
theorem wit_RegionInspection_formula : (sFormula.slot sFormula.cur).formula ≠ none ∧ ready 0xE0 eR sFormula ∧ ready 0xE1 eR sFormula ∧ ready 0xE2 eR sFormula ∧ ready 0xE4 eR sFormula ∧ bound eR sFormula := by unfold ready bound; decide +kernel
/-- A message to the Juggler. -/
theorem wit_SendCommand_juggler : ready 0x47 { e0 with a := .reg 8 } (smsg 3) ∧ headerOk (msgBytes ((smsg 3).slot 0) 8) = true ∧ msgTgt (msgBytes ((smsg 3).slot 0) 8) = 3 ∧
    ((jugRelease 0 (smsg 3)).core 0).jug.counts.length < 8 ∧ targetPermitted (smsg 3) 0 (msgBytes ((smsg 3).slot 0) 8) = true := by unfold ready; decide +kernel
/-- The image of a queue of partition 0 whose blocks lie in its cached page. -/
def qImg : Queue := { qcb := globalBase, ring := globalBase, cring := globalBase, rlog := 4, clog := 4, stopped := true }
def sImp : State := { sQueue with parts := sPart.parts, tlb := sPart.tlb }
theorem wit_QueueImages_queue : imageOk sImp 0 (fullImage sImp qImg) = true ∧ fieldAt (fullImage sImp qImg) 34 1 = 0 ∧ fieldAt (fullImage sImp qImg) 7 1 % 2 = 1 ∧ KV.find? sImp.queues 0 = some { stopped := true } := by decide +kernel
/-- A packet for a tag with a handler, and a command for each engine. -/
def sTag : State := (sx 0 0 0).modCore 0 (fun c => { c with tags := [{ ginst := 0, tag := 0, launch := 0, handler := some 2 }] })
def cmd (tgt : Byte) : NetItem := { kind := .command, src := 16, launch := 0, ginst := 0, dst := 0, vcore := 0, isMessage := true, data := tgt :: List.replicate 63 0 }
theorem wit_Arrival_handler : (tagOf sTag 0 0 0).map (fun t => t.handler) = some (some 2) ∧ boundAt sTag 0 0 0 = none ∧ (sTag.core 0).inbox.length < 32 ∧
    ∀ k : Fin 6, msgTgt (cmd (BitVec.ofNat 8 k)).data = k.val := by decide +kernel
theorem wit_Arrival_commands : ∀ k : Fin 6, arrivesBy false 0 (cmd (BitVec.ofNat 8 k)) { s0 with net := [cmd (BitVec.ofNat 8 k)] } := by unfold arrivesBy running; decide +kernel
/-- A start message that ADDR sent to core 0, all of whose slots are taken, still in the network. -/
def sFull : State := { s0 with slots := (List.range 4).map (fun k => (k, t0)), net := [{ start0 with affine := true }], cycle := 2048 }
theorem wit_CoreEvents_network : (∀ j ∈ (sFull.core 0).inbox, fallbackTo sFull 0 j = none) ∧ sFull.net = [] ++ { start0 with affine := true } :: [] ∧ coreFree sFull 0 = false ∧ (sFull.core 0).fullSince + 2048 ≤ sFull.cycle ∧
    ((clusterCores (clusterOf 0)).find? (fun k => k != 0 && coreFree sFull k && coreFits sFull k (sFull.launch 0).l1 (sFull.ginst 0).regions)).isSome = true := by decide +kernel
theorem test_fallback_network : ((run (.placementFallback 0) sFull).net.map (fun i => i.dst)) = [16] := by decide +kernel
/-- A sender whose core part is saved. -/
theorem wit_CopyEngine_absent : ¬ ((coreOfV ({ s0 with ginsts := [(0, { cores := [], ncores := 1, savedCores := [0] })] } : State) 0 0).isSome = true ∨
    0 ∉ (({ s0 with ginsts := [(0, { cores := [], ncores := 1, savedCores := [0] })] } : State).ginst 0).savedCores) := by decide +kernel
theorem wit_MatrixOutputs_release : ((sMx 0 0 0).core 0).mx.owner = some 0 ∧ mxOpen ({ sMx 0 0 0 with slots := [] } : State) 0 = [] ∧
    ∀ k : Fin 4, (({ sMx 0 0 0 with slots := [] } : State).slot (0 + k)).launch ≠ some 0 := by decide +kernel
/-- A ring of the two cells, of two rounds, whose first round has committed for cell 0. -/
def tabRing : Table := { tab0 with cells := [{ form := true, iter := true, rounds := 2, prec := [1], dep := [1], rank := 1, vp := 0x100000000000 }, { form := true, iter := true, rounds := 2, prec := [0], dep := [0], rank := 1, vp := 0x100000000000 }]
                                   waves := [{ wv0 with marked := 2, acts := [{ cell := 0, st := .committed, rank := 1, ring := [0, 1], rounds := 2 }, { cell := 1, st := .committed, rank := 1, ring := [0, 1], rounds := 2 }] }], started := 1 }
def sRingW : State := { sPart with parts := [(0, { p0 with rquota := 4 })], tables := [(0, tabRing)] }
theorem wit_WaveEvents_ring : ringOf tabRing.cells 0 = [0, 1] ∧ ringRounds tabRing.cells [0, 1] = 2 ∧ (tabRing.waves.map (fun w => ringTurn w [0, 1] 0 2)) = [true] ∧ partPhys sRingW 0 0x100000000000 = some 0x10000 ∧
    ((tabRing.waves.flatMap (fun w => w.acts)).map (fun a => (a.ring, decide (a.round < a.rounds)))) = [([0, 1], true), ([0, 1], true)] ∧ (formulaCore sRingW tabRing 0 0x10000).isSome = true ∧ freeRegions sRingW 0 0 ≠ [] := by decide +kernel
theorem test_further_round : ((run (.formulaActStart 0 1 0) sRingW).net.map (fun i => (i.kind == .start, i.formula))) = [(true, some { table := 0, cell := 0, wave := 1, round := 2 })] := by decide +kernel
theorem wit_WaveEvents_turn : startTurn { tabRing with waves := [{ wv0 with marked := 2, acts := [{ cell := 0 }] }] } { wv0 with marked := 2, acts := [{ cell := 0 }] } 0 = true ∧ ({ wv0 with marked := 2, acts := [{ cell := 0 }] } : Wave).acts.find? (fun x => x.cell == 0) = some { cell := 0 } := by decide +kernel
/-- A queued `cbind` of cell 1 to a handler the object has, and to one it has not. -/
def ed0 (h : Nat) : Edit := { cell := 1, launch := 0, org := org0, record := some (h, [0], false, 0) }
def sEdit (h : Nat) : State := { sPart with tables := [(0, { tab0 with edits := [ed0 h] })], objs := [(objKey 0 0, { part := 0, id := 0, handlers := [{ addr := 0x100000000000, frame := 0, feat := 1 }] })] }
theorem wit_WaveEvents_cbind : ((sEdit 0).table 0).inWave 1 = false ∧ ((sEdit 0).table 0).unpublished < 64 ∧ bindStatus ((sEdit 0).table 0).cells ((sEdit 0).obj (objKey 0 0)).handlers.length 1 (0, [0], false, 0) = 0 ∧
    bindStatus ((sEdit 1).table 0).cells ((sEdit 1).obj (objKey 0 0)).handlers.length 1 (1, [0], false, 0) ≠ 0 := by decide +kernel
theorem test_queued_cbind : ((run (.editTakeEffect 0) (sEdit 0)).table 0).started = 1 ∧ ((run (.editTakeEffect 0) (sEdit 1)).table 0).started = 0 ∧ ((run (.editTakeEffect 0) (sEdit 1)).table 0).edits = [] := by decide +kernel
theorem wit_WaveEvents_fault : isCtl 0 = false ∧ (sFormula.slot 0).formula = some fm0 ∧ (sFormula.slot 0).launch = some 0 ∧ (sFormula.launch 0).st.terminal = false ∧ (sFormula.launch 0).fault = none := by decide +kernel
/-- A command of a collective in the cluster: SRC 0x400, DST 0x800, COUNT elements of f32, sum, NPARTM1, RANK, ROOT 0, SEQ 0, no object, TOEXP 16, with a reply (R414). -/
def cMsg (eop : Byte) (rank last count : Nat) : List Byte :=
  [5, eop, 0, 0, 1] ++ List.replicate 11 0 ++ leBytes 8 0x400 ++ leBytes 8 0x800 ++ leBytes 4 count ++ [0x0D, 8] ++ leBytes 2 last ++ leBytes 2 rank ++ leBytes 2 0 ++ leBytes 4 0 ++ leBytes 4 0xFFFFFFFF ++ [16] ++ List.replicate 11 0
def cArr (eop : Byte) (rank last count : Nat) : CollArr := { rank := rank, org := org0, core := 0, msg := cMsg eop rank last count }
def cOf (eop : Byte) (last : Nat) : Coll := { launch := 0, ginst := 0, unit := barrierKey 1 0 0, seq := 0, arrived := [cArr eop 0 last 1], since := 0 }
def cItem (eop : Byte) (rank last count : Nat) : NetItem := { kind := .command, src := 0, launch := 0, ginst := 0, dst := 0, vcore := 0, data := cMsg eop rank last count }
/-- A launch of cluster tier, with one participant of a collective arrived at die 0, and the given commands waiting; SRC holds 5.0. -/
def sColl (c : List Coll) (i : List NetItem) : State :=
  { s0 with dies := [(0, { colls := c, collIn := i })], mem := Memory.writeN [] (spadLoc 0 0x400) (leBytes 4 0x40A00000), launches := [(0, { st := .running, cmd := leBytes 8 (2 ^ 16) ++ List.replicate 120 0 })] }
theorem wit_Collectives_check : (s0.launch 0).tier = 0 ∧ collCheck 1 (cMsg 1 1 1 1) = 0 ∧ collCheck 1 (cMsg 9 1 1 1) ≠ 0 := by decide +kernel
theorem wit_Collectives_named : (∃ x, findColl (sColl [cOf 1 1] []) 0 0 (barrierKey (collScope (cMsg 1 1 1 1)) 0 0) (collSeq (cMsg 1 1 1 1)) = some x) ∧ (cOf 1 1).full = false ∧ (cOf 1 1).late? 0 = false ∧ (cOf 1 1).late? (2 ^ 16 + 1) = true := by
  refine ⟨⟨(0, 0, cOf 1 1), by decide +kernel⟩, by decide +kernel⟩
theorem wit_noneFull : noneFull 1 0 (sColl [cOf 1 1] [cItem 1 1 1 2]) ∧ noneFull 1 0 (sColl [] [cItem 1 0 1 1]) := by
  constructor
  · intro c h _ _
    have e : ((sColl [cOf 1 1] [cItem 1 1 1 2]).die 0).colls = [cOf 1 1] := by decide +kernel
    rw [e, List.mem_singleton] at h; subst h; decide +kernel
  · intro c h
    have e : ((sColl [] [cItem 1 0 1 1]).die 0).colls = [] := by decide +kernel
    rw [e] at h; exact absurd h List.not_mem_nil
theorem wit_disagrees : disagrees (cOf 1 1) (cMsg 1 1 1 2) ∧ disagrees (cOf 1 1) (cMsg 1 0 1 1) ∧ ¬ disagrees (cOf 1 1) (cMsg 1 1 1 1) := by unfold disagrees; decide +kernel
theorem wit_answerable : answerable (cOf 1 1) (sColl [cOf 1 1] []) := by unfold answerable senderHere; decide +kernel
/-- R415: a COUNT that differs gives every participant status 5. -/
theorem test_mismatch : ((run (.allreduce 0) (sColl [cOf 1 1] [cItem 1 1 1 2])).net.map (fun i => fieldAt i.data 0 1)) = [5, 5] := by decide +kernel
theorem wit_CollectiveForms : collPresent (sColl [cOf 1 0] []) (cOf 1 0) = true ∧ (sColl [cOf 1 0] []).die 0 = { colls := [cOf 1 0] } ∧ answers (engineRead (whoEngine (sColl [cOf 1 0] []) 3 0 org0) 0x400 4 (sColl [cOf 1 0] [])) (leBytes 4 0x40A00000) = true ∧
    done (collStore (sColl [cOf 1 0] []) (cArr 1 0 0 1) (leBytes 4 0x40A00000) (sColl [cOf 1 0] [])) ∧ (collResult (cMsg 1 0 0 1) [leBytes 4 0x40A00000]).1 = leBytes 4 0x40A00000 ∧ ∀ k : Fin 4, msgEop (cMsg (BitVec.ofNat 8 k) 0 0 1) = k.val := by decide +kernel
theorem test_collective : ∀ x ∈ [(1, Instr.allreduce 0), (2, .reduce 0), (3, .bcast 0)], Memory.readN (run x.2 (sColl [cOf x.1 0] [])).mem (spadLoc 0 0x800) 4 = leBytes 4 0x40A00000 ∧
    ((run x.2 (sColl [cOf x.1 0] [])).net.map (fun i => fieldAt i.data 0 1)) = [0] := by decide +kernel
theorem test_collective_timeout : ((run (.collectiveTimeout 0 0) { sColl [cOf 1 1] [] with cycle := 2 ^ 16 + 1 }).net.map (fun i => (fieldAt i.data 0 1, fieldAt i.data 6 2))) = [(6, 1)] := by decide +kernel
theorem wit_Directory_room : unmarked s0 ∧ roomForLines 0x1000 s0 := ⟨fun _ => rfl, by unfold roomForLines; decide +kernel⟩

/-! ### Streams, global memory, accesses at rest -/

/-- The stream's descriptor; four words at its BASE; both directions, in index order. -/
def dS : SDesc := SDesc.ofBytes descBytes
def sStrm2 : State := { sStrm with mem := Memory.writeN [] (spadLoc 0 0x100) [1, 0, 0, 0, 2, 0, 0, 0, 3] }
theorem wit_StreamOperands_values : ((sStrm2.slot 0).strm 1).valid = true ∧ dS.position [0, 0, 0, 0, 0] < dS.total ∧ (∀ j : Fin 4, specElement dS j = 0x100 + 4 * j) ∧ dS.accessBytes = 4 ∧
    answers ((List.range 4).mapM (fun j => loadPiece 0 .load true (specElement dS j) 4) sStrm2) [[1, 0, 0, 0], [2, 0, 0, 0], [3, 0, 0, 0], [0, 0, 0, 0]] = true ∧
    done ((List.range 4).forM (fun j => storePiece 0 (specElement dS j) (leBytes 4 5) false) sStrm2) := by decide +kernel
theorem test_stream_source : answers (readV 0 (.strm 1) sStrm2) (v4 1 2 3 0) = true := by decide +kernel
/-- A lease of line 0x1000 in the L1 of a control core at M. -/
def lease0 : Lease := { loc := 0x1000, key := none, bytes := List.replicate 64 9, expiry := 100, at_ := 0 }
def sLease : State := (smx 0x100000001000 0).modCore (coreOf 0x8000) (fun c => { c with l1 := [lease0] })
theorem wit_GlobalLoad : ∀ s ∈ [smx 0x100000001000 0, sLease], gives (resolve (whoSlot s 0x8000) .load Need.read 0x100000001000 4 false s) { loc := 0x1000 } s = true ∧ isHbm 0x1000 = true ∧ (s.slot 0x8000).region = none ∧
    (∀ i : Fin 4, viewByte s (0x1000 + i) = none) ∧ (s.slot 0x8000).store = [] ∧ (s.slot 0x8000).loads = [] ∧ (s.slot 0x8000).past (s.slot 0x8000).order.addr = true ∧ s.poison = [] ∧ heldByOther s (some 0x8000) 0x1000 = false := by decide +kernel
theorem wit_GlobalLoad_lease : leased (smx 0x100000001000 0) (coreOf 0x8000) { loc := 0x1000 } 4 = none ∧ leased sLease (coreOf 0x8000) { loc := 0x1000 } 4 = some ([9, 9, 9, 9], none) := by decide +kernel
theorem test_leased_load : answers (loadPiece 0x8000 .load true 0x100000001000 4 0 sLease) [9, 9, 9, 9] = true ∧ answers (loadPiece 0x8000 .load true 0x100000001000 4 0 (smx 0x100000001000 0)) [0, 0, 0, 0] = true := by decide +kernel
/-- Bytes 1 to 64 at scratchpad address 0x400; x9 to x11 as given, and x12 = 16. -/
def sL (a b c : Word) : State := sw (fun t => { t with win := [(1, a), (2, b), (3, c), (4, 16)] }) |> fun s => { s with mem := Memory.writeN [] (spadLoc 0 0x400) ((List.range 64).map (fun k => BitVec.ofNat 8 (k + 1))) }
def sLc (b c : Word) : State := { sL h0 b c with tables := [(0, tab0)] }
theorem wit_atRest : atRest 0 (sL 0x400 5 0) ∧ atRest 0 sDesc ∧ atRest 0 (sLc 0x400 0) ∧ onRegisters eR := by
  refine ⟨⟨by decide +kernel, by decide +kernel, by decide +kernel, by decide +kernel, by decide +kernel, fun _ => rfl, by decide +kernel, by decide +kernel⟩,
    ⟨by decide +kernel, by decide +kernel, by decide +kernel, by decide +kernel, by decide +kernel, fun _ => rfl, by decide +kernel, by decide +kernel⟩,
    ⟨by decide +kernel, by decide +kernel, by decide +kernel, by decide +kernel, by decide +kernel, fun _ => rfl, by decide +kernel, by decide +kernel⟩, ?_⟩
  unfold onRegisters regOrNone; decide
theorem wit_AccessForms_streams : ready 0x45 { e0 with d := .strm 1, a := .reg 9 } sDesc ∧ (∀ k : Fin 4, placeOf sDesc (whoSlot sDesc 0) (0x400 + 16 * k) 16 = .spad 0 0 (0x400 + 16 * k)) ∧ sdescOk (Memory.readN sDesc.mem (spadLoc 0 0x400) 64) = true ∧
    ready 0x46 { e0 with d := .strm 1, a := .reg 9 } sDesc := by unfold ready; decide +kernel
theorem wit_AccessForms_granule : ready 0x63 { eR with b := .reg 0 } (sL 0x400 0 0) ∧ spadHome 0 (sL 0x400 0 0) 0x400 16 0 (spadLoc 0 0x400) ∧ feOf (setFe (sL 0x400 0 0) (spadLoc 0 0x400) true) (spadLoc 0 0x400) = true ∧
    feOf (setFe (sL 0x400 0 0) (spadLoc 0 0x400) false) (spadLoc 0 0x400) = false ∧ ready 0x64 { e0 with a := .reg 9, c := .reg 1 } (sL 0x400 0 0) ∧ ready 0x65 eR (sL 0x400 2 0) ∧
    placeOf (sL 0x400 2 0) (whoSlot (sL 0x400 2 0) 0) 0x400 32 = .spad 0 0 0x400 ∧ ready 0x71 eR (sL 0x400 0 0) ∧ (0x400 : Word).toNat % 16 = 0 :=
  ⟨by unfold ready; decide +kernel, ⟨0, 0x400, by decide +kernel⟩, by unfold ready; decide +kernel⟩
theorem wit_AccessForms_atomics : (∀ t ∈ [(0x2 : BitVec 4), 0x3, 0x6, 0x7, 0xD], ready 0x66 { eR with typ := t } (sL 0x400 5 0)) ∧ (∀ t ∈ [(0x2 : BitVec 4), 0x3, 0x6, 0x7], ready 0x67 { eR with typ := t, c := .reg 11 } (sL 0x400 5 0)) ∧
    (∀ w ∈ [4, 8], placeOf (sL 0x400 5 0) (whoSlot (sL 0x400 5 0) 0) 0x400 w = .spad 0 0 0x400) := by unfold ready; decide +kernel
theorem wit_AccessForms_cells : ready 0xC6 { eCst with e := .reg 12 } (sLc 0x400 0) ∧ namesCell (sLc 0x400 0) h0 0 0 ∧ (((sLc 0 0).table 0).cell 0).form = false ∧ (((sLc 0 0).table 0).cell 0).hold = .free ∧ freeStager ((sLc 0 0).table 0) = some 0 ∧
    ((sLc 0 0).slot 0).x 12 = 16 ∧ ready 0xC7 { eCst with e := .reg 12 } (sLc 0 0x400) ∧ ((sLc 0 0).slot 0).view = none ∧ (((sLc 0 0).table 0).cell 0).stale = false ∧ 0 + 16 ≤ ((((sLc 0 0).table 0).cell 0).sz + 15) / 16 * 16 := by
  unfold ready namesCell; decide +kernel
theorem test_stfe : feOf (run (.stfe { e0 with a := .reg 9, c := .reg 1 }) (sL 0x400 0 0)) (spadLoc 0 0x400) = true ∧ Memory.readN (run (.stfe { e0 with a := .reg 9, c := .reg 1 }) (sL 0x400 0 0)).mem (spadLoc 0 0x400) 16 = List.replicate 16 0 := by decide +kernel
theorem test_ldfe : (ran (.ldfe { eR with b := .reg 0 }) (setFe (sL 0x400 0 0) (spadLoc 0 0x400) true)).vreg 8 = 0x100F0E0D0C0B0A090807060504030201 := by decide +kernel
theorem test_amo_signed : (ran (.amo { eR with typ := 0x2 }) (sL 0x404 5 0)).x 8 = 0x08070605 ∧ Memory.readN (run (.amo { eR with typ := 0x2 }) (sL 0x404 5 0)).mem (spadLoc 0 0x404) 4 = [10, 6, 7, 8] := by decide +kernel
theorem test_cas_memory : Memory.readN (run (.cas { eR with typ := 0x6, c := .reg 12 }) (sL 0x400 0x04030201 0)).mem (spadLoc 0 0x400) 5 = [16, 0, 0, 0, 5] ∧ Memory.readN (run (.cas { eR with typ := 0x6, c := .reg 12 }) (sL 0x400 7 0)).mem (spadLoc 0 0x400) 4 = [1, 2, 3, 4] := by decide +kernel
theorem test_cst_go_bytes : (ran (.cstGo { eCst with e := .reg 12 }) (sLc 0x400 0)).x 8 = 1 ∧ (((run (.cstStage { eCst with e := .reg 12 }) (sLc 0x400 0)).table 0).cell 0).pend.take 3 = [1, 2, 3] := by decide +kernel

/-! ### More clauses -/

/-- `stfe` of a full granule; an `stfe` that waits, once it empties; `setfe` of none, and of a granule the slot has stored to. -/
def sWaitSt : State := setFe (sw (fun t => { t with wait := .listed 3 (spadLoc 0 0x400) 0 (.stfe 7) })) (spadLoc 0 0x400) true
theorem wit_FullEmpty_stfe : ready 0x64 { eR with b := .reg 0, c := .reg 1, d := .none } (setFe (sA 0x400 0 0) (spadLoc 0 0x400) true) ∧ bound { eR with b := .reg 0, c := .reg 1, d := .none } (setFe (sA 0x400 0 0) (spadLoc 0 0x400) true) ∧
    feOf (setFe (sA 0x400 0 0) (spadLoc 0 0x400) true) (spadLoc 0 0x400) = true ∧ waiters sWaitSt (spadLoc 0 0x400) = [(3, 0, .stfe 7)] ∧ feOf sWaitSt (spadLoc 0 0x400) = true ∧ isSpad (spadLoc 0 0x400) = true := by unfold ready bound; decide +kernel
theorem wit_FullEmpty_setfe_none : ready 0x65 eR (sA 0x400 0 0) ∧ gives (readX 0 eR.b (sA 0x400 0 0)) 0 (sA 0x400 0 0) = true ∧ ready 0x65 eR (sA 0x100000000400 0 0) ∧
    (∃ x ∈ (sSt.slot 0).store, x.touches (spadLoc 0 0x400) 16 = true) := by unfold ready; decide +kernel
theorem test_stfe_served : ((changeFe sWaitSt (spadLoc 0 0x400) false).slot 0).wait = .served (spadLoc 0 0x400) 0 false ∧ Memory.readN (changeFe sWaitSt (spadLoc 0 0x400) false).mem (spadLoc 0 0x400) 2 = [7, 0] := by decide +kernel
theorem test_setfe_none : (run (.setfeFull eR) (sA 0x100000000400 0 0)).fe = [] ∧ completes (.setfeFull eR) (sA 0x100000000400 0 0) := by decide +kernel
theorem wit_AtomicsComplete_misalign : ready 0x67 { eAmo with c := .reg 11 } (sA 0x402 5 0) ∧ (0x402 : Word).toNat % 4 ≠ 0 ∧ ready 0x71 eR (sA 0x408 0 0) ∧ (0x408 : Word).toNat % 16 ≠ 0 := by unfold ready; decide +kernel
theorem test_misalign : ended (.cas { eAmo with c := .reg 11 }) (sA 0x402 5 0) = some (Cause.misalign + 3) ∧ ended (.chunk eR) (sA 0x408 0 0) = some (Cause.misalign + 3) := by decide +kernel
theorem wit_AtomicAtHome_past : ((sA 0x400 5 0).slot 0).past ((sA 0x400 5 0).slot 0).order.srcs = true := by decide +kernel
theorem wit_HoldsAndFences_pref : ready 0x72 eR sr ∧ (sr.slot sr.cur).region ≠ none ∧ gives (readX sr.cur eR.a sr) 0 sr = true := by unfold ready; decide +kernel
/-- Each of the four queues full; a matrix unit of another launch, and one without an owner. -/
def eQf (q : BitVec 32) : Enc := { e0 with ext := .imm32 q }
def sQfull : State := (s0.modCore 0 (fun c => { c with copyq := List.replicate 16 eCopy, jug := { c.jug with queue := List.replicate 4 (jMsg 1) }, mx := { c.mx with owner := some 0, queue := List.replicate 8 (mxMsg 1) } })).modCluster 0
  (fun c => { c with sdq := List.replicate 8 (mxMsg 1) })
theorem wit_QueueFences_full : ∀ k : Fin 4, ready 0x70 (eQf (BitVec.ofNat 32 (2 ^ k.val))) sQfull ∧ (∃ j ∈ joinSet 0 (2 ^ k.val), j.depth ≤ (j.get sQfull).length) := by unfold ready; decide +kernel
theorem wit_QueueFences_unit : ready 0x70 (eQf 1) s0 ∧ (s0.core 0).mx.owner = none ∧ (∀ j ∈ joinSet 0 1, placeReady (s0.modCore 0 (fun c => { c with mx := { owner := some 0 } })) 0 j = true) ∧
    ((s0.modCore 0 (fun c => { c with mx := { c.mx with owner := some 9 } })).core 0).mx.owner ≠ some 0 := by unfold ready; decide +kernel
theorem test_qfence_takes : (((run (.qfence (eQf 1)) s0).core 0).mx.owner, ((run (.qfence (eQf 1)) s0).core 0).mx.queue.length) = (some 0, 1) ∧ ∀ k : Fin 4, ¬ completes (.qfence (eQf (BitVec.ofNat 32 (2 ^ k.val)))) sQfull := by decide +kernel
/-- A copy of LEN 0 that credits an object at 0xC00. -/
def eCopy0 : Entry := { eCopy with msg := [2, 1, 0xFF, 0xFF] ++ List.replicate 12 0 ++ leBytes 8 0x400 ++ leBytes 8 0x800 ++ leBytes 8 0 ++ leBytes 8 0xC00 ++ List.replicate 16 0 }
theorem wit_CopyEngine_credit : copyOk (sCopy eCopy0) (EngQ.who (sCopy eCopy0) org0 (.copy 0)) eCopy0.msg = true ∧ payAt eCopy0.msg 16 8 = 0 ∧ payAt eCopy0.msg 24 8 = 0xC00 ∧ headOf (.copy 0) eCopy0 (sCopy eCopy0) ∧ copyTurnOf (sCopy eCopy0) 0 = true ∧
    done (creditObj (EngQ.who (sCopy eCopy0) eCopy0.org (.copy 0)) eCopy0.org.launch (some 0xC00) 0 (sCopy eCopy0)) := by unfold headOf; decide +kernel
theorem wit_MatrixInstructions_errors : rowClean 0 0 5 64 (sMx 5 0 0) ∧ ¬ rowClean 0 0 0 16 ((sMx 0 0 0).modCore 0 (fun c => { c with mx := { c.mx with errs := [(0, true)] } })) := by unfold rowClean; decide +kernel
/-- The messages that start the acts of the other kinds. -/
def kindBox (k : NetKind) : NetItem := { pkt with kind := k, regs := [3, 4, 5], data := List.replicate 64 1 }
theorem wit_ActStart_kinds : ∀ k ∈ [NetKind.start, .code, .row, .port, .packet], let s := { sBox with cores := [(0, { inbox := [kindBox k] })] }
    takeable s 0 (kindBox k) = true ∧ (s.slot 0).st = .free ∧ (s.core 0).mx.owner = none ∧ running s := by unfold running; decide +kernel
theorem test_row_start : let t := (run (.inboxTake 0) { sBox with cores := [(0, { inbox := [kindBox .row] })] }).slot 0
    (t.x 1, t.x 2, t.x 3, t.vreg 27, t.vreg 28) = (3, 4, 0, 0, 0x01010101010101010101010101010101) := by decide +kernel
theorem test_packet_start : let t := (run (.inboxTake 0) { sBox with cores := [(0, { inbox := [kindBox .packet] })] }).slot 0
    (t.x 2, t.vreg 1) = (0, 0) := by decide +kernel
/-- Two start messages in the inbox of a full core, of which the first was not sent by ADDR. -/
def sFull2 : State := { sFull with net := [], cores := [(0, { inbox := [start0, { start0 with affine := true }] })] }
theorem wit_CoreEvents_inbox : fallbackTo sFull2 0 start0 = none ∧ fallbackTo sFull2 0 { start0 with affine := true } = some 16 ∧ (sFull2.core 0).inbox = [start0] ++ { start0 with affine := true } :: [] ∧ coreFree sFull2 0 = false ∧
    (sFull2.core 0).fullSince + 2048 ≤ sFull2.cycle ∧ (sFull2.core 16).inbox.length < 32 := by decide +kernel
theorem wit_RemoteAnswers_boundary : (sReq.slot 0).atBoundary = true ∧ ({ t0 with wait := .remoteDone 0 5 } : Slot).atBoundary = false := by decide +kernel
theorem wit_StepRunsDecoded_parking : (sIssue.slot 0x8000).parking = false := by decide +kernel
/-- A length past the cell's, and an offset that is not aligned. -/
theorem wit_CellLoads_range : ready 0xC7 { eCst with e := .reg 12 } (sLc 8 0x400) ∧ bound { eCst with e := .reg 12 } (sLc 8 0x400) ∧ (8 : Word).toNat % 16 ≠ 0 ∧ ¬ ((0 : Nat) + 65552 ≤ ((((sLc 0 0).table 0).cell 0).sz + 15) / 16 * 16) := by unfold ready bound; decide +kernel
theorem test_cld_range : ended (.cldCp { eCst with e := .reg 12 }) (sLc 8 0x400) = some Cause.cellrange ∧ ended (.cldV eCst) (sLc 8 0x400) = some Cause.cellrange := by decide +kernel
/-- Partition 1 with clusters and control cores of its own, and with none. -/
def sEn (p : Part) : State := { sM 0x0800004000000000 0 with ptsel := 1, parts := [(1, p)] }
/-- Its range of 1 GiB from 0 (R344). -/
def p1 : Part := { p0 with prange := [(0, 0x10000)] }
theorem wit_Partitions_enable : ((sEn { p1 with en := false }).part 1).en = false ∧ rangesOf p1 = [(0, 2 ^ 30)] ∧ enableCheck (sEn p1) 1 = 0 ∧ enableCheck (sEn { p1 with clmask := [] }) 1 ≠ 0 ∧ ready 0xEB (eW 0x301) (sEn p1) := by unfold ready; decide +kernel
theorem test_enable : ((run (.pcwr (eW 0x301)) (sEn { p1 with en := false })).part 1).en = true ∧ ((run (.pcwr (eW 0x301)) (sEn { p1 with en := false, clmask := [] })).part 1).err = 1 := by decide +kernel
theorem wit_FatalErrorsAndLinks_tile : tileBase ≤ tileLoc 16 9 ∧ tileCore (tileLoc 16 9) = 16 ∧ tileWord (tileLoc 16 9) = 4 ∧ 0x2000 < tileBase := by decide
theorem test_tile_error : KV.find? ((memoryError (tileLoc 16 9) 4 sFlow).core 16).mx.errs 4 = some false ∧ (memoryError (tileLoc 16 9) 4 sFlow).poison = [] := by decide +kernel

end Sys2Proof.Tests
end

section
/-! Proofs for R116 (`sel`): the fields its rule accepts, the value it writes, and the channel entry it consumes. -/

namespace Sys2Proof

/-! ### Operand classes -/

theorem operandOk_x_iff {o : Opnd} : operandOk Cls.x o = true ↔ ∃ n, o = .reg n := by
  cases o <;> simp [operandOk, Cls.x]

theorem operandOk_xq_iff {o : Opnd} : operandOk Cls.xq o = true ↔ (∃ n, o = .reg n) ∨ ∃ q, o = .chan q := by
  cases o <;> simp [operandOk, Cls.xq]

theorem operandOk_p_iff {o : Opnd} : operandOk Cls.p o = true ↔ ∃ n, o = .reg n ∧ n.val < 8 := by
  cases o <;> simp [operandOk, Cls.p]

theorem operandOk_none_iff {o : Opnd} : operandOk none o = true ↔ o = .none := by
  cases o <;> simp [operandOk]

/-- A rule that accepts only the 64-bit form meets only instructions without an extension word. -/
theorem ext_none_of_lengthOk {r : Rule} {e : Enc} (h96 : r.f96 = false) (h128 : r.f128 = false) (h : r.lengthOk e = true) : e.ext = .none := by
  cases he : e.ext with
  | none => rfl
  | imm32 w => simp [Rule.lengthOk, he, h96] at h
  | imm64 w => simp [Rule.lengthOk, he, h128] at h

/-- The row of R116. -/
theorem ruleOf_sel (e : Enc) : ruleOf 0x0F e = some { ok := e.v == 0 && e.t == 0, d := Cls.x, a := Cls.xq, b := Cls.xq, c := Cls.p } := rfl

/-- What a well-formed `sel` looks like: the field table of R116, read off its rule. -/
theorem sel_fields {e : Enc} (h : encOk 0x0F e = true) :
    e.ext = .none ∧ (∃ n, e.d = .reg n) ∧ ((∃ n, e.a = .reg n) ∨ ∃ q, e.a = .chan q) ∧ ((∃ n, e.b = .reg n) ∨ ∃ q, e.b = .chan q) ∧
      (∃ n, e.c = .reg n ∧ n.val < 8) ∧ e.e = .none ∧ e.v = 0 ∧ e.t = 0 := by
  simp only [encOk, ruleOf_sel, Rule.fieldsOk, Rule.operandsOk, Bool.and_eq_true, beq_iff_eq, operandOk_x_iff, operandOk_xq_iff,
    operandOk_p_iff, operandOk_none_iff] at h
  obtain ⟨⟨⟨hlen, -⟩, ⟨hv, ht⟩, -⟩, ⟨⟨⟨⟨hd, ha⟩, hb⟩, hc⟩, he⟩, -⟩ := h
  exact ⟨ext_none_of_lengthOk rfl rfl hlen, hd, ha, hb, hc, he, hv, ht⟩

end Sys2Proof

namespace Sys2Proof.Machine

/-! ### Channels of a slot under the updates of an instruction -/

@[simp] theorem Slot.setChan_chan_self (t : Slot) (q : Nat) (c : Chan) : (t.setChan q c).chan q = c := KV.get_set_self _ _ _ _

@[simp] theorem Slot.setX_chan (t : Slot) (n : Nat) (w : Word) (q : Nat) : (t.setX n w).chan q = t.chan q := by
  unfold Slot.setX
  split
  · rfl
  · split <;> rfl

@[simp] theorem Slot.complete_chan (e : Enc) (flow : Flow) (cycle : Nat) (t : Slot) (q : Nat) :
    (t.complete e flow cycle).chan q = t.chan q := by
  cases flow with
  | settled =>
    simp only [Slot.complete]
    split <;> rfl
  | next => cases hl : e.live <;> simp only [Slot.complete, hl] <;> rfl
  | jump a => cases hl : e.live <;> simp only [Slot.complete, hl] <;> rfl

/-- The slot that completes an instruction. -/
@[simp] theorem completed_slot_self (e : Enc) (p : Nat) (flow : Flow) (s : State) :
    (completed e p flow s).slot p = (s.slot p).complete e flow s.cycle :=
  modSlot_slot_self s p _

@[simp] theorem acquired_slot (p scope : Nat) (s : State) (k : Nat) : (acquired p scope s).slot k = s.slot k := by
  unfold acquired
  split <;> rfl

/-! ### Operands -/

theorem readX_reg (p : Nat) (n : Fin 32) (s : State) : readX p (.reg n) s = .ok ((s.slot p).x n.val, s) := rfl

theorem readP_reg (p : Nat) (n : Fin 32) (s : State) : readP p (.reg n) s = .ok ((s.slot p).p n.val, s) := rfl

theorem writeX_reg (p : Nat) (n : Fin 32) (w : Word) (s : State) :
    writeX p (.reg n) w s = .ok ((), s.modSlot p (fun t => t.setX n.val w)) := rfl

/-- A source channel of an instruction whose channels are bound is an `.in` channel (R128). -/
theorem bound_source_input {e : Enc} {s : State} {q : Fin 8} (h : bound e s) (hq : Opnd.chan q ∈ [e.a, e.b, e.c, e.e]) :
    ((s.slot s.cur).chan q.val).kind = .input := by
  obtain ⟨hops, -⟩ := h
  rw [Bool.and_eq_true, List.all_eq_true] at hops
  simpa [chanSourceOk] using hops.1 _ hq

/-- Taking from an `.in` channel gives its head entry, leaves the rest and is an acquire (R71, R128, R140). -/
theorem chanHead_take {p q : Nat} {s : State} {v : Vec} {r : List Vec} (hk : ((s.slot p).chan q).kind = .input)
    (he : ((s.slot p).chan q).entries = v :: r) :
    ∃ scope, chanHead p q true s =
      .ok (v, acquired p scope (s.modSlot p (fun t => t.setChan q { (s.slot p).chan q with entries := r }))) := by
  rw [chanHead, act_bind_ok (act_slot _ _)]
  simp only [hk, he, if_true]
  exact ⟨_, by rw [act_bind_ok (act_modSlot _ _ _), act_bind_ok (act_upd _ _), act_pure]⟩

/-- A channel read as a scalar source gives bits [63:0] of its head entry and is consumed. -/
theorem readX_chan {p : Nat} {q : Fin 8} {s : State} {v : Vec} {r : List Vec} (hk : ((s.slot p).chan q.val).kind = .input)
    (he : ((s.slot p).chan q.val).entries = v :: r) :
    ∃ t, readX p (.chan q) s = .ok (v.setWidth 64, t) ∧ ((t.slot p).chan q.val).entries = r := by
  obtain ⟨scope, hread⟩ := chanHead_take hk he
  exact ⟨_, by rw [readX, act_bind_ok hread, act_pure], by simp⟩

/-! ### `sel` -/

section
variable {e : Enc} {s s1 s2 : State} {a b : Word} {k : Fin 32}

/-- `sel` reads X(A), X(B) and P(C) in this order and then writes the chosen value. -/
theorem exec_sel {t : State} (hs : ready 0x0F e s) (hb : bound e s) (hA : readX s.cur e.a s = .ok (a, s1))
    (hB : readX s.cur e.b s1 = .ok (b, s2)) (hC : e.c = .reg k)
    (hD : writeX s.cur e.d (if (s2.slot s.cur).p k = true then a else b) s2 = .ok ((), t)) :
    exec (.sel e) s = .next (completed e s.cur .next t) := by
  refine issue_completes hs ?_
  have hP : readP s.cur e.c s2 = .ok ((s2.slot s.cur).p k, s2) := by rw [hC, readP_reg]
  rw [act_bind_ok (operandsBound_ok hb), act_bind_ok hA, act_bind_ok hB, act_bind_ok hP, act_bind_ok hD, act_pure]

/-- A `sel` into a register completes once its sources are read, and leaves every channel as its reads left it: so what is consumed does not
depend on the choice. -/
theorem exec_sel_chan {n : Fin 32} (hs : ready 0x0F e s) (hb : bound e s) (hA : readX s.cur e.a s = .ok (a, s1))
    (hB : readX s.cur e.b s1 = .ok (b, s2)) (hC : e.c = .reg k) (hD : e.d = .reg n) :
    ∃ t, exec (.sel e) s = .next t ∧ ∀ q, (t.slot s.cur).chan q = (s2.slot s.cur).chan q :=
  ⟨_, exec_sel hs hb hA hB hC (by rw [hD, writeX_reg]), fun q => by simp⟩

end

/-- Settles O58: the fields from the rule of R116, the value from the order of the reads, and the consumption because both sources are read
before the choice. -/
theorem select : Obligations.Select := by
  refine ⟨fun e => ⟨rfl, sel_fields⟩, fun e s s1 s2 t a b n => exec_sel, ?_⟩
  rintro e q n m k v r s hs hb he hd hc (⟨ha, hB⟩ | ⟨ha, hB⟩)
  · obtain ⟨s1, hread, hrest⟩ := readX_chan (bound_source_input hb (by simp [ha])) he
    obtain ⟨t, ht, hchan⟩ := exec_sel_chan hs hb (by rw [ha, hread]) (by rw [hB, readX_reg]) hc hd
    exact ⟨t, ht, by rw [hchan, hrest]⟩
  · obtain ⟨s2, hread, hrest⟩ := readX_chan (bound_source_input hb (by simp [hB])) he
    obtain ⟨t, ht, hchan⟩ := exec_sel_chan hs hb (by rw [ha, readX_reg]) (by rw [hB, hread]) hc hd
    exact ⟨t, ht, by rw [hchan, hrest]⟩

end Sys2Proof.Machine
end

section
/-! Proofs for R149 (`vsel`, `vand`, `vor`, `vxor`): the run of a three-operand vector instruction, the lanes of a vector (R142), and the lanes
and flags of a lane operation (R143). -/

namespace Sys2Proof.Machine

/-! ### The run of a three-operand vector instruction -/

@[simp] theorem raiseFlags_none (p : Nat) (s : State) : raiseFlags p Fl.none s = s := rfl

section
variable {opc : Nat} {e : Enc} {f : Slot → Vec → Vec → Vec → Vec × Fl} {s s1 s2 s3 t : State} {a b c r : Vec}

/-- The instruction reads V(A), V(B) and V(C) in this order, raises its flags and writes V(D). -/
theorem vecBody_ok {l : Fl} (hb : bound e s) (hA : readV s.cur e.a s = .ok (a, s1)) (hB : readV s.cur e.b s1 = .ok (b, s2))
    (hC : readV s.cur e.c s2 = .ok (c, s3)) (hf : f (s3.slot s.cur) a b c = (r, l))
    (hD : writeV s.cur e.d r (raiseFlags s.cur l s3) = .ok ((), t)) : vecBody e f s.cur s = .ok (.next, t) := by
  rw [vecBody, act_bind_ok (operandsBound_ok hb), act_bind_ok hA, act_bind_ok hB, act_bind_ok hC, act_bind_ok (act_slot _ _)]
  simp only [hf]
  rw [raise, act_bind_ok (act_upd _ _), act_bind_ok hD, act_pure]

/-- One whose value comes with no flag completes with the state its write leaves. -/
theorem issue_vecBody_noFlag (hs : ready opc e s) (hb : bound e s) (hA : readV s.cur e.a s = .ok (a, s1))
    (hB : readV s.cur e.b s1 = .ok (b, s2)) (hC : readV s.cur e.c s2 = .ok (c, s3)) (hf : f (s3.slot s.cur) a b c = (r, Fl.none))
    (hD : writeV s.cur e.d r s3 = .ok ((), t)) : issue opc e (vecBody e f) s = .next (completed e s.cur .next t) :=
  issue_completes hs (vecBody_ok hb hA hB hC hf (by rw [raiseFlags_none]; exact hD))

end

/-! ### Fields of a number -/

theorem splitBits_getElem? {w n i : Nat} (hi : i < n) (v : Nat) : (splitBits w n v)[i]? = some (v / 2 ^ (w * i) % 2 ^ w) := by
  induction n generalizing v i with
  | zero => omega
  | succ n ih =>
    cases i with
    | zero => simp [splitBits]
    | succ i =>
      rw [splitBits, List.getElem?_cons_succ, ih (by omega), Nat.div_div_eq_div_mul, ← Nat.pow_add, Nat.mul_succ, Nat.add_comm w]

/-- A field of joined fields is that field, cut to its width. -/
theorem joinBits_field {w i x : Nat} {l : List Nat} (h : l[i]? = some x) : joinBits w l / 2 ^ (w * i) % 2 ^ w = x % 2 ^ w := by
  induction l generalizing i with
  | nil => simp at h
  | cons y l ih =>
    cases i with
    | zero =>
      obtain rfl : y = x := by simpa using h
      simp [joinBits]
    | succ i =>
      have htail : joinBits w (y :: l) / 2 ^ w = joinBits w l := by
        rw [joinBits, Nat.add_mul_div_left _ _ (Nat.two_pow_pos w), Nat.div_eq_of_lt (Nat.mod_lt y (Nat.two_pow_pos w)), Nat.zero_add]
      rw [Nat.mul_succ, Nat.add_comm, Nat.pow_add, ← Nat.div_div_eq_div_mul, htail]
      exact ih (by simpa using h)

/-! ### Lanes of a vector -/

section
variable {w i : Nat}

theorem specLane_toNat (w i : Nat) (v : Vec) : (specLane w i v).toNat = v.toNat / 2 ^ (w * i) % 2 ^ w := by
  rw [specLane, BitVec.extractLsb'_toNat, Nat.shiftRight_eq_div_pow]

theorem specLane_getLsbD {k : Nat} (hk : k < w) (v : Vec) : (specLane w i v).getLsbD k = v.getLsbD (w * i + k) := by
  simp [specLane, hk]

/-- The lanes of a format lie within the vector. -/
theorem lane_within (hi : i < 128 / w) : w * i + w ≤ 128 := by
  calc w * i + w = (i + 1) * w := by rw [Nat.succ_mul, Nat.mul_comm]
    _ ≤ 128 / w * w := Nat.mul_le_mul_right w hi
    _ ≤ 128 := Nat.div_mul_le_self 128 w

theorem specLane_ofNat (hi : i < 128 / w) (n : Nat) : specLane w i (BitVec.ofNat 128 n) = BitVec.ofNat w (n / 2 ^ (w * i)) := by
  apply BitVec.eq_of_getLsbD_eq
  intro k hk
  have hbit : w * i + k < 128 := by have := lane_within hi; omega
  rw [specLane_getLsbD hk, BitVec.getLsbD_ofNat, BitVec.getLsbD_ofNat, Nat.testBit_div_two_pow, Nat.add_comm k]
  simp only [hk, hbit, decide_true]

/-- A vector is its lanes, where the lanes fill it. -/
theorem eq_of_specLane_eq {u v : Vec} (hw : w ∣ 128) (h : ∀ i, i < 128 / w → specLane w i u = specLane w i v) : u = v := by
  have hpos : 0 < w := Nat.pos_of_dvd_of_pos hw (by decide)
  apply BitVec.eq_of_getLsbD_eq
  intro j hj
  have hbit : j = w * (j / w) + j % w := (Nat.div_add_mod j w).symm
  have hmod : j % w < w := Nat.mod_lt j hpos
  rw [hbit, ← specLane_getLsbD hmod, ← specLane_getLsbD hmod, h _ (Nat.div_lt_div_of_lt_of_dvd hw hj)]

end

/-! ### Lane operations -/

section
variable {t i : Nat} {f : Nat → Nat → Nat → Nat × Fl}

theorem lanesOf_getElem? (hi : i < 128 / fmtWidth t) (v : Vec) : (lanesOf t v)[i]? = some (specLane (fmtWidth t) i v).toNat := by
  rw [lanesOf, splitBits_getElem? hi, specLane_toNat]

theorem specLane_ofLanes {l : List Nat} {x : Nat} (hi : i < 128 / fmtWidth t) (h : l[i]? = some x) :
    specLane (fmtWidth t) i (ofLanes t l) = BitVec.ofNat (fmtWidth t) x := by
  rw [ofLanes, specLane_ofNat hi]
  exact BitVec.eq_of_toNat_eq (by simpa using joinBits_field h)

/-- Lane i of a lane operation is the operation on lanes i of its operands. -/
theorem specLane_mapLanes (hi : i < 128 / fmtWidth t) (a b c : Vec) :
    specLane (fmtWidth t) i (mapLanes t f a b c).1 = BitVec.ofNat (fmtWidth t)
      (f (specLane (fmtWidth t) i a).toNat (specLane (fmtWidth t) i b).toNat (specLane (fmtWidth t) i c).toNat).1 := by
  refine specLane_ofLanes hi ?_
  simp [List.getElem?_zipWith, List.zip, lanesOf_getElem? hi]

theorem foldl_or_none {α : Type} (l : List α) : l.foldl (fun m _ => m ||| Fl.none) Fl.none = Fl.none := by
  induction l with
  | nil => rfl
  | cons _ _ ih => exact ih

/-- A lane operation whose lanes raise no flag raises none. -/
theorem mapLanes_noFlag (hf : ∀ x y z, (f x y z).2 = Fl.none) (a b c : Vec) : (mapLanes t f a b c).2 = Fl.none := by
  simp only [mapLanes, List.zipWith_foldl_eq_zip_foldl, hf]
  exact foldl_or_none _

/-- A lane operation without flags has the value whose lanes are the results of its lanes. -/
theorem mapLanes_eq {a b c r : Vec} (hw : fmtWidth t ∣ 128) (hf : ∀ x y z, (f x y z).2 = Fl.none)
    (hr : ∀ i, i < 128 / fmtWidth t → specLane (fmtWidth t) i r = BitVec.ofNat (fmtWidth t)
      (f (specLane (fmtWidth t) i a).toNat (specLane (fmtWidth t) i b).toNat (specLane (fmtWidth t) i c).toNat).1) :
    mapLanes t f a b c = (r, Fl.none) :=
  Prod.ext (eq_of_specLane_eq hw fun i hi => by rw [specLane_mapLanes hi, hr i hi]) (mapLanes_noFlag hf a b c)

end

/-! ### `vsel` and the bitwise instructions -/

section
variable (inv : Bool) (a b : Vec)

theorem vecLogic_and : vecLogic .and inv a b = a &&& (if inv = true then ~~~b else b) := rfl
theorem vecLogic_or : vecLogic .or inv a b = a ||| (if inv = true then ~~~b else b) := rfl
theorem vecLogic_xor : vecLogic .xor inv a b = a ^^^ (if inv = true then ~~~b else b) := rfl

end

/-- The value `vsel` computes is the vector of the lanes it chooses. -/
theorem mapLanes_select {t : Nat} {a b c r : Vec} (hw : fmtWidth t ∣ 128)
    (hr : ∀ i, i < 128 / fmtWidth t → specLane (fmtWidth t) i r =
      if specLane (fmtWidth t) i c ≠ 0 then specLane (fmtWidth t) i a else specLane (fmtWidth t) i b) :
    mapLanes t (fun x y z => (if z != 0 then x else y, Fl.none)) a b c = (r, Fl.none) := by
  refine mapLanes_eq hw (fun _ _ _ => rfl) fun i hi => ?_
  rw [hr i hi]
  by_cases hz : specLane (fmtWidth t) i c = 0
  · simp [hz]
  · have hne : (specLane (fmtWidth t) i c).toNat ≠ 0 := Nat.ne_of_gt (BitVec.toNat_pos_of_ne_zero hz)
    rw [if_pos hz, if_pos (bne_iff_ne.mpr hne), BitVec.ofNat_toNat, BitVec.setWidth_eq]

/-- A bitwise instruction completes with V(A) and V(B), or its complement, combined bit by bit. -/
theorem issue_vlogicBody {opc : Nat} {e : Enc} {s s1 s2 s3 t : State} {a b c : Vec} (k : Logic) (hs : ready opc e s) (hb : bound e s)
    (hA : readV s.cur e.a s = .ok (a, s1)) (hB : readV s.cur e.b s1 = .ok (b, s2)) (hC : readV s.cur e.c s2 = .ok (c, s3))
    (hD : writeV s.cur e.d (vecLogic k (e.v == 1) a b) s3 = .ok ((), t)) :
    issue opc e (vlogicBody k e) s = .next (completed e s.cur .next t) :=
  issue_vecBody_noFlag hs hb hA hB hC rfl hD

theorem dvd_of_mem_laneWidths {w : Nat} (h : w ∈ [8, 16, 32, 64]) : w ∣ 128 := by
  revert w
  decide

/-- Settles O59: `vsel` by the lanes of a lane operation, the bitwise instructions by the run of their shared body; the lanes and the whole-vector
operations come with no flag, so the state that completes is the one the write leaves. -/
theorem bitwiseLanes : Obligations.BitwiseLanes := by
  intro e s s1 s2 s3 a b c hA hB hb
  refine ⟨fun t hs hC hw r hr hD => ?_, fun t hC => ⟨fun hs hD => ?_, fun hs hD => ?_, fun hs hD => ?_⟩⟩
  · exact issue_vecBody_noFlag hs hb hA hB hC (mapLanes_select (dvd_of_mem_laneWidths hw) hr) hD
  · exact issue_vlogicBody .and hs hb hA hB hC (by simpa only [vecLogic_and, beq_iff_eq] using hD)
  · exact issue_vlogicBody .or hs hb hA hB hC (by simpa only [vecLogic_or, beq_iff_eq] using hD)
  · exact issue_vlogicBody .xor hs hb hA hB hC (by simpa only [vecLogic_xor, beq_iff_eq] using hD)

end Sys2Proof.Machine
end

section
/-! Proofs for R358 (the limits of LIM): what the end of a launch (R26) and the stores of an object's load (R110) leave of the launches and of the
partitions, the event of the act watchdog (R34), and the view limit of a loaded table (R220). -/

namespace Sys2Proof.Machine

/-! ### The records of a state -/

/-- The launches and the partitions of a state: the records that stores, recalls and aborts leave alone. -/
def State.records (s : State) : KV Launch × KV Part := (s.launches, s.parts)

theorem launch_of_records {s t : State} (h : t.records = s.records) (l : Nat) : t.launch l = s.launch l := by
  obtain ⟨hl, -⟩ := Prod.mk.inj h
  rw [State.launch, State.launch, hl]

theorem part_of_records {s t : State} (h : t.records = s.records) (n : Nat) : t.part n = s.part n := by
  obtain ⟨-, hp⟩ := Prod.mk.inj h
  rw [State.part, State.part, hp]

/-- Steps that each keep the records keep them one after another. -/
theorem records_foldl {α : Type} {f : State → α → State} (hf : ∀ s x, (f s x).records = s.records) (l : List α) (s : State) :
    (l.foldl f s).records = s.records := by
  induction l generalizing s with
  | nil => rfl
  | cons x xs ih => rw [List.foldl_cons, ih, hf]

@[simp] theorem records_modDie (s : State) (d : Nat) (f : Die → Die) : (s.modDie d f).records = s.records := rfl
@[simp] theorem records_modCore (s : State) (c : Nat) (f : Core → Core) : (s.modCore c f).records = s.records := rfl
@[simp] theorem records_modRslot (s : State) (r : Nat) (f : RSlot → RSlot) : (s.modRslot r f).records = s.records := rfl
@[simp] theorem records_modBoard (s : State) (f : Board → Board) : (s.modBoard f).records = s.records := rfl

theorem records_update_slots (s : State) (x : KV Slot) : ({ s with slots := x } : State).records = s.records := rfl
theorem records_update_caches (s : State) (x : KV Core) (y : List Tlb) : ({ s with cores := x, tlb := y } : State).records = s.records := rfl

@[simp] theorem after_table (s : State) (k : Nat) : (after s).table k = s.table k := rfl
@[simp] theorem after_launch (s : State) (k : Nat) : (after s).launch k = s.launch k := rfl

/-! ### Stores and machine checks -/

@[simp] theorem records_homePoke (s : State) (loc : Nat) (key : Option Nat) (b : List Byte) : (homePoke s loc key b).records = s.records := rfl

@[simp] theorem records_clearPoison (s : State) (loc n : Nat) : (clearPoison s loc n).records = s.records := by
  unfold clearPoison
  split <;> rfl

@[simp] theorem records_reportTail (writer loc n : Nat) (s : State) : (reportTail writer loc n s).records = s.records := by
  unfold reportTail
  exact records_foldl (fun s _ => records_modBoard s _) _ s

@[simp] theorem records_machineCheck (s : State) (r : McRecord) : (machineCheck s r).records = s.records := by
  simp only [machineCheck]
  split
  · rfl
  · split <;> simp only [records_homePoke, records_modBoard]

@[simp] theorem records_foundPoison (pa : Nat) (s : State) : (foundPoison pa s).records = s.records := by
  simp only [foundPoison]
  split
  · rw [records_machineCheck]; rfl
  · rfl

/-! ### The directory (R403, R404) -/

@[simp] theorem records_setCopy (die pa : Nat) (c : Option Moesi) (s : State) : (setCopy die pa c s).records = s.records := rfl

@[simp] theorem records_setDir (pa : Nat) (e : DirEntry) (s : State) : (setDir pa e s).records = s.records := rfl

@[simp] theorem records_giveUp (die pa : Nat) (s : State) : (giveUp die pa s).records = s.records := by
  simp only [giveUp]
  split <;> simp

@[simp] theorem records_recallFrom (dies : List Nat) (pa : Nat) (s : State) : (recallFrom dies pa s).records = s.records :=
  records_foldl (fun s d => by split <;> simp) dies s

@[simp] theorem records_collapse (home key : Nat) (s : State) : (collapse home key s).records = s.records :=
  records_foldl (fun s x => records_recallFrom (otherDies home) x s) (keyLines key) s

@[simp] theorem records_makeRoom (pa need n : Nat) (s : State) : (makeRoom pa need n s).records = s.records := by
  induction n generalizing s with
  | zero => rfl
  | succ n ih =>
    rw [makeRoom]
    split
    · rfl
    · split
      · split <;> simp [ih]
      · rfl

@[simp] theorem records_dirSettle (pa : Nat) (st : DirState) (s : State) : (dirSettle pa st s).records = s.records := by
  cases st with
  | split =>
    simp only [dirSettle]
    split <;> simp
  | uncached => rfl
  | owned o => rfl
  | shared => rfl

@[simp] theorem records_evict (die pa : Nat) (s : State) : (evict die pa s).records = s.records := by
  simp only [evict]
  split
  · simp
  · split <;> simp

@[simp] theorem records_l2Room (d pa : Nat) (s : State) : (l2Room d pa s).records = s.records := by
  unfold l2Room
  split
  · rfl
  · split <;> simp

@[simp] theorem records_keepCopy (d pa : Nat) (c : Moesi) (s : State) : (keepCopy d pa c s).records = s.records := by
  simp [keepCopy]

@[simp] theorem records_collapsed (die pa : Nat) (c : Moesi) (s : State) : (collapsed die pa c s).records = s.records := by
  unfold collapsed
  split
  · rfl
  · split <;> simp

@[simp] theorem records_dropOthers (d pa : Nat) (s : State) : (dropOthers d pa s).records = s.records :=
  records_foldl (fun s o => by split <;> simp) _ s

@[simp] theorem records_dirWrite (die pa : Nat) (s : State) : (dirWrite die pa s).records = s.records := by
  simp only [dirWrite]
  split
  · rfl
  · split
    · split <;> simp
    · split
      · split <;> simp
      · split <;> simp
      · split <;> simp
      · simp

/-! ### Aborts of regions (R280, R282) -/

@[simp] theorem records_closeSlot (s : State) (rs cause : Nat) : (closeSlot s rs cause).records = s.records := rfl

@[simp] theorem records_abortOne (s : State) (rs cause : Nat) : (abortOne s rs cause).records = s.records := by
  simp only [abortOne]
  split
  · rfl
  · split <;> rfl

@[simp] theorem records_abortAll (n : Nat) (xs : List (Nat × Nat)) (s : State) : (abortAll n xs s).records = s.records := by
  induction n generalizing xs s with
  | zero => rfl
  | succ n ih =>
    cases xs with
    | nil => rfl
    | cons x xs =>
      simp only [abortAll, ih]
      exact records_foldl (fun s (x : Nat × Nat) => records_abortOne s x.1 x.2) _ s

@[simp] theorem records_abortRegions (xs : List (Nat × Nat)) (s : State) : (abortRegions xs s).records = s.records := by
  unfold abortRegions
  split <;> simp

@[simp] theorem records_outsideWrite (s : State) (loc n : Nat) : (outsideWrite s loc n).records = s.records := by
  unfold outsideWrite
  split
  · rfl
  · exact records_foldl (fun s g => records_abortRegions _ s) _ s

/-! ### The end of a launch (R26) -/

theorem records_dropEdits (l : Nat) (s : State) : (dropEdits l s).records = s.records := rfl
theorem records_dropViews (l : Nat) (s : State) : (dropViews l s).records = s.records := rfl
theorem records_dropWork (l : Nat) (s : State) : (dropWork l s).records = s.records := rfl

theorem records_stopBut (l : Nat) (late : Nat → Slot → Bool) (s : State) : (stopBut l late s).records = s.records := by
  simp only [stopBut]
  rw [records_update_slots, records_dropWork, records_abortRegions, records_dropEdits, records_dropViews]

/-- A fault of an act whose launch has met none before is recorded, and its launch is ENDING (R26, R28). -/
theorem actFault_launch {p : Option Nat} {l : Nat} {f : LFault} {s : State} (hst : (s.launch l).st.terminal = false)
    (hf : (s.launch l).fault = none) : (actFault p l f s).launch l = { s.launch l with fault := some f, st := .ending } := by
  simp only [actFault, hst, hf, Option.isSome_none, Bool.false_eq_true, if_false]
  rw [launch_of_records (records_stopBut _ _ _), modLaunch_launch_self]

/-- A fault without poison of an act on a compute core is a fault of its launch. -/
theorem raiseFault_compute {p l cause : Nat} {detail : Word} {s : State} (hp : isCtl p = false) (hl : (s.slot p).launch = some l) :
    raiseFault p cause detail none s =
      actFault (some p) l { cause := cause, detail := detail, where_ := p, ginst := (s.ginst (s.slot p).ginst).num } s := by
  simp [raiseFault, hp, hl]

/-! ### The act watchdog (R34) -/

/-- The watchdog of an act on a compute core is due exactly when its count has reached the limit of its launch's partition. -/
theorem watchdogDue_eq {p l : Nat} {s : State} (hst : (s.slot p).st = .active) (hp : isCtl p = false) (hl : (s.slot p).launch = some l) :
    watchdogDue s p = decide ((wdLimit s (s.launch l).part : Int) ≤ (s.cycle : Int) - (s.slot p).wdBase) := by
  simp [watchdogDue, hst, hp, hl]

theorem exec_actWatchdog (p : Nat) (s : State) : exec (.actWatchdog p) s = execActWatchdog p s := rfl

/-- The fault of an act whose watchdog has reached the limit, at the address of its next instruction (R34). -/
def watchdogFault (p : Nat) (s : State) : LFault :=
  { cause := Cause.watchdog, detail := BitVec.ofNat 64 (s.slot p).pc, where_ := p, ginst := (s.ginst (s.slot p).ginst).num }

/-- At the limit the act faults with WATCHDOG, and its launch ends. -/
theorem exec_actWatchdog_due {p l : Nat} {s : State} (hr : running s) (hdue : watchdogDue s p = true) (hp : isCtl p = false)
    (hl : (s.slot p).launch = some l) (hst : (s.launch l).st.terminal = false) (hf : (s.launch l).fault = none) :
    ∃ t f, exec (.actWatchdog p) s = .next t ∧ (t.launch l).st = .ending ∧ (t.launch l).fault = some f ∧ f.cause = Cause.watchdog := by
  have hlaunch := actFault_launch (p := some p) (f := watchdogFault p s) hst hf
  have hexec : exec (.actWatchdog p) s = .next (after (actFault (some p) l (watchdogFault p s) s)) := by
    rw [exec_actWatchdog, execActWatchdog]
    exact event_enabled hr (by rw [if_pos hdue, raiseFault_compute hp hl, watchdogFault])
  refine ⟨_, watchdogFault p s, hexec, ?_, ?_, rfl⟩
  · rw [after_launch, hlaunch]
  · rw [after_launch, hlaunch]

/-- Before the limit the event is not enabled. -/
theorem exec_actWatchdog_early {p : Nat} {s : State} (hdue : watchdogDue s p = false) :
    exec (.actWatchdog p) s = .next (tick { s with idle := true }) := by
  rw [exec_actWatchdog, execActWatchdog]
  exact event_disabled (by simp [hdue])

/-! ### The load of an object (R110, R445) -/

@[simp] theorem records_homeStore (q : Phys) (b : List Byte) (s : State) : (homeStore none q b s).records = s.records := by
  have hdir : (dirRequest (homeDie q.loc) true q.loc s).records = s.records := by
    unfold dirRequest
    split <;> simp
  simp only [homeStore, homeStoreFrom, records_reportTail, records_clearPoison, records_homePoke]
  split <;> simp [hdir]

@[simp] theorem records_setLeaf (part : Nat) (w x : Bool) (attr : Nat) (s : State) (va : Nat) : (setLeaf part w x attr s va).records = s.records := by
  unfold setLeaf
  split <;> simp

@[simp] theorem records_placeBytes (part va : Nat) (b : List Byte) (s : State) : (placeBytes part va b s).records = s.records :=
  records_foldl (fun s x => by split <;> simp) _ s

/-- The stores that place an object leave its partition, and so LIM, as it was. -/
@[simp] theorem records_placeObject (part : Nat) (f : LoadFile) (s : State) : (placeObject part f s).records = s.records := by
  have hleaf (w x : Bool) (attr : Nat) (l : List Nat) (s : State) : (l.foldl (setLeaf part w x attr) s).records = s.records :=
    records_foldl (records_setLeaf part w x attr) l s
  simp only [placeObject]
  rw [records_foldl fun _ _ => records_placeBytes _ _ _ _, records_foldl fun _ _ => records_placeBytes _ _ _ _, records_update_caches,
    hleaf, hleaf, hleaf]

theorem exec_objectLoad (p d id base : Nat) (file : List Byte) (s : State) :
    exec (.objectLoad p d id base file) s = execObjectLoad p d id base file s := rfl

/-- The state in which a load that has passed its checks has placed object `id` and entered it. -/
def withObject (p id base : Nat) (file : List Byte) (f : LoadFile) (s : State) : State :=
  let s := placeObject p f (s.modBoard (fun b => { b with loadStatus := (loadCheck s p base file).1 }))
  { s with objs := KV.set s.objs (objKey p id) (objectOf p id f) }

/-- That state with the object's cell table entered too. -/
def withTable (p d id : Nat) (f : LoadFile) (s : State) : State :=
  { s with tables := KV.set s.tables (objKey p id) (tableOf s p d id f), frontier := KV.erase s.frontier (tableDomain (objKey p id)) }

theorem records_withObject (p id base : Nat) (file : List Byte) (f : LoadFile) (s : State) : (withObject p id base file f s).records = s.records :=
  (records_placeObject p f (s.modBoard _)).trans (records_modBoard s _)

theorem withTable_table (p d id : Nat) (f : LoadFile) (s : State) : (withTable p d id f s).table (objKey p id) = tableOf s p d id f :=
  KV.get_set_self _ _ _ _

/-- A load of a file with cells that passes its checks enters the object and its cell table. -/
theorem exec_objectLoad_cells {p d id base : Nat} {file : List Byte} {f : LoadFile} {s : State} (hr : running s) (hen : (s.part p).en = true)
    (hobj : KV.find? s.objs (objKey p id) = none) (hd : d < 4) (hload : (loadCheck s p base file).2 = some f) (hcells : f.cells ≠ []) :
    exec (.objectLoad p d id base file) s = .next (after (withTable p d id f (withObject p id base file f s))) := by
  have hguard : (!(s.part p).en || (KV.find? s.objs (objKey p id)).isSome || decide (4 ≤ d)) = false := by
    simp [hen, hobj, hd]
  have hempty : f.cells.isEmpty = false := by simpa using hcells
  rw [exec_objectLoad, execObjectLoad]
  refine event_enabled hr ?_
  simp only [hguard, hload, hempty, Bool.false_eq_true, if_false]
  rfl

/-! ### R358 -/

/-- The limits that reset gives every partition: LIM is 0x1418 (R343). -/
theorem reset_limits (n : Nat) : (State.reset.part n).lim.toNat % 64 = 24 ∧ (State.reset.part n).lim.toNat / 2 ^ 8 % 64 = 20 := by
  have hpart : State.reset.part n = {} := rfl
  rw [hpart]
  decide

/-- Settles O60: the limits of LIM at reset; the watchdog's event on both sides of the limit; the table of a load, whose stores leave the
partition's LIM alone. -/
theorem watchdogLimits : Obligations.WatchdogLimits := by
  refine ⟨fun n => ?_, fun p l s hr hst hp hl _ hterm hfault => ⟨fun hle => ?_, fun hlt => ?_⟩,
    fun p d id base file f s hr hen hobj hd hload hcells => ?_⟩
  · obtain ⟨hact, hview⟩ := reset_limits n
    rw [hact, hview]
    exact ⟨rfl, rfl⟩
  · have hdue : watchdogDue s p = true := by rw [watchdogDue_eq hst hp hl]; exact decide_eq_true hle
    exact exec_actWatchdog_due hr hdue hp hl hterm hfault
  · have hnot : watchdogDue s p = false := by rw [watchdogDue_eq hst hp hl]; exact decide_eq_false (Int.not_le.mpr hlt)
    exact exec_actWatchdog_early hnot
  · refine ⟨_, exec_objectLoad_cells hr hen hobj hd hload hcells, ?_⟩
    rw [after_table, withTable_table, tableOf, part_of_records (records_withObject p id base file f s)]

end Sys2Proof.Machine
end
